-- ==== Sys2Proof/Word.lean ====
section
/-!
DEFINITION. The word types of the Goraskey: bytes, addresses, device time and the numbers of its resources (Table 0-3).
-/

namespace Sys2Proof

abbrev Byte := BitVec 8
/-- A 64-byte line (Numbers and units, 00_scope). Byte i of the line is bits [8i+7:8i] (R1, R2). -/
abbrev Line := BitVec 512
/-- Device time: an unsigned 64-bit count of nanoseconds (R3). -/
abbrev Time := BitVec 64
/-- Board system address (Table 2-1). -/
abbrev SA := BitVec 48
/-- Device-local address (Table 2-1). -/
abbrev DLA := BitVec 45
/-- Numbers of resources (Table 0-3); each width holds exactly the identifiers of the table. -/
abbrev DevId := BitVec 3
abbrev HostSock := BitVec 4
abbrev HLink := BitVec 3
abbrev XLink := BitVec 5
abbrev PLink := BitVec 4
abbrev Port := BitVec 7
abbrev Quad := BitVec 5
abbrev Bench := BitVec 8
abbrev Cluster := BitVec 4
abbrev Stack := BitVec 3
abbrev WinId := BitVec 6
abbrev QueueId := BitVec 13
abbrev EventId := BitVec 11
abbrev CIdx := BitVec 12
abbrev JobSeq := BitVec 16

end Sys2Proof
end

