-- ==== Sys2Proof/Types.lean ====
section
/-!
DEFINITION. The enumerations and message records of the spec that commands carry and state holds.
-/

namespace Sys2Proof

/-- The four latency classes with their CLASS encodings in order: Ash 0, Slate 1, Ochre 2, Vermilion 3 (Table 2-9). -/
inductive LClass | ash | slate | ochre | vermilion
  deriving DecidableEq, Repr

/-- MetaValue of a host request (Table 4-3). -/
inductive MetaValue | i | s | a
  deriving DecidableEq, Repr

/-- Dictionary status codes, 0x00 to 0x08 in order (Table 0-7). -/
inductive DStatus
  | ok | noObject | type | access | locked | busy | range | quiesceRequired | full
  deriving DecidableEq, Repr

/-- Job status codes, 0x00 to 0x0A in order (Table 0-6). -/
inductive JStatus
  | ok | partialFail | poisoned | rights | unmapped | queueReset | aborted | checkMismatch
  | reservationLost | timeout | descriptorBad
  deriving DecidableEq, Repr

/-- Role of a slot (R284): idle 0, host 1, expander 2, peer 3. -/
inductive Role | idle | host | expander | peer
  deriving DecidableEq, Repr

/-- The transports of Table 13-2. -/
inductive Transport | mailbox | mctpPcie | bar0 | i3c | console
  deriving DecidableEq, Repr

/-- Accessor classes S, O and C (R384). -/
inductive AClass | s | o | c
  deriving DecidableEq, Repr

/-- An accessor's identity (Table 13-2): the host link (in band), the source EID (MCTP), or the console. -/
structure Accessor where
  transport : Transport
  link : HLink
  eid : Byte
  deriving DecidableEq, Repr

/-- Requester kinds, RQK of Table 11-2 in order 0 to 6. -/
inductive RqKind
  | hostSocket | userQueue | supervisorQueue | chainUser | chainSupervisor | management | deviceWork
  deriving DecidableEq, Repr

/-- Back-invalidate snoops: BISnpCur 0, BISnpData 1, BISnpInv 2 (0x30:0022). -/
inductive SnpKind | cur | data | inv
  deriving DecidableEq, Repr

/-- Back-invalidate responses (Table 4-4). -/
inductive BIRsp | i | s | e
  deriving DecidableEq, Repr

/-- What a completion grants: nothing (MemData only), Cmp, Cmp-S, Cmp-E (Table 4-3). -/
inductive Grant | none | cmp | cmpS | cmpE
  deriving DecidableEq, Repr

/-- What a request asks of its home bench: the host requests of Table 4-3 and the requests of
non-caching requesters (R124, R125, R221 to R226, Table 11-3). -/
inductive ReqOp
  | memRd (m : MetaValue)
  | memRdData
  | memInv (m : MetaValue)
  | memClnEvct
  | memSpecRd
  | memWr (m : MetaValue)
  | memWrPtl (m : MetaValue)
  | ncRead
  | ncWrite
  | ncWritePtl
  | atomic (kind : BitVec 2) (size8 : Bool) (off : BitVec 4) (v1 v2 : BitVec 64)
  | reserve (size8 : Bool) (off : BitVec 4)
  | condstore (size8 : Bool) (off : BitVec 4) (v1 : BitVec 64)
  | flushLine (inval : Bool)
  | prefetchLine (rank : BitVec 2)
  | migrateRelease
  | invalidateBlock (sectors : BitVec 64)
  deriving DecidableEq, Repr

/-- A host M2S message as its member link receives it (R27, R101, R297, R368). -/
structure HostMsg where
  link : HLink
  member : BitVec 2
  hpa : BitVec 64
  tag : BitVec 16
  ide : Bool
  deriving DecidableEq, Repr

/-- A REQ message of the peer protocol, the fields of Table 11-2 that it carries. -/
structure PeerReq where
  src : DevId
  dst : DevId
  via : Option DevId
  resent : Bool
  op : ReqOp
  tag : BitVec 16
  rqk : RqKind
  hs : HostSock
  cls : LClass
  lcls : LClass
  cidx : CIdx
  tin : BitVec 22
  sa : SA
  data : Line
  be : BitVec 64
  poison : Bool
  queue : QueueId
  epoch : BitVec 8
  deriving DecidableEq, Repr

/-- An SNP message of the peer protocol. -/
structure PeerSnp where
  src : DevId
  dst : DevId
  via : Option DevId
  resent : Bool
  kind : SnpKind
  tag : BitVec 16
  hs : HostSock
  sa : SA
  deriving DecidableEq, Repr

/-- RSP and DATA opcodes of Table 11-3. -/
inductive RspOp
  | cmp (g : Grant)
  | memData (g : Grant)
  | biConflictAck
  | partDone
  | jobData
  | birsp (r : BIRsp)
  | biConflict
  | snoopWb (full : Bool)
  deriving DecidableEq, Repr

/-- An RSP or DATA message of the peer protocol, the fields of Table 11-2. -/
structure PeerRsp where
  src : DevId
  dst : DevId
  via : Option DevId
  resent : Bool
  op : RspOp
  tag : BitVec 16
  rsq : BitVec 16
  hs : HostSock
  sa : SA
  cls : LClass
  status : JStatus
  mismatch : Bool
  hit : Bool
  causeFault : Bool
  causePartner : Bool
  causeCoherence : Bool
  rqc : Bool
  devload : BitVec 2
  dsl : BitVec 12             -- time left to the scheduling deadline in units of 8 ns; all ones: none
  poison : Bool
  data : Line
  be : BitVec 64
  deriving DecidableEq, Repr

/-- Contract record (Table 5-3). STATE: 0 free, 1 pending, 2 admitted, 3 revoked. REASON: Table 5-5. -/
structure Contract where
  link : HLink
  cls : LClass
  win : WinId
  homemask : BitVec 8
  rate : BitVec 12
  burst : BitVec 13
  miss : BitVec 9
  write : BitVec 9
  state : BitVec 2
  reason : BitVec 8
  tag : BitVec 16
  admitted : Time
  deriving DecidableEq, Repr

/-- One window directory entry (R139). -/
structure DirEntry where
  base : BitVec 15
  limit : BitVec 15
  cls : LClass
  enabled : Bool
  deriving DecidableEq, Repr

/-- HELLO (Table 11-3): board identifier, BID, version, domain map, serial number and the sender's link number. -/
structure HelloMsg where
  bid : DevId
  board : BitVec 64
  version : BitVec 16
  dmap : BitVec 32
  serial : BitVec 64
  link : PLink
  deriving DecidableEq, Repr

/-- The message a SALVAGE wraps (R341). -/
inductive SalvageMsg
  | req (m : PeerReq)
  | snp (m : PeerSnp)
  | rsp (m : PeerRsp)
  deriving DecidableEq, Repr

/-- A request of a non-caching requester (R124, R125): who asks and which line. -/
structure NcReq where
  rqk : RqKind
  queue : QueueId
  epoch : Byte
  sa : SA
  deriving DecidableEq, Repr

/-- A proposed queue context (Table 7-1): the fields a creation writes. -/
structure QueueRec where
  sqBase : BitVec 36
  cqBase : BitVec 36
  sqLog : BitVec 5
  cqLog : BitVec 5
  priv : Bool
  link : HLink
  notify : BitVec 10
  maxJobs : BitVec 7
  tlimit : BitVec 32
  deriving DecidableEq, Repr

/-- The strap pins (R360). -/
structure Straps where
  bid : DevId
  mode : BitVec 2
  defcfg : Bool
  deriving DecidableEq, Repr

/-- What a PCIe configuration request on a member asks (R290, R368): a read of a doubleword, the assignment of a BAR,
the Mem_Enable bit, or the MSI-X message control word. -/
inductive CfgReq
  | read (offset : BitVec 12)
  | barWrite (bar : BitVec 2) (base : BitVec 64)
  | memEnable (on : Bool)
  | msixControl (enable mask : Bool)
  deriving DecidableEq, Repr

/-- A Henos request frame after R387's layout: header FLAGS, SEQ, KIND and the request body of Table 13-5, with its CRC. -/
structure Frame where
  kind : Byte
  flags : Byte
  seq : BitVec 16
  len : BitVec 16
  op : Byte
  type : Byte
  group : Byte
  item : BitVec 16
  index : BitVec 16
  arg : BitVec 32
  value : List Byte
  crc : BitVec 32
  member : BitVec 2           -- member function on which it arrived over PCIe; 0 elsewhere (R406)
  deriving DecidableEq, Repr

/-- What every response of an expander carries: the request it answers and its DevLoad (R79, Table 10-3; log entry 127). -/
structure XAnswer where
  rid : Nat
  load : BitVec 2
  deriving DecidableEq, Repr

/-- Where a frame comes from: its accessor, and over PCIe the member function on which it arrives (R406). -/
structure FrameFrom where
  acc : Accessor
  member : BitVec 2
  deriving DecidableEq, Repr

/-- Identity an expander shows at enumeration (R312, R313, R507). -/
structure XIdent where
  type3 : Bool
  switchOrMld : Bool
  capacity : BitVec 64
  decoderOk : Bool
  ideCapable : Bool
  serial : BitVec 64
  cxlVersion : BitVec 8
  flitSize : BitVec 8
  deriving DecidableEq, Repr

/-- What training or a retrain of a member link found (R299 to R301, R306, R324): per-lane fault codes of the slot
(Table 10-5, 0 good), polarity inversions, the speed in GT/s both partners reach, whether the partner offers the
protocol of the link's role, and its flit size. -/
structure TrainResult where
  lanes : List (BitVec 4)
  polarity : BitVec 16
  speed : BitVec 8
  protocolOk : Bool
  flitSize : BitVec 8
  deriving DecidableEq, Repr

/-- Why capacity shrank and a revocation pass runs (R165, R167). -/
inductive PassCause
  | hostLink (l : HLink)
  | linkClass (l : HLink)
  | expander (x : XLink)
  | expanderLost (x : XLink)
  | peerLinks (d : DevId)
  | benches
  | window (w : WinId)
  | param
  | thermal (c : Cluster) (mhz : BitVec 12)
  deriving DecidableEq, Repr

/-- A BAR access: which BAR, the byte offset, the number of doublewords, the byte enables over them (R420). -/
structure BarAccess where
  link : HLink
  member : BitVec 2
  bar : BitVec 2
  offset : BitVec 26
  dwords : BitVec 10
  be : BitVec 8
  deriving DecidableEq, Repr

/-- An observation that Seam may capture (Table 17-10): its type, island, the 16-bit time tag R482 gives it, the
fields the filters look at, and the body bytes from offset 16 on. -/
structure SeamObs where
  type : BitVec 4
  island : BitVec 8
  tag : BitVec 16
  cls : LClass
  link : HLink
  cluster : Cluster
  gib : BitVec 18
  body : List Byte
  deriving DecidableEq, Repr

end Sys2Proof
end

