-- ==== Sys2Proof/Syntax.lean ====
section
/-!
DEFINITION. The commands of the Goraskey: one constructor for each row of spec/opcode_table.json, in the table's order.
-/

namespace Sys2Proof

/-- A command. Each docstring names the row's rule; operands are what the command carries from outside, or the number
of the unit, request or message on which a step of the part acts. -/
inductive Instr
  -- host requests (04, R110) and what follows them in the windows (02)
  /-- R110 -/ | memRd (m : HostMsg) (mv : MetaValue)
  /-- R110 -/ | memRdData (m : HostMsg)
  /-- R110; `nt` says MemInvNT. -/ | memInv (m : HostMsg) (mv : MetaValue) (nt : Bool)
  /-- R126 -/ | memSpecRd (m : HostMsg)
  /-- R110 -/ | memClnEvct (m : HostMsg)
  /-- R110 -/ | memWr (m : HostMsg) (mv : MetaValue) (data : Line) (poison : Bool)
  /-- R110 -/ | memWrPtl (m : HostMsg) (mv : MetaValue) (data : Line) (be : BitVec 64) (poison : Bool)
  /-- R295; `read` says the opcode reads. -/ | unsupportedHostOpcode (m : HostMsg) (read : Bool)
  /-- R48: the mark request of the held request `id` reaches island 164. -/ | markRequest (id : Nat)
  /-- R49 -/ | markTimeout (w : WinId) (seg : BitVec 6)
  /-- R49 -/ | markRelease (b : Bench) (w : WinId) (seg : BitVec 6)
  /-- R49 -/ | setDirtyReleaseSegment (acc : Accessor) (w : WinId) (seg : BitVec 6)
  /-- R49 -/ | setDirtyReleasePending (acc : Accessor) (w : WinId)
  /-- R49 -/ | setDirtyAllSegments (acc : Accessor) (w : WinId)
  /-- R47 -/ | winDrtClear (acc : Accessor) (w : WinId) (mask : BitVec 64)
  /-- R47 -/ | winAccClear (acc : Accessor) (w : WinId) (mask : BitVec 64)
  /-- R39 -/ | winEnable (acc : Accessor) (w : WinId) (flush : Bool)
  /-- R54 -/ | winDisable (acc : Accessor) (w : WinId) (flush : Bool)
  /-- R54 -/ | windowDrainComplete (w : WinId)
  /-- R52; `reg` 0 WIN_BASE, 1 WIN_LIMIT, 2 WIN_TGT. -/ | winGeometryWrite (acc : Accessor) (w : WinId) (reg : BitVec 2) (value : BitVec 32)
  /-- R52 -/ | winAttrWrite (acc : Accessor) (w : WinId) (value : BitVec 32)
  -- the bench array (03)
  /-- R65 -/ | setHeadReturn (b : Bench) (ls : BitVec 15)
  /-- R255 -/ | sectorReadReturn (id : Nat)
  /-- R71 -/ | expanderReadResponse (x : XLink) (ans : XAnswer) (data : Line) (poison : Bool)
  /-- R79 -/ | expanderWriteAccept (x : XLink) (ans : XAnswer)
  /-- R314 -/ | expanderCompletionTimeout (x : XLink) (rid : Nat)
  /-- R82 -/ | wbufDrainTimeout (b : Bench) (slot : BitVec 6)
  /-- R82 -/ | wbufDrainComplete (b : Bench) (slot : BitVec 6)
  /-- R89 -/ | trackerRelease (id : Nat)
  /-- R80 -/ | sweepStart (b : Bench)
  /-- R90 -/ | maintClean (acc : Accessor)
  /-- R90 -/ | maintCleanInvalidate (acc : Accessor)
  /-- R90 -/ | maintInvalidate (acc : Accessor)
  /-- R93 -/ | cleanInvalidateWay (acc : Accessor)
  /-- R93 -/ | disableWay (acc : Accessor)
  /-- R93 -/ | enableWay (acc : Accessor)
  /-- R92 -/ | rangeOperationComplete
  /-- R93 -/ | setAndWayComplete
  /-- R96; `reg` 0 BCH_MBASE, 1 BCH_MLIM, 2 BCH_MSW. -/ | maintParamWrite (acc : Accessor) (reg : BitVec 2) (value : BitVec 64)
  /-- R97 -/ | cacheDisable (acc : Accessor)
  /-- R97 -/ | cacheCleanComplete
  /-- R99 -/ | cacheEnable (acc : Accessor)
  /-- R99 -/ | invalidateAll (acc : Accessor)
  /-- R99 -/ | invalidateAllComplete
  -- coherence (04)
  /-- R112 -/ | birsp (link : HLink) (member : BitVec 2) (sa : SA) (rsp : BIRsp)
  /-- R113 -/ | snoopWriteBack (m : HostMsg) (data : Line) (be : BitVec 64) (poison : Bool)
  /-- R114 -/ | biconflict (link : HLink) (member : BitVec 2) (sa : SA)
  /-- R115: the outstanding snoop `id`. -/ | bisnpTimeout (id : Nat)
  /-- R117: the request `id` that waits for a hold. -/ | holdExpiry (id : Nat)
  /-- R123 -/ | evictionRateCheck
  /-- R124 -/ | noncachingRead (rq : NcReq)
  /-- R125 -/ | noncachingWrite (rq : NcReq) (data : Line) (be : BitVec 64) (poison : Bool)
  /-- R132: the response `id`. -/ | hostResponseEgress (id : Nat)
  /-- R308: the lead port and the bytes assembled so far. -/ | flitTransmit (p : Port) (assembled : BitVec 9)
  -- latency contracts (05)
  /-- R138 -/ | bucketUpdate
  /-- R148 -/ | issueSlot (b : Bench)
  /-- R142 -/ | contractAdmit (acc : Accessor) (rec : Contract)
  /-- R142 -/ | shareProposal (src : DevId) (entry : CIdx) (rec : Contract) (linkClass : LClass)
  /-- R142; reason 0 accepts. -/ | shareAccept (src : DevId) (entry : CIdx) (reason : Byte) (resource : Byte) (bench : BitVec 16)
  /-- R142 -/ | shareCommit (src : DevId) (entry : CIdx) (admitted : Time)
  /-- R142 -/ | setAsideComplete (b : Bench) (src : DevId) (entry : CIdx)
  /-- R142 -/ | shareConfirm (src : DevId) (entry : CIdx)
  /-- R142 -/ | shareAbort (src : DevId) (entry : CIdx)
  /-- R142 -/ | admissionTimeout (entry : CIdx) (dev : DevId)
  /-- R147 -/ | contractDelete (acc : Accessor) (entry : CIdx)
  /-- R147 -/ | shareRelease (src : DevId) (entry : CIdx)
  /-- R147 -/ | deleteTimeout (entry : CIdx)
  /-- R169; `item` is the object of group 0x38. -/ | contractParamWrite (acc : Accessor) (item : BitVec 16) (value : BitVec 32)
  /-- R166: the oldest capacity change reported. -/ | revocationPass
  /-- R166 -/ | revoke (src : DevId) (entry : CIdx) (reason : Byte)
  /-- R166 -/ | revocationGraceEnd
  /-- R153 -/ | startAssay (acc : Accessor) (x : XLink)
  /-- R153 -/ | assayStart (x : XLink)
  /-- R155 -/ | assayComplete (x : XLink)
  /-- R157 -/ | disqualification (x : XLink)
  -- haul work (06)
  /-- R176 -/ | slackUpdate
  /-- R187 -/ | jobStepRelease
  /-- R178 -/ | stepStart (b : Bench)
  /-- R172 -/ | stepCut (b : Bench)
  /-- R177 -/ | stepEnd (b : Bench)
  /-- R183 -/ | stealRequest (b : Bench)
  /-- R183 -/ | stealRetry (b : Bench)
  /-- R184 -/ | stealRecordArrival (b : Bench)
  /-- R185 -/ | countPublish
  /-- R186 -/ | stealMature (c : Cluster)
  /-- R189 -/ | queuePurge (b : Bench) (q : QueueId) (epoch : Byte)
  -- job queues (07)
  /-- R193 -/ | queueCreate (acc : Accessor) (rec : QueueRec)
  /-- R197 -/ | sqTailWrite (link : HLink) (q : QueueId) (value : BitVec 32)
  /-- R198 -/ | cqHeadWrite (link : HLink) (q : QueueId) (value : BitVec 32)
  /-- R194 -/ | inertDoorbellWrite (link : HLink) (q : QueueId)
  /-- R199 -/ | descriptorFetch
  /-- R199 -/ | descriptorFetchReturn (q : QueueId)
  /-- R205 -/ | nop (q : QueueId) (j : JobSeq)
  /-- R225 -/ | copy (b : Bench)
  /-- R205 -/ | fill (b : Bench)
  /-- R237 -/ | check (b : Bench)
  /-- R205 -/ | flush (b : Bench)
  /-- R205 -/ | prefetch (b : Bench)
  /-- R221 -/ | atomic (b : Bench)
  /-- R222 -/ | reserve (b : Bench)
  /-- R224 -/ | condstore (b : Bench)
  /-- R216 -/ | fence (q : QueueId) (j : JobSeq)
  /-- R216 -/ | fenceComplete (q : QueueId) (j : JobSeq)
  /-- R226 -/ | migrate (b : Bench)
  /-- R226 -/ | migrateReleaseLine (sa : SA)
  /-- R208 -/ | jobComplete (q : QueueId) (j : JobSeq)
  /-- R213 -/ | jobTimeout (q : QueueId) (j : JobSeq)
  /-- R214 -/ | jobAbort (acc : Accessor) (q : QueueId) (j : JobSeq)
  /-- R228 -/ | queueReset (acc : Accessor) (q : QueueId)
  /-- R228 -/ | queueResetComplete (q : QueueId)
  /-- R228 -/ | queueRestart (acc : Accessor) (q : QueueId)
  /-- R229 -/ | queueDestroy (acc : Accessor) (q : QueueId)
  /-- R196; `tlimit` says TLIMIT, else MAXJOBS. -/ | queueLimitWrite (acc : Accessor) (q : QueueId) (tlimit : Bool) (value : BitVec 32)
  /-- R243 -/ | engineParityFault (e : BitVec 5)
  /-- R243 -/ | engineReturnToService (acc : Accessor) (e : BitVec 5)
  -- data array and reliability (09)
  /-- R257 -/ | scrubSchedule (b : Bench)
  /-- R259 -/ | scrubEnableWrite (acc : Accessor) (value : BitVec 8)
  /-- R257 -/ | scrubPeriodWrite (acc : Accessor) (value : BitVec 8)
  /-- R264 -/ | logAcknowledge (acc : Accessor) (seq : BitVec 32)
  /-- R266 -/ | hbcFlipArm (acc : Accessor) (s : Stack) (value : BitVec 32)
  /-- R266 -/ | hbcFlipDisarm (acc : Accessor) (s : Stack) (value : BitVec 32)
  /-- R267 -/ | bflipArm (acc : Accessor) (b : Bench) (value : BitVec 32)
  /-- R267 -/ | bflipDisarm (acc : Accessor) (b : Bench) (value : BitVec 32)
  /-- R268; the codeword address as 0x50:0030 carries it. -/ | rowRemap (acc : Accessor) (s : Stack) (cw : BitVec 32)
  /-- R268 -/ | rowRemapComplete (s : Stack)
  /-- R270 -/ | autoPersistCommit
  /-- R271 -/ | stackRetire (acc : Accessor) (s : Stack)
  /-- R271 -/ | stackRetireComplete (s : Stack)
  /-- R272 -/ | enterContainment (acc : Accessor) (value : Byte)
  /-- R272 -/ | contain (src : DevId)
  /-- R273 -/ | answerDeadline
  /-- R273 -/ | containmentWritebackComplete
  /-- R273 -/ | writebackLimitExpiry
  /-- R275 -/ | containmentHoldExpiry
  -- ports, links and expanders (10)
  /-- R316 -/ | expanderLoss (x : XLink)
  /-- R285 -/ | quadConfigWrite (acc : Accessor) (q : Quad) (value : BitVec 32)
  /-- R293 -/ | hostLinkParamWrite (acc : Accessor) (l : HLink) (value : BitVec 32)
  /-- R292 -/ | hdmDecoderCommit (l : HLink) (i : BitVec 2) (base size skip : BitVec 64) (iw ig : BitVec 4)
  /-- R291 -/ | functionLevelReset (l : HLink) (member : BitVec 2)
  /-- R302 -/ | perstDeassert (l : HLink)
  /-- R310 -/ | perstAssert (l : HLink)
  /-- R299 -/ | linkTrainingComplete (p : Port) (r : TrainResult)
  /-- R310 -/ | memberLinkDown (p : Port)
  /-- R303 -/ | correctableEvent (p : Port) (nak : Bool)
  /-- R303 -/ | thresholdWindowTick
  /-- R305 -/ | graceWindowEnd (p : Port)
  /-- R304 -/ | uncorrectableLinkError (p : Port)
  /-- R306 -/ | retrainComplete (p : Port) (r : TrainResult)
  /-- R306 -/ | retrainTimeout (p : Port)
  /-- R298 -/ | ideIntegrityFailure (p : Port)
  /-- R311 -/ | expanderDetectPoll (x : XLink) (receiver : Bool)
  /-- R312 -/ | enumerationComplete (x : XLink) (r : XIdent)
  /-- R313 -/ | enumTimeout (x : XLink)
  /-- R315 -/ | managedRemoval (acc : Accessor) (x : XLink)
  /-- R315 -/ | managedRemovalComplete (x : XLink)
  /-- R321 -/ | linkDownCommand (acc : Accessor) (role : Role) (num : Byte)
  /-- R342 -/ | peerLinkDrained (pl : PLink)
  /-- R321 -/ | linkTrainCommand (acc : Accessor) (role : Role) (num : Byte)
  -- the mailbox (10) and MCTP (13)
  /-- R319 -/ | getEventRecords (l : HLink) (member : BitVec 2) (log : BitVec 2)
  /-- R319 -/ | clearEventRecords (l : HLink) (member : BitVec 2) (log : BitVec 2) (all : Bool) (handles : List (BitVec 16))
  /-- R318 -/ | getEventInterruptPolicy (l : HLink) (member : BitVec 2)
  /-- R461 -/ | setEventInterruptPolicy (l : HLink) (member : BitVec 2) (policy : List Byte)
  /-- R318 -/ | getFwInfo (l : HLink) (member : BitVec 2)
  /-- R318 -/ | getTimestamp (l : HLink) (member : BitVec 2)
  /-- R318 -/ | setTimestamp (l : HLink) (member : BitVec 2) (value : BitVec 64)
  /-- R318 -/ | getSupportedLogs (l : HLink) (member : BitVec 2)
  /-- R318 -/ | getLog (l : HLink) (member : BitVec 2) (offset length : BitVec 32)
  /-- R318 -/ | identifyMemoryDevice (l : HLink) (member : BitVec 2)
  /-- R320 -/ | getHealthInfo (l : HLink) (member : BitVec 2)
  /-- R262 -/ | getPoisonList (l : HLink) (member : BitVec 2) (base len : BitVec 64)
  /-- R263 -/ | injectPoison (l : HLink) (member : BitVec 2) (sa : BitVec 64)
  /-- R263 -/ | clearPoison (l : HLink) (member : BitVec 2) (sa : BitVec 64) (data : Line)
  /-- R405 -/ | henosMailboxCommand (l : HLink) (member : BitVec 2) (frame : List Byte)
  /-- R318 -/ | unsupportedMailboxCommand (l : HLink) (member : BitVec 2) (opcode : BitVec 16)
  /-- R406 -/ | setEndpointId (l : HLink) (member : BitVec 2) (op : BitVec 2) (eid : Byte)
  /-- R406 -/ | getEndpointId (l : HLink) (member : BitVec 2)
  /-- R406 -/ | getMctpVersionSupport (l : HLink) (member : BitVec 2) (type : Byte)
  /-- R406 -/ | getMessageTypeSupport (l : HLink) (member : BitVec 2)
  /-- R406 -/ | getVendorDefinedMessageSupport (l : HLink) (member : BitVec 2)
  /-- R407 -/ | entdaa (addr : BitVec 7)
  /-- R407 -/ | setdasa (static addr : BitVec 7)
  /-- R407 -/ | i3cPrivateRead
  /-- R415 -/ | i3cTargetReset
  /-- R415 -/ | i3cIdleTimeout
  -- the peer fabric (11)
  /-- R325 -/ | hello (pl : PLink) (h : HelloMsg)
  /-- R325 -/ | helloRepeat (pl : PLink)
  /-- R344 -/ | lsa (pl : PLink) (dev : DevId) (seq : BitVec 32) (units : BitVec 64)
  /-- R345 -/ | join (dev : DevId) (digest : BitVec 32) (socks : List (HostSock × BitVec 8)) (time : Time) (fw : BitVec 16)
  /-- R139 -/ | windir (dev : DevId) (entries : List (WinId × DirEntry))
  /-- R346 -/ | commit (src : DevId) (members : BitVec 8) (attach : List (HostSock × DevId × BitVec 8)) (time : Time)
  /-- R347 -/ | ready (dev : DevId)
  /-- R347 -/ | active (src : DevId)
  /-- R346 -/ | fail (src : DevId) (cause : Byte)
  /-- R346 -/ | formationTimeout
  /-- R347 -/ | readyTimeout
  /-- R349 -/ | syncInterval
  /-- R349 -/ | syncreq (pl : PLink) (src : DevId) (t1 : Time) (hops : Byte)
  /-- R349 -/ | syncrsp (pl : PLink) (src : DevId) (t1 t2 t3 t4 : Time) (hops : Byte)
  /-- R334 -/ | peerReq (pl : PLink) (m : PeerReq)
  /-- R335 -/ | peerSnp (pl : PLink) (m : PeerSnp)
  /-- R336 -/ | peerRsp (pl : PLink) (m : PeerRsp)
  /-- R336 -/ | peerData (pl : PLink) (m : PeerRsp)
  /-- R262 -/ | poisonq (src : DevId) (reply : Bool) (lines : List SA)
  /-- R340 -/ | peerLinkDown (pl : PLink)
  /-- R340 -/ | recon (src : DevId) (pl : PLink) (lastSeq : BitVec 16)
  /-- R340 -/ | reconciliationTimeout (pl : PLink)
  /-- R341 -/ | salvage (src : DevId) (m : SalvageMsg)
  /-- R339 -/ | detourDelayExpiry (dev : DevId)
  /-- R351 -/ | splitSettleExpiry
  -- power, reset, start-up, clocks (12)
  /-- R361 -/ | powerOnReset (straps : Straps)
  /-- R357 -/ | powerDown
  /-- R361; `pin` says the COLDRST# pin, else a write by `acc`. -/ | coldReset (pin : Bool) (acc : Accessor) (straps : Straps)
  /-- R361 -/ | warmReset (acc : Accessor)
  /-- R361 -/ | managementReset (acc : Accessor)
  /-- R361 -/ | watchdogExpiry
  /-- R358 -/ | railMonitor (volts : List (BitVec 16)) (amps : List (BitVec 16))
  /-- R366 -/ | sramSelfTestComplete (pass : Bool)
  /-- R363 -/ | firmwareVerified
  /-- R365 -/ | configComplete
  /-- R367; the stacks that failed to train. -/ | stackTrainingComplete (failed : BitVec 8)
  /-- R367; hard faults found, each a stack and a codeword address. -/ | memoryTestComplete (faults : List (Stack × BitVec 31))
  /-- R369 -/ | expanderWaitLimit
  /-- R373 -/ | pllLockLoss (island : Byte)
  /-- R376 -/ | refclkLoss
  /-- R375 -/ | timeSyncWord (t : Time)
  /-- R377; the 44 sensors' readings in units of 0.125 degrees. -/ | sensorRead (temps : List (BitVec 32))
  /-- R380 -/ | hardwareTrip
  /-- R372 -/ | clockChangeComplete (c : Cluster)
  /-- R377 -/ | thermalLimitsWrite (acc : Accessor) (limits : List (BitVec 32))
  /-- R379 -/ | clockCapWrite (acc : Accessor) (c : Cluster) (mhz : BitVec 16)
  -- the Henos dictionary (13)
  /-- R390 -/ | frameArrival (source : FrameFrom) (bytes : List Byte)
  /-- R390 -/ | managementCycle
  /-- R391 -/ | read (acc : Accessor) (f : Frame)
  /-- R391 -/ | write (acc : Accessor) (f : Frame)
  /-- R388 -/ | readImage (acc : Accessor) (f : Frame)
  /-- R396 -/ | writeImage (acc : Accessor) (f : Frame)
  /-- R399 -/ | henosCommit (acc : Accessor) (f : Frame)
  /-- R399 -/ | commitComplete (good : Bool)
  /-- R393 -/ | unlock (acc : Accessor) (f : Frame)
  /-- R393 -/ | unlockLapse (acc : Accessor)
  /-- R401 -/ | openSession (acc : Accessor) (f : Frame)
  /-- R403 -/ | sread (acc : Accessor) (f : Frame)
  /-- R388 -/ | swrite (acc : Accessor) (f : Frame)
  /-- R401 -/ | closeSession (acc : Accessor) (f : Frame)
  /-- R401; the session's object. -/ | sessionExpiry (group : Byte) (item : BitVec 16)
  /-- R388 -/ | describe (acc : Accessor) (f : Frame)
  /-- R388 -/ | next (acc : Accessor) (f : Frame)
  /-- R462 -/ | subscribe (acc : Accessor) (f : Frame)
  /-- R462 -/ | unsubscribe (acc : Accessor) (f : Frame)
  /-- R404 -/ | firmwareInstall (acc : Accessor) (slot : Byte)
  /-- R404 -/ | firmwareInstallComplete (good : Bool)
  /-- R408 -/ | consoleRateWrite (acc : Accessor) (rate : BitVec 32)
  /-- R412 -/ | consoleEnableWrite (acc : Accessor) (value : Byte)
  /-- R411; how long the line was held at 0, in ms. -/ | consoleBreak (ms : BitVec 16)
  /-- R411 -/ | consoleFrameTimeout
  /-- R385 -/ | configLockWrite (acc : Accessor) (value : Byte)
  /-- R448 -/ | blowObservationFuse (acc : Accessor) (value : BitVec 32)
  /-- R449 -/ | fuseBlowComplete
  -- the register interface (14)
  /-- R428 -/ | lockkeyWrite (link : HLink) (value : BitVec 32)
  /-- R429 -/ | bar0UnlockLapse (link : HLink)
  /-- R425 -/ | registerWrite (a : BarAccess) (value : BitVec 64)
  /-- R432 -/ | configParitySweep
  /-- R434 -/ | voteSweep
  -- events (16)
  /-- R451: the raise that next reaches the event unit from `island`. -/ | eventRaise (island : Byte)
  /-- R452 -/ | eventAcknowledge (acc : Accessor) (e : BitVec 16)
  /-- R458 -/ | routingEntryWrite (acc : Accessor) (e : EventId) (value : BitVec 32)
  /-- R459 -/ | msixUnmask (l : HLink) (member : BitVec 2) (vector : BitVec 11)
  -- observation (17)
  /-- R468; `bench` none: a device counter. -/ | selectorWrite (acc : Accessor) (bench : Option Bench) (n : BitVec 4) (value : BitVec 32)
  /-- R471 -/ | samplingCrossing (bench : Option Bench) (n : BitVec 4)
  /-- R472 -/ | sampleTaken (b : Bench) (id : Nat)
  /-- R472 -/ | sampleTimeout (b : Bench)
  /-- R471 -/ | samplingControlWrite (acc : Accessor) (value : BitVec 32)
  /-- R477 -/ | histogramClear (acc : Accessor) (value : BitVec 32)
  /-- R480 -/ | seamControlWrite (acc : Accessor) (value : Byte)
  /-- R481 -/ | seamFilterWrite (acc : Accessor) (value : List Byte)
  /-- R482 -/ | seamCapture (o : SeamObs)
  /-- R484 -/ | seamRingWrite
  /-- R484 -/ | ringSettingsWrite (acc : Accessor) (value : List Byte)
  /-- R486 -/ | exportSettingsWrite (acc : Accessor) (value : BitVec 32)
  /-- R486 -/ | exportFrame
  -- rows the table adds at its end
  /-- R421 -/ | registerRead (a : BarAccess)
  /-- R368 -/ | configurationRequest (l : HLink) (member : BitVec 2) (r : CfgReq)
  /-- R297 -/ | ideKeyProgramming (l : HLink) (member : BitVec 2)
  /-- R166 -/ | revokeAnswer (src : DevId) (entry : CIdx)
  /-- R311 -/ | receiverDisappears (x : XLink)
  /-- R317 -/ | expanderReturns (x : XLink)
  /-- R409; the samples of one character, oldest first. -/ | consoleCharacter (samples : List Bool)
  /-- R376 -/ | refclkReturn
  /-- R288; the AER message and its severity. -/ | aerReceived (x : XLink) (sev : BitVec 2) (status : BitVec 32)
  deriving DecidableEq, Repr

end Sys2Proof
end

