-- ==== Sys2Proof/Config.lean ====
section
/-!
DEFINITION. What the spec leaves open: constants with no body, so that nothing can be proved of their values, and the
fixed numbers of the part that the spec fuses per unit.
-/

namespace Sys2Proof.Config

/-- Free value: which outcome of R251 an error pattern over three or more devices decodes to, among those it allows (log entry
11). -/
opaque multiOutcome : BitVec 560 → Nat
/-- Free value: the payload a miscorrection delivers (R251; log entry 11). -/
opaque multiPayload : BitVec 560 → BitVec 512 → BitVec 512
/-- Free value: whether a poison codeword with a further error decodes UNCORRECTABLE (R254; log entry 11). -/
opaque poisonExtra : BitVec 560 → Bool
/-- Free value: the syndrome symbols of an error pattern, for the SYNDROME field of the log (log entry 11). -/
opaque syndrome : BitVec 560 → BitVec 48
/-- Free value: the index at which the tag cache holds the records of a set, and how many places beyond the sixteen that
R64 promises the index has (log entry 12). -/
opaque tagIndex : Nat → Nat
opaque tagExtra : Nat → Nat
/-- Free value: the line addresses an assay probes (R154: uniformly spread; log entry 13). -/
opaque probeAddr : Nat → BitVec 64
/-- Free value: the device serial number and the constants of identity fused per part (Table 15-1; log entry 14). -/
opaque serial : BitVec 64
/-- Free value: byte `n % 1024` of the object `n / 1024` whose content no rule gives (log entry 14). -/
opaque openByte : Nat → BitVec 8
/-- Free values: whether a staged firmware image verifies, and the version in its header (R363, R404: the signature scheme
and the header's layout are not given; log entry 14). -/
opaque fwVerifies : List (BitVec 8) → Bool
opaque fwStaged : List (BitVec 8) → BitVec 32
/-- Free value: any other value the spec leaves open, one for each count taken (log entry 6). -/
opaque freeValue : Nat → BitVec 64

end Sys2Proof.Config
end

