-- ==== Sys2Proof/Machine/State.lean ====
section
/-!
DEFINITION. The state of the Goraskey as plain data, the stops of the model, and the state after a power-on reset.
-/

namespace Sys2Proof.Machine

/-- A sparse table: pairs of a key and a value, keys strictly rising, no value equal to what an unlisted key reads as
(log entry 10). The operations and the check of the form are in Machine/Tab.lean. -/
abbrev Tab (α : Type) := List (Nat × α)

/-- Stops with a fault. No command of this model faults: the spec gives every command an effect, a refusal with a status
or a discard. -/
inductive Fault
  /-- Raised by nothing; the host's interface asks for the type. Safe. -/
  | unused
  deriving DecidableEq, Repr

/-- Stops with a refusal. -/
inductive Refusal
  /-- A command whose meaning is not written. Safe. -/
  | notModelled (mnemonic : String)
  /-- Raised by exec for a command whose operand names no unit of the part (an island above 167, a sensor list not of
  length 44, a peer link above PL13, ...): WellFormed refuses the same. Safe: the spec gives such a command no meaning. -/
  | noSuchUnit
  deriving DecidableEq, Repr

-- ===== Addresses, home map and region windows (02) =====

/-- Home range record (Table 2-2). -/
structure HomeRange where
  base : BitVec 18
  limit : BitVec 18
  lbase : BitVec 15
  ways : Byte
  devlist : BitVec 24
  deriving DecidableEq, Repr

def HomeRange.init : HomeRange := ⟨0, 0, 0, 0, 0⟩

/-- WIN_STAT.STATE (Table 2-8). -/
inductive WState | disabled | draining | enabled | targetLost
  deriving DecidableEq, Repr

/-- The geometry fields of a window (R52). -/
structure Geometry where
  base : BitVec 15
  limit : BitVec 15
  xl : XLink
  toffset : BitVec 15
  policy : BitVec 2
  deriving DecidableEq, Repr

/-- One region window: its fields (Tables 2-4 to 2-8), marks (R45 to R49) and retained geometry (R55, R68). -/
structure Win where
  geo : Geometry
  r : Bool
  w : Bool
  x : Bool
  u : Bool
  s : Bool
  trap : Bool
  cls : LClass
  insert : BitVec 2
  span : BitVec 2
  flush : Bool
  enable : Bool
  state : WState
  segshift : BitVec 6
  lasterr : DStatus
  acc : BitVec 64
  drt : BitVec 64
  pnd : BitVec 64
  pndAt : Tab Time
  mcmd : BitVec 32            -- the OP and SEG fields of WIN_MCMD as last written
  lastFlush : Bool
  retained : Option Geometry
  /-- R54: the next block number the flush drain takes, once the requests have completed. -/
  flushNext : Option Nat
  /-- R280: the window entered target lost and left it only by a drain; the geometry it had then. -/
  lostGeo : Option Geometry
  deriving DecidableEq, Repr

def Win.init : Win :=
  { geo := ⟨0, 0, 0, 0, 0⟩, r := false, w := false, x := false, u := false, s := false, trap := false, cls := .ash,
    insert := 0, span := 0, flush := false, enable := false, state := .disabled, segshift := 0, lasterr := .ok,
    acc := 0, drt := 0, pnd := 0, pndAt := [], mcmd := 0, lastFlush := true, retained := none, flushNext := none,
    lostGeo := none }

/-- A mark request on its way to island 164 on CTL (R48). -/
structure MarkReq where
  req : Nat
  win : WinId
  seg : BitVec 6
  sa : SA
  island : Nat               -- the island that sent it
  ahead : Nat                -- raises that the island sent before it and that have not arrived (R19)
  deriving DecidableEq, Repr

/-- A release on its way to a bench on CTL (R49); `one` names a single held write (R48). -/
structure Release where
  bench : Bench
  win : WinId
  seg : BitVec 6
  one : Option Nat
  deriving DecidableEq, Repr

structure RegionS where
  hr : Tab HomeRange
  win : Tab Win
  rightsCount : BitVec 64
  unmappedCount : BitVec 64
  markReqs : List MarkReq
  releases : List Release
  deriving DecidableEq, Repr

-- ===== Requests at a home bench (03, 04) =====

/-- Tracker pools (Table 3-5). -/
inductive Pool | vermilion | ochre | shared
  deriving DecidableEq, Repr

/-- Haul step kinds (Table 6-1). -/
inductive StepKind | job | sweep | scrub | drain | range | assay
  deriving DecidableEq, Repr

/-- Who made a request, and where its answer goes. -/
inductive Origin
  | host (link : HLink) (member : BitVec 2) (tag : BitVec 16)
  | peer (dev : DevId) (tag : BitVec 16)
  | step (b : Bench) (off : Nat)
  /-- An examination of a set, or of a block, that a step which runs on `b` sends to the bench that owns it (R173): the kind of
  the step, its purpose or pass, and the set, block or window it is about. -/
  | exam (b : Bench) (k : StepKind) (p n : Nat)
  | flush (b : Bench)           -- the flush of one line of a draining window, sent by a DRAIN step on `b` (R54)
  | fetch (q : QueueId)
  | record (q : QueueId) (j : JobSeq)
  | mgmt
  | ring                        -- a part of a Seam record on its way to the privileged ring (R484)
  | mbox (link : HLink) (member : BitVec 2)   -- Inject Poison or Clear Poison of a mailbox (R263, R318)
  | gone                        -- its member link went down: the answer is discarded (R310)
  deriving DecidableEq, Repr

/-- Where a request stands at its home bench. -/
inductive Phase
  | lane      -- waits for a tracker (R88)
  | line      -- waits for its turn in the line's order, for a busy entry, an entry to install or a snoop slot (R86, R110, R122)
  | trapped   -- held by the mark trap (R48)
  | hold      -- waits for a hold to end (R117)
  | snoop     -- waits for BIRsps (R110)
  | victim    -- waits for the eviction of a snoop-filter entry (R122)
  | data      -- served next: its snoops are done
  | setHead   -- waits for a set head (R65)
  | sector    -- waits for a sector or sector-map read (R65)
  | fill      -- waits for far memory (R71)
  | wbuf      -- waits for a write-buffer entry or its drain (R81, R83)
  | evq       -- waits for an expander to accept a write-back (R79)
  | egress    -- answered; holds its tracker until the response has left (R86)
  deriving DecidableEq, Repr

/-- A request at its home bench, with what the port attached to it (R68, R139 to R141) and what the bench found. -/
structure Req where
  id : Nat
  op : ReqOp
  org : Origin
  rqk : RqKind
  hs : HostSock
  sa : SA
  dla : DLA
  win : WinId
  policy : BitVec 2
  span : BitVec 2
  insert : BitVec 2
  cls : LClass
  cidx : Option (DevId × CIdx)
  mismatch : Bool
  deadline : Option Time
  tin : Time
  arrived : Time
  tracked : Time       -- when it took its tracker
  data : Line
  be : BitVec 64
  poison : Bool
  queue : QueueId
  epoch : Byte
  pool : Option Pool
  phase : Phase
  phaseSince : Time
  waited : Nat         -- ns not counted against the starvation ceiling (R152)
  hit : Bool
  causeFault : Bool
  causePartner : Bool
  causeCoherence : Bool
  rqc : Bool
  laneWait : Bool      -- R296: waited at its lane head
  snooped : BitVec 16  -- host sockets snooped (R161)
  snoopDone : Bool     -- its back-invalidates have been answered
  way : Option (BitVec 4)   -- the snoop-filter way that an eviction frees for it (R122)
  wayFreed : Bool      -- the eviction has freed it
  tagged : Bool        -- its tag lookup has been made (R65)
  resvTaken : Bool     -- a CONDSTORE has taken its reservation (R224)
  trap : Bool          -- it was trapped and waits for a release (R48)
  seg : BitVec 6
  deriving DecidableEq, Repr

/-- Drain state of a write-buffer entry (R82). -/
inductive Drain
  | fresh
  | fetching (rid : Nat)
  | writing (rid : Nat)
  | done
  deriving DecidableEq, Repr

/-- A write-buffer entry (R80 to R83). -/
structure WEntry where
  slot : BitVec 6      -- 0 to 31; 32 to 47 the snoop write-back buffer (R113)
  dla : DLA
  sa : SA
  data : Line
  be : BitVec 64
  poison : Bool
  alloc : Time
  drain : Drain
  win : WinId
  policy : BitVec 2
  insert : BitVec 2
  deriving DecidableEq, Repr

/-- A sector in the eviction queue (R78, R79). -/
structure Evict where
  dla : DLA
  sa : SA
  xl : XLink
  rid : Nat
  data : Line
  poison : Bool
  deriving DecidableEq, Repr

/-- Block states (Table 3-1). -/
inductive BState | invalid | valid | orphan | retired
  deriving DecidableEq, Repr

/-- Block tag record (Table 3-1). -/
structure TagRec where
  dirty : BitVec 64
  valid : BitVec 64
  dm : Bool
  ru : Bool
  rank : BitVec 2
  state : BState
  tag : BitVec 10
  deriving DecidableEq, Repr

def TagRec.init : TagRec := ⟨0, 0, false, false, 0, .invalid, 0⟩

/-- What an expander request is for. -/
inductive XPurpose
  | fill (b : Bench) (way : Option (BitVec 4))   -- a sector of a fill (R70), or a read without allocation (R74)
  | drainFetch (b : Bench) (slot : BitVec 6)      -- the one-sector fetch of R72
  | drainWrite (b : Bench) (slot : BitVec 6)      -- R82
  | evict (b : Bench)                              -- R78
  | probe                                          -- R154
  deriving DecidableEq, Repr

/-- A request outstanding at an expander (R314). -/
structure XReq where
  rid : Nat
  xl : XLink
  write : Bool
  dpa : BitVec 64
  dla : DLA
  sa : SA
  data : Line
  be : BitVec 64
  poison : Bool
  issued : Time
  tries : Nat
  purpose : XPurpose
  sent : Bool                -- the port has taken it; else it is held toward the port (R15)
  deriving DecidableEq, Repr

/-- Step record (Table 6-2). -/
structure StepRec where
  kind : StepKind
  owner : Bench
  queue : QueueId
  epoch : Byte
  jobseq : JobSeq
  cursor : BitVec 64
  remain : BitVec 32
  estimate : BitVec 12
  checkval : BitVec 64
  status : BitVec 64
  deriving DecidableEq, Repr

/-- An entry of a job engine's write buffer (R219): a destination line with its bytes, or a line of poison (R212). -/
structure EEntry where
  sa : SA
  data : Line
  be : BitVec 64
  poison : Bool
  off : Nat
  deriving DecidableEq, Repr

/-- A source line that has come back to a running step. -/
structure Got where
  sa : SA
  data : Line
  bad : Option JStatus
  deriving DecidableEq, Repr

/-- A step that is running on a bench (R172, R178). -/
structure Run where
  step : StepRec
  started : Option Time     -- its first haul operation at this bench (R172)
  ops : Nat
  loads : List SA           -- line loads issued and not returned
  stores : Nat              -- line stores issued and not performed
  next : Nat                -- next job offset to load
  done : Nat                -- job offset up to which the work is complete
  stop : Bool               -- issues no further access (R172, R189, R213)
  engine : Option (BitVec 5)
  got : List Got
  ewb : List EEntry
  units : List SA           -- copy units past the cut-through threshold (R225)
  parity : Bool             -- its engine has found a parity mismatch (R243)
  drain : Bool              -- a part has failed: the engine's write buffer drains (R219)
  wins : BitVec 64          -- the windows its accesses have matched (R54)
  deriving DecidableEq, Repr

/-- A reservation (R222). -/
structure Resv where
  dev : DevId
  queue : QueueId
  epoch : Byte
  granule : BitVec 40
  time : Time
  deriving DecidableEq, Repr

/-- What one bench holds beside its tag records and its snoop-filter slice. -/
structure BenchS where
  wbuf : List WEntry
  evq : List Evict
  poolV : BitVec 7
  poolO : BitVec 7
  wres : BitVec 4            -- write-buffer entries set aside (R142), of entries 24 to 31
  sweepPos : BitVec 15
  sweeping : Bool
  scan : Tab (BitVec 6)
  demoted : BitVec 64
  slot : Nat                 -- issue slots since reset (R148, R174)
  ashRun : Nat
  used : Nat                 -- issue slots used in this microsecond (R176)
  k : Int
  deque : List StepRec
  running : Option Run
  pending : List StepRec     -- device work waiting for slack (R177)
  incoming : List (StepRec × Bool)   -- stolen records in transit; true: across clusters
  retryAt : Option Time
  ckWait : Option StepRec    -- the CHECK step at the head that has been counted as waiting for an engine (R233)
  ran : Tab (BitVec 64)      -- steps run by kind
  stolen : BitVec 64
  stolenX : BitVec 64
  floorOps : BitVec 64
  resv : List Resv
  scrubPass : BitVec 64
  scrubNext : BitVec 15
  scrubDone : BitVec 16      -- sets done in the pass
  scrubStart : Time
  scrubRaised : Bool
  arrUs : BitVec 64          -- the microsecond the arrival counts are of (R160)
  arrV : Nat
  arrO : Nat
  arrS : Nat
  flipErr : DStatus          -- BFLIP_CTL (Table 9-10)
  flipTgt : BitVec 2
  flipDone : Bool
  flipArm : Bool
  flipMask : BitVec 153
  deriving DecidableEq, Repr

def BenchS.init : BenchS :=
  { wbuf := [], evq := [], poolV := 0, poolO := 0, wres := 0, sweepPos := 0, sweeping := false, scan := [], demoted := 0,
    slot := 0, ashRun := 0, used := 0, k := 0, deque := [], running := none, pending := [], incoming := [],
    retryAt := none, ckWait := none, ran := [], stolen := 0, stolenX := 0, floorOps := 0, resv := [], scrubPass := 0, scrubNext := 0,
    scrubDone := 0, scrubStart := 0, scrubRaised := false, arrUs := 0, arrV := 0, arrO := 0, arrS := 0, flipErr := .ok,
    flipTgt := 0, flipDone := false, flipArm := false, flipMask := 0 }

/-- Range operations (R90) and what the same steps do for the cache as a whole (R97, R99) and for a stack (R271). -/
inductive RangeKind | clean | cleanInvalidate | invalidate
  deriving DecidableEq, Repr
inductive SwKind | cleanInvalidate | disable | enable
  deriving DecidableEq, Repr
inductive MaintOp
  | range (k : RangeKind) (next last : Nat)
  | setWay (k : SwKind) (result : DStatus)
  deriving DecidableEq, Repr

/-- CACHE_STAT.STATE (Table 3-10). -/
inductive CState | enabled | cleaning | bypass | invalidating
  deriving DecidableEq, Repr

/-- The cache of the device: tag records, residency, maintenance and cache control (03). -/
structure CacheS where
  bench : Tab BenchS
  tags : Tab TagRec              -- key ((bench * 32768 + local set) * 16 + way)
  resident : List Nat            -- keys of the records in the tag cache, most recently used first
  setReads : List Nat            -- bench * 32768 + local set: set heads being read; the set is locked (R66)
  reqs : List Req                -- in the order in which they took trackers; lane waiters at the end
  nextReq : Nat
  xreqs : List XReq
  nextX : Nat
  mbase : BitVec 45
  mlim : BitVec 45
  msw : BitVec 27
  mLasterr : DStatus
  mRefused : Bool
  mDone : Bool
  mProg : BitVec 64
  mOp : Option MaintOp
  discarded : BitVec 64
  orphSkipped : BitVec 64
  enable : Bool                  -- CACHE_CTL.ENABLE
  cstate : CState
  stale : Bool
  cLasterr : DStatus
  bypw : BitVec 64
  passNext : Nat                 -- next block of the whole-cache clean or invalidate
  scanEngage : BitVec 6
  scanRelease : BitVec 6
  scanOn : Bool
  sweepOn : Bool
  sweepThreshold : BitVec 20
  retiredList : List (BitVec 27)
  retiredCursor : BitVec 32
  haulCap : BitVec 5
  loadThreshold : BitVec 11
  imbalance : BitVec 15
  releaseCap : BitVec 11
  orphans : List Nat             -- keys of the tag records in state orphan
  deriving DecidableEq, Repr

-- ===== Snoop filter (04) =====

inductive SfState | invalid | shared | any | busy
  deriving DecidableEq, Repr

/-- Snoop-filter entry (Table 4-1), less the check bits, which are a function of the rest and the position. -/
structure SfEntry where
  pres : BitVec 16
  state : SfState
  tag : BitVec 20
  deriving DecidableEq, Repr

def SfEntry.init : SfEntry := ⟨0, .invalid, 0⟩

/-- A back-invalidate outstanding toward one host socket. -/
structure Snoop where
  id : Nat
  dla : DLA
  sa : SA
  hs : HostSock
  kind : SnpKind
  dev : DevId            -- attachment device
  cause : Nat            -- the request that waits for it
  evict : Bool           -- it serves a snoop-filter eviction
  wasAny : Bool
  issued : Time
  timeout : BitVec 14
  wrote : Bool           -- a snoop write-back has arrived
  deriving DecidableEq, Repr

/-- An entry of a host link's snoop table (R335). -/
structure SnoopTab where
  link : HLink
  hs : HostSock
  sa : SA
  home : DevId
  tag : BitVec 16
  kind : SnpKind
  sent : Bool                -- the BISnp has left; else it is held toward the port (R15)
  deriving DecidableEq, Repr

structure SnoopS where
  entries : Tab SfEntry          -- key ((bench * 16384 + set) * 16 + way)
  trees : Tab (BitVec 16)        -- key bench * 16384 + set; bit n is tree[n]
  holds : Tab Time               -- key bench * 1024 + slot
  snoops : List Snoop
  nextSnoop : Nat
  past : List (HostSock × SA × Bool)   -- snoops completed; true: by timeout (R115, R116)
  table : List SnoopTab
  waiting : List PeerSnp         -- SNPs that wait for a snoop-table entry (R335)
  holdTime : BitVec 11
  biTimeout : BitVec 14
  evictThreshold : BitVec 32
  evictions : BitVec 64
  sent : Tab (BitVec 64)
  delayed : BitVec 64
  timeouts : Tab (BitVec 64)
  violations : Tab (BitVec 64)
  corrected : BitVec 64
  flits : Tab (BitVec 64)
  flitLog : List (HLink × Time)  -- flits of the last 10 ms, for check 4 (R144)
  evictMs : BitVec 64            -- evictions up to the last rate check
  attach : Tab (DevId × BitVec 8)
  err : Tab (BitVec 46)          -- flipped bits of stored entries (R267)
  deriving DecidableEq, Repr

-- ===== Latency contracts (05) =====

/-- What an entry of the contract table is doing (R142, R147, R166). -/
inductive CPhase | idle | proposing | committing | releasing
  deriving DecidableEq, Repr

structure ContractS where
  ctr : Contract
  rate16 : Nat                -- token level in 1/65,536 tokens
  lastT : BitVec 64           -- elapsed time of the last update (R138)
  running : Bool
  phase : CPhase
  answered : BitVec 8
  confirmed : BitVec 8
  started : Time
  by_ : Option (Accessor × Option Frame)  -- who waits for the end of the action (R391)
  breaches : Tab (BitVec 64)  -- by cause 1 to 5
  counts : Tab (BitVec 64)    -- served, hit, miss, over-rate, class mismatch
  deriving DecidableEq, Repr

def Contract.init : Contract := ⟨0, .ash, 0, 0, 0, 0, 0, 0, 0, 0, 0, 0⟩
def ContractS.init : ContractS := ⟨Contract.init, 0, 0, false, .idle, 0, 0, 0, none, [], []⟩

/-- A share held at a home (R142 to R147). -/
inductive ShState | tentative | settingAside | committed | revoking
  deriving DecidableEq, Repr
structure Share where
  origin : DevId
  entry : CIdx
  ctr : Contract
  linkClass : LClass
  state : ShState
  admitted : Time
  reason : Byte
  setAside : List Bench       -- benches that have not confirmed yet
  deriving DecidableEq, Repr

/-- Result of an assay (R155). -/
structure AssayRec where
  count : BitVec 64
  sum : BitVec 64
  max : BitVec 32
  a : BitVec 32               -- assayed maximum; 0 while unassayed
  classes : BitVec 4
  time : Time
  p99 : BitVec 32
  p9999 : BitVec 32
  samples : List Nat          -- response times of the running assay
  failed : Bool
  phase : Nat                 -- phase of the running assay (R154)
  sent : Nat                  -- reads issued in that phase
  deriving DecidableEq, Repr

structure ContractUnit where
  table : Tab ContractS
  shares : List Share
  dir : Tab DirEntry          -- key device * 64 + window
  spread : BitVec 9
  ceil : BitVec 7
  margin : BitVec 7
  window : BitVec 16
  disq : BitVec 16
  result : Byte × Byte × Byte × Byte × BitVec 16    -- 0x38:0013: reason, device, kind and number of the resource, bench
  assay : Tab AssayRec
  assaying : List (XLink × Time)
  exceed : Tab (BitVec 64)
  excSec : Tab (BitVec 64 × Nat × Nat)  -- per link: the second, exceedances in it, largest response in it
  starved : BitVec 64
  passes : List PassCause      -- capacity changes reported and not yet taken (R145)
  waiting : List ((Accessor × Option Frame) × Contract)   -- admissions that wait for the one in progress (R391)
  lastStop : Option Time
  ms : Tab (BitVec 64 × Nat × Nat)   -- per contract (device * 4096 + index): the millisecond, served, misses (R160)
  deriving DecidableEq, Repr

-- ===== Job queues and check engines (07, 08) =====

inductive QState | free | active | stopped
  deriving DecidableEq, Repr

structure QueueS where
  ctx : QueueRec
  state : QState
  epoch : Byte
  why : BitVec 3
  sqHead : BitVec 16
  sqTail : BitVec 16
  cqHead : BitVec 16
  cqTail : BitVec 16
  sqHead2 : BitVec 16
  sqTail2 : BitVec 16
  cqHead2 : BitVec 16
  cqTail2 : BitVec 16
  phase : Bool
  jobseq : BitVec 16
  lost : Nat                  -- records of the reset in progress that were not written (R228)
  reserved : Nat              -- completion slots reserved for jobs in flight
  fetching : Option (SA × Bool × Nat)   -- line, chained, chain count of the fetch in flight
  fetched : Option Got
  chain : Option (BitVec 64 × Nat)      -- the chained descriptor to fetch next, and how many precede it (R201)
  resetting : Bool
  destroying : Bool
  done : Tab (BitVec 64)      -- jobs completed by status
  deriving DecidableEq, Repr

def QueueS.init : QueueS :=
  { ctx := ⟨0, 0, 0, 0, false, 0, 0, 0, 0⟩, state := .free, epoch := 0, why := 0, sqHead := 0, sqTail := 0, cqHead := 0,
    cqTail := 0, sqHead2 := 0, sqTail2 := 0, cqHead2 := 0, cqTail2 := 0, phase := true, jobseq := 0, lost := 0,
    reserved := 0, fetching := none, fetched := none, chain := none, resetting := false, destroying := false, done := [] }

/-- Descriptor (Table 7-5). -/
structure Desc where
  opcode : Byte
  subop : Byte
  flags : Byte
  opx : Byte
  tlimit : BitVec 16
  tag : BitVec 64
  a : BitVec 64
  b : BitVec 64
  len : BitVec 64
  v1 : BitVec 64
  v2 : BitVec 64
  next : BitVec 64
  deriving DecidableEq, Repr

/-- A job in a job slot. -/
structure Job where
  q : QueueId
  j : JobSeq
  d : Desc
  chained : Bool
  chainCount : Nat
  tstart : Time
  limit : Option Nat          -- ms
  cut : Nat                   -- job offset from which steps have not been released
  open_ : Nat                 -- steps released and not ended
  steps : Nat
  undone : List (Nat × Nat)   -- ranges of steps that ended without being done
  failed : List (Nat × Nat × JStatus)  -- offset, bytes, cause
  stored : List (Nat × Nat)   -- MIGRATE: ranges whose destination stores have been answered (R226)
  refused : List (Nat × Nat)  -- MIGRATE: ranges whose destination stores were refused (R226)
  value : BitVec 64
  result : BitVec 64
  bad : Bool
  timedOut : Bool
  aborted : Bool
  reset : Bool
  resLost : Bool
  finished : Bool             -- NOP, FENCE or a bad descriptor: nothing left to do
  homes : List (DevId × Bench × Option XLink)   -- up to two distinct, to decide "spans"
  recording : Bool            -- its record has been issued and not yet performed
  deriving DecidableEq, Repr

structure EngineS where
  service : Bool
  busy : Option (Bench × QueueId × JobSeq)
  cursor : BitVec 64
  value : BitVec 64
  deriving DecidableEq, Repr

structure JobS where
  queues : Tab QueueS
  jobs : List Job
  rr : QueueId                -- round robin of fetches
  rrStep : QueueId            -- round robin of step releases, and the steps each queue has released in the round (R187)
  rrRound : Tab Nat
  weights : Tab (BitVec 5)    -- haul weights, default 4
  conts : List (Bench × StepRec)   -- continuations of JOB steps that wait at the front end for slack, each with its bench (R177)
  rotation : Bench            -- R179
  threshold : BitVec 9
  ignored : BitVec 64
  inert : BitVec 64
  lost : Tab (BitVec 64)      -- reservations by cause 0 to 6
  notify : Tab (QueueId × JobSeq)
  published : Tab Nat         -- queued-step count per cluster
  drainedSince : Tab Time
  loadedSince : Option Time
  stealing : List Nat         -- clusters that steal across clusters
  engines : Tab EngineS
  ckBytes : BitVec 64
  ckMismatch : BitVec 64
  ckParity : BitVec 64
  ckWait : BitVec 64
  deriving DecidableEq, Repr

def EngineS.init : EngineS := ⟨true, none, 0, 0⟩

-- ===== Data array, error log, containment (09) =====

/-- A stored codeword: payload or poison, with the bits in which the stored word differs from its encoding (R247 to R254,
R266). A metadata codeword's payload stands in the tag records: its `data` is the difference of the stored payload from them. -/
structure Codeword where
  data : Line
  poison : Bool
  err : BitVec 560
  injected : Bool
  fault : BitVec 560          -- the bits that fail again when the codeword is rewritten (R258)
  deriving DecidableEq, Repr

def Codeword.init : Codeword := ⟨0, false, 0, false, 0⟩

/-- Decode outcomes (Table 9-2). -/
inductive Outcome2 | clean | corrected (dev : Nat) | checkOnly (dev : Nat) | poison | uncorrectable
  deriving DecidableEq, Repr

/-- What a read of a data sector gives its reader (Table 9-3). -/
inductive SectorRes | data (l : Line) | poison | refetch
  deriving DecidableEq, Repr

/-- Error log record (Table 9-6). -/
structure LogRec where
  seq : BitVec 32
  type : Byte
  sev : Byte
  flags : Byte
  unit : Byte
  island : BitVec 16
  count : BitVec 16
  loc : BitVec 32
  time : Time
  addr : BitVec 64
  dla : BitVec 64
  stack : Byte
  device : Byte
  bench : BitVec 16
  setway : BitVec 32
  syndrome : BitVec 48
  detail : BitVec 64
  deriving DecidableEq, Repr

def LogRec.init : LogRec :=
  { seq := 0, type := 0, sev := 0, flags := 0, unit := 0, island := 0, count := 0, loc := 0, time := 0, addr := 0, dla := 0,
    stack := 0xFF, device := 0xFF, bench := 0xFFFF, setway := 0, syndrome := 0, detail := 0 }

/-- Flip block of a stack controller (Tables 9-8, 9-9). -/
structure HbcFlip where
  lasterr : DStatus
  msel : BitVec 3
  done : Bool
  match_ : Bool
  meta_ : Bool
  arm : Bool
  dla : BitVec 45
  mask : BitVec 560
  count : BitVec 64
  deriving DecidableEq, Repr

def HbcFlip.init : HbcFlip := ⟨.ok, 0, false, false, false, false, 0, 0, 0⟩

/-- Steps of containment (R273 to R275). -/
inductive ContPhase | none | stop | writeBack | holding
  deriving DecidableEq, Repr

/-- A row remap in progress (R268). -/
structure RemapRun where
  cw : BitVec 31
  spare : BitVec 17
  auto : Bool
  sets : List Nat             -- bench * 32768 + local set, locked
  deriving DecidableEq, Repr

/-- A write of 0x50:0030 that waits (R391). -/
structure RemapAsk where
  stack : Nat
  cw : Nat
  by_ : Accessor × Option Frame
  deriving DecidableEq, Repr

structure RelS where
  array : Tab Codeword        -- key stack * 2^31 + codeword address
  tagErr : Tab (BitVec 153)   -- flipped bits of tag-cache records, keyed as the records
  cohErr : List Bench         -- benches whose trackers, set locks, hold filters or monitors hold an uncorrectable error (R256)
  bufErr : List (Nat × Bench × DLA)   -- buffered lines with an uncorrectable error: structure (log entry 110), bench, line (R256)
  retired : BitVec 8          -- stacks that are retired
  retiredMask : BitVec 8      -- 0x50:0035, which acts at a whole-device reset
  remapCursor : BitVec 32     -- 0x50:0036
  retiring : List Stack
  remap : Tab (BitVec 17)     -- key (stack * 512 + channel * 16 + bank) * 2^17 + row: the spare row that replaces it
  remapRun : Tab RemapRun     -- per stack
  remapAsks : List RemapAsk      -- writes of 0x50:0030 that wait for a running remap, in arrival order (R391)
  remapWait : List (Nat × Nat)   -- automatic remaps that wait for a running one of their stack: stack, codeword (R269)
  spares : Tab Nat            -- spare rows passed, key stack * 512 + channel * 16 + bank
  badSpare : List Nat         -- faulty spare rows not yet passed, keyed as remap (R367)
  lastRemap : DStatus × Stack × BitVec 31 × BitVec 17
  reserve : BitVec 10
  outcomes : Tab (BitVec 64)  -- key stack * 6 + k
  metaCorrected : BitVec 64
  scrubPeriod : BitVec 8
  scrubOn : Bool
  poison : List SA
  poisonOver : Bool
  log : List LogRec           -- newest first, at most 4,096
  logNext : BitVec 32
  logAck : BitVec 32
  logLost : BitVec 64
  logLimit : BitVec 11
  logSec : BitVec 64          -- the second the counts below are of
  logCount : Tab Nat          -- per stack
  logTally : Tab Nat          -- key type * 8 + stack
  fatal : List LogRec         -- in flash, newest first
  fatalDue : List LogRec      -- fatal records not yet copied there, newest first
  flip : Tab HbcFlip          -- per stack
  cphase : ContPhase
  cause : Byte
  entered : Time
  wbStart : Time
  holdEnd : Time
  domFatal : Bool
  resWritten : BitVec 32
  resLost : BitVec 32
  resSkipped : BitVec 32
  resDiscarded : BitVec 32
  result : BitVec 64          -- 0x50:0055
  wbLimit : BitVec 14
  hold : BitVec 14
  autoReset : Bool
  dirtyShutdowns : BitVec 32
  tlDiscarded : BitVec 64     -- 0x50:0062
  orphLost : BitVec 64        -- 0x50:0063
  lostSerial : Tab (BitVec 64)
  persistSince : Option Time  -- the oldest auto-persisted change not in a commit (R270)
  deriving DecidableEq, Repr

-- ===== Ports, links and expanders (10) =====

/-- A slot of a quad configuration record (Table 10-1). -/
structure Slot where
  lnum : BitVec 5
  role : Role
  deriving DecidableEq, Repr

/-- State of a member link at its lead port. -/
inductive LinkState | held | empty | training | l0 | ioOnly | recovery | grace | down | fault
  deriving DecidableEq, Repr

/-- A member link (R299 to R308), held at its lead port. -/
structure LinkS where
  state : LinkState
  width : Nat
  speed : Nat
  reversed : Bool
  flit : BitVec 8
  faults : List (BitVec 4)
  polarity : BitVec 16
  events : Nat                -- correctable events in the window (R303)
  graceStart : Time
  graceSent : Nat
  retrainStart : Time
  retrains : Nat              -- threshold or uncorrectable retrains in the second
  retrainSec : BitVec 64
  dropSpeed : BitVec 2        -- 1: the next retrain drops a speed step; 2: this one does; 3: both do (R306)
  cause : Byte                -- cause of the last change (Table 10-11)
  crc : BitVec 64
  naks : BitVec 64
  fec : BitVec 64
  retThr : BitVec 64
  retUnc : BitVec 64
  retOther : BitVec 64
  graces : BitVec 64
  urgent : BitVec 64
  ide : Bool
  unverified : List SA        -- lines written since the last verified MAC (R298)
  draining : Bool             -- taken down by command, replay buffer not yet empty (R342)
  deriving DecidableEq, Repr

def LinkS.init : LinkS :=
  { state := .held, width := 0, speed := 0, reversed := false, flit := 0, faults := [], polarity := 0, events := 0,
    graceStart := 0, graceSent := 0, retrainStart := 0, retrains := 0, retrainSec := 0, dropSpeed := 0, cause := 0,
    crc := 0, naks := 0, fec := 0, retThr := 0, retUnc := 0, retOther := 0, graces := 0, urgent := 0, ide := false,
    unverified := [], draining := false }

/-- An HDM decoder (R292). -/
structure Hdm where
  base : BitVec 64
  size : BitVec 64
  skip : BitVec 64
  iw : BitVec 4
  ig : BitVec 4
  committed : Bool
  notCommitted : Bool
  deriving DecidableEq, Repr

def Hdm.init : Hdm := ⟨0, 0, 0, 0, 0, false, false⟩

/-- Expander link states (Table 10-7), values 0 to 10 in order. -/
inductive XState
  | empty | training | enum | ready | assay | qualified | unqualified | removing | lost | rejected | disabled
  deriving DecidableEq, Repr

structure XLinkS where
  state : XState
  reason : Byte
  serial : BitVec 64
  capacity : BitVec 32        -- GiB
  version : Byte
  flit : Byte
  ide : Bool
  idepol : BitVec 2
  enumStart : Time
  tmSec : BitVec 64
  timeouts : Nat              -- in the second
  devload : Tab (BitVec 64)
  aer : List (BitVec 2 × BitVec 32)   -- AER messages received, newest first
  deriving DecidableEq, Repr

def XLinkS.init : XLinkS := ⟨.empty, 0, 0, 0, 0, 0, false, 1, 0, 0, 0, [], []⟩

/-- What a response to a host carries (Table 4-3). -/
inductive RespKind | memData (g : Grant) | cmp (g : Grant) | conflictAck
  deriving DecidableEq, Repr

/-- A response at a host link's egress (R132, R294, R336). -/
structure Resp where
  id : Nat
  req : Option Nat            -- the local home request whose tracker it frees
  link : HLink
  member : BitVec 2
  tag : BitVec 16
  kind : RespKind
  data : Line
  poison : Bool
  hs : HostSock
  sa : SA
  devload : BitVec 2
  cls : LClass
  cidx : Option CIdx
  tin : Time
  waited : Nat
  hit : Bool
  home : DevId
  fault : Bool
  partner : Bool
  coherence : Bool
  rqc : Bool
  xl : BitVec 8
  snooped : BitVec 16
  deadline : Option Time
  inFlit : Bool
  left : Bool
  queued : Time
  rsq : Option (DevId × BitVec 16)
  deriving DecidableEq, Repr

/-- A CXL member function: mailbox, event logs, MSI-X, BARs (R290, R291, R318, R319, R459). -/
structure FnS where
  memEnable : Bool
  bar : Tab (BitVec 64)
  events : Tab (List (BitVec 16 × LogRec))  -- per log, oldest first: handle, record
  overflow : BitVec 4
  nextHandle : BitVec 16
  policy : List Byte
  tsBase : BitVec 64
  tsAt : Time
  eid : Byte
  msixEnable : Bool
  msixMask : Bool
  msixOpen : List Nat         -- entries that are not masked
  msixTable : Tab (BitVec 64 × BitVec 32)
  msixPend : List Nat
  aer : BitVec 32
  reply : List Byte           -- the last mailbox reply
  deriving DecidableEq, Repr

def FnS.init : FnS :=
  { memEnable := false, bar := [], events := [], overflow := 0, nextHandle := 1, policy := [0, 0, 0, 0], tsBase := 0,
    tsAt := 0, eid := 0, msixEnable := false, msixMask := false, msixOpen := [], msixTable := [], msixPend := [],
    aer := 0, reply := [] }

structure HLinkS where
  telem : Bool
  idereq : Bool
  hsock : HostSock
  cls : LClass
  perst : Bool                -- PERST#[n] asserted
  hdm : Tab Hdm
  deriving DecidableEq, Repr

def HLinkS.init : HLinkS := ⟨false, false, 0, .ash, true, []⟩

structure PortS where
  quad : Tab (BitVec 32)
  link : Tab LinkS            -- by lead port
  host : Tab HLinkS
  xl : Tab XLinkS
  fn : Tab FnS                -- key link * 4 + member
  resp : List Resp
  nextResp : Nat
  thr : BitVec 16
  window : BitVec 10
  dropAfter : BitVec 8
  xTimeout : BitVec 16
  xLoss : BitVec 10
  cut : BitVec 9
  deriving DecidableEq, Repr

-- ===== Peer fabric (11) =====

inductive PeerMsg
  | req (m : PeerReq)
  | snp (m : PeerSnp)
  | rsp (m : PeerRsp)
  | ctl (op : Byte) (src dst : DevId) (resent : Bool) (body : List (BitVec 64))
  | salvage (src dst : DevId) (m : SalvageMsg)
  deriving DecidableEq, Repr

/-- A message that waits at a peer egress: its destination, its deadline, and since when. -/
structure Tx where
  dst : DevId
  msg : PeerMsg
  deadline : Option Time
  since : Time
  deriving DecidableEq, Repr

structure PLinkS where
  fence : Byte                -- 0 none, Table 11-11
  peer : Option DevId
  peerLink : PLink
  cross : Bool
  checked : Bool              -- HELLO has passed every check
  seq : BitVec 16             -- sequence of the last flit sent
  replay : List (BitVec 16 × List PeerMsg)   -- unacknowledged flits
  frozen : Bool               -- a frozen buffer waits for RECON (R340)
  frozenAt : Time
  kept : List (BitVec 16 × List PeerMsg)     -- the flits of the frozen buffer
  late : Bool                 -- E-0x347 has told that no RECON came in time
  escTurn : Nat               -- the escape channel, and the primary one, that the round robins try next (R333)
  priTurn : Nat
  lastRx : BitVec 16
  helloAt : Time
  held : List (Byte × List (BitVec 64))   -- CTL messages for a port that takes no transfer, oldest first (R15)
  deriving DecidableEq, Repr

def PLinkS.init : PLinkS := ⟨0, none, 0, false, false, 0, [], false, 0, [], false, 0, 0, 0, 0, []⟩

inductive FormState | none | waiting | committed | active | failed
  deriving DecidableEq, Repr

structure Join where
  dev : DevId
  digest : BitVec 32
  socks : List (HostSock × BitVec 8)
  time : Time
  fw : BitVec 16
  at_ : Time
  deriving DecidableEq, Repr

inductive Route | direct | detour (v : DevId) | unreachable
  deriving DecidableEq, Repr

inductive SyncState | free | locking | locked | unlocked
  deriving DecidableEq, Repr

/-- A transaction of this device in flight at a peer: its tag and what it was for. -/
structure Txn where
  tag : BitVec 16
  dev : DevId
  org : Origin
  op : ReqOp
  hs : HostSock
  sa : SA
  cls : LClass
  cidx : Option CIdx
  tin : Time
  mark : Option (WinId × SA)
  fault : Bool
  deriving DecidableEq, Repr

/-- A Get Poison List that gathers the lists of its domain (R262, R318). -/
structure PoisonAsk where
  link : HLink
  member : BitVec 2
  base : BitVec 64
  len : BitVec 64
  awaiting : BitVec 8
  lines : List SA
  deriving DecidableEq, Repr

structure PeerS where
  boardId : BitVec 64
  dmap : BitVec 32
  version : BitVec 16
  link : Tab PLinkS
  tx : List Tx
  txns : List Txn
  nextTag : BitVec 16
  rsqTx : Tab (BitVec 16)
  rsqRx : Tab (BitVec 16)     -- next RSQ not yet delivered, per home
  rsqSeen : Tab (List (BitVec 16))
  acks : List PeerRsp         -- BIConflictAcks waiting for earlier RSQs
  lsdb : Tab (BitVec 32 × BitVec 64)   -- per device: newest LSA sequence, units toward each device, 8 bits each
  lsaSeq : BitVec 32
  routes : Tab Route
  lostAt : Tab Time           -- when the bundle to the device lost its last available link
  splitSince : Option Time
  form : FormState
  joins : List Join
  ready : BitVec 8
  members : BitVec 8
  leader : Option DevId
  cause : Byte
  formStart : Option Time
  commitAt : Time
  parent : Option DevId
  hops : Byte
  parentHops : Tab (Byte × Time × Time)   -- neighbour: advertised hop count, t3, arrival
  offset : BitVec 64
  rate : BitVec 32
  sync : SyncState
  overs : Nat
  lockedOnce : Bool
  cseq : BitVec 16
  sentBy : Tab (BitVec 64)    -- device * 5 + class
  recvBy : Tab (BitVec 64)
  resent : BitVec 64
  salvaged : BitVec 64
  detoured : BitVec 64
  discarded : BitVec 64
  formTimeout : BitVec 16
  settle : BitVec 16
  detourDelay : BitVec 16
  reconTimeout : BitVec 16
  syncEvery : BitVec 16
  syncFault : BitVec 16
  poisonAsk : List PoisonAsk
  deriving DecidableEq, Repr

-- ===== Power, reset, start-up, clocks (12) =====

/-- Start-up stages (Table 12-4), in order. -/
inductive Stage
  | power | rom | firmware | config | memory | localReady | memoryActive | containment | halted | service
  deriving DecidableEq, Repr

/-- Kinds of reset (R361). -/
inductive ResetKind | powerOn | cold | warm | containment | management | flr | perst
  deriving DecidableEq, Repr

/-- A firmware slot in flash (R363). -/
structure FwSlot where
  version : BitVec 32
  valid : Bool
  deriving DecidableEq, Repr

/-- A value of the persistent or pending image: object group and item, element, bytes (R395). -/
structure ImgEntry where
  group : Byte
  item : BitVec 16
  index : BitVec 16
  value : List Byte
  deriving DecidableEq, Repr

/-- A stored image (R364). -/
structure Image where
  gen : BitVec 32
  valid : Bool
  entries : List ImgEntry
  deriving DecidableEq, Repr

structure DevS where
  powered : Bool
  tripped : Bool
  straps : Straps
  stage : Stage
  haltCause : Byte
  entry : Tab Time            -- stage entry times
  lastReset : ResetKind
  resets : Tab (BitVec 64)
  sramDone : Bool
  fwStarted : Bool
  trained : Bool
  testDone : Bool
  waitEnded : Bool
  waitLimit : BitVec 16
  testSel : Byte
  slotA : FwSlot
  slotB : FwSlot
  running : Option Bool       -- false slot A, true slot B
  imgA : Image
  imgB : Image
  loaded : Option Bool        -- the copy loaded at CONFIG
  pendingReset : Option (ResetKind × Straps)   -- R270, R362
  deriving DecidableEq, Repr

structure ClkS where
  refclk : Bool
  holdover : Bool
  lastStep : BitVec 64
  lastStepAt : Time
  islandDiff : BitVec 64
  island : Tab (BitVec 64)    -- how far an island's copy of device time lies behind
  unlocked : List Nat         -- islands whose PLL has lost lock
  clock : Tab (BitVec 12)     -- cluster clock in MHz
  usClock : Tab (BitVec 12)   -- the cluster clocks when this microsecond began (R176)
  target : Tab (BitVec 12 × Time × Bool)  -- change in progress; true: thermal control makes it
  cap : Tab (BitVec 12)
  temps : List (BitVec 32)
  limits : List (BitVec 32)
  alert : Bool
  throttled : List Nat        -- clusters 0 to 15 and stacks 16 to 23 in a throttle episode
  warned : List Nat
  coolSince : Time           -- the last reading that found a sensor not yet cool (R378)
  rateStep : Tab Nat          -- HBM command rate steps per stack
  refresh2 : List Nat         -- stacks refreshed at double rate
  thrSteps : BitVec 64        -- 0x70:0023
  thrPasses : BitVec 64
  volts : List (BitVec 16)
  amps : List (BitVec 16)
  deriving DecidableEq, Repr

-- ===== Henos dictionary and transports (13) =====

/-- A frame waiting for the end of the management cycle or in the engine's queue (R390). -/
structure InFrame where
  acc : Accessor
  f : Frame
  deriving DecidableEq, Repr

structure Kept where
  acc : Accessor
  seq : BitVec 16
  crc : BitVec 32
  resp : List Byte
  deriving DecidableEq, Repr

structure Session where
  group : Byte
  item : BitVec 16
  acc : Accessor
  handle : BitVec 32
  base : BitVec 32
  until_ : Time
  deriving DecidableEq, Repr

structure Subscriber where
  acc : Accessor
  mask : BitVec 2048
  queue : List (List Byte)
  lost : Bool
  deriving DecidableEq, Repr

/-- A clear of marks that waits for the older accesses of its segments (R47): `drt` says dirty bits, else accessed bits. -/
structure MarkClear where
  win : WinId
  drt : Bool
  ids : List Nat
  by_ : Accessor × Option Frame
  deriving DecidableEq, Repr

/-- A BAR0 write that is executed as a dictionary write and waits behind the operations that arrived before it, or a BAR0 read
that waits behind such a write (R390, R425, R426). -/
structure BarWait where
  link : HLink
  member : BitVec 2
  off : Nat
  value : BitVec 32
  armed : Bool                -- the BAR0 unlock that travels with the write (R430)
  behind : Nat                -- frames that come before it
  read : Option BarAccess
  deriving DecidableEq, Repr

/-- A command of the CXL primary mailbox (Table 10-8). -/
inductive MboxCmd
  | getEvents (log : BitVec 2)
  | clearEvents (log : BitVec 2) (all : Bool) (handles : List (BitVec 16))
  | getPolicy
  | setPolicy (policy : List Byte)
  | getFwInfo
  | getTimestamp
  | setTimestamp (value : BitVec 64)
  | getSupportedLogs
  | getLog (offset length : BitVec 32)
  | identify
  | getHealth
  | getPoison (base len : BitVec 64)
  | injectPoison (sa : BitVec 64)
  | clearPoison (sa : BitVec 64) (data : Line)
  | henos (frame : List Byte)
  | other
  deriving DecidableEq, Repr

/-- A mailbox command that waits for its turn on its host link (R318). -/
structure MboxWait where
  link : HLink
  member : BitVec 2
  cmd : MboxCmd
  deriving DecidableEq, Repr

structure HenS where
  cycle : List InFrame        -- frames that arrived in this management cycle, in arrival order
  queue : List InFrame
  cycles : BitVec 64
  ops : BitVec 64
  commitsOk : BitVec 64
  commitsBad : BitVec 64
  ignored : BitVec 32
  kept : List Kept
  armed : List (Accessor × Time)
  sessions : List Session
  nextHandle : BitVec 32
  staging : List Byte
  stagingOwner : Option Accessor
  install : Option (Byte × Time)
  pending : List ImgEntry
  changed : List (Byte × BitVec 16)   -- objects changed in the pending image since the last commit
  commitRun : Option (Bool × Time)   -- target copy, start
  commitAuto : Bool           -- it carries an auto-persisted change (R270)
  commitResult : Byte
  commitTarget : Option Bool
  conRate : BitVec 32
  conOn : Bool
  conBuf : List Byte
  conStart : Time
  tcount : Tab (BitVec 64)    -- 0x78:0050, key transport * 5 + k
  wrongKeys : BitVec 64       -- 0x78:0051
  subs : List Subscriber
  i3cAddr : BitVec 7
  i3cPartial : List Byte
  i3cSince : Time
  i3cReady : List (List Byte)
  mbox : Tab (BitVec 3)       -- per host link: 1 + the member whose mailbox waits for a Henos response; 5: it was reset
  mwait : List MboxWait       -- mailbox commands whose doorbell was rung while another of their host link ran (R318)
  discards : List Nat         -- transports with a discard since E-0x3C2 was acknowledged
  lock : Bool
  clears : List MarkClear     -- clears of marks that have not completed (R47)
  bars : List BarWait         -- in arrival order; at most 64 writes of a host link (R426)
  deriving DecidableEq, Repr

-- ===== Registers (14) =====

structure RegS where
  unlock : Tab Time           -- per host link: when the BAR0 unlock was armed
  wrong : BitVec 16
  lasterr : DStatus
  accA : BitVec 32
  accB : BitVec 17
  accCount : BitVec 32
  capture : Tab (BitVec 33)   -- _HI captures with bit 32 set, key link * 2^26 + offset of _HI
  readTime : Tab Time         -- read times of counters (R473), key link * 4096 + counter
  upsets : List (Nat × Nat)   -- island, register: read copies whose parity is wrong
  soft : List (Nat × Nat × Nat × Bool)   -- master values of non-critical objects with an error: group, item, element, and
                                          -- whether it is uncorrectable (R433)
  masters : List (Nat × Nat × BitVec 64)  -- field, copy, value: a master that differs from the voted value
  parity : BitVec 64
  votes : BitVec 64
  counterPage : BitVec 4
  muted : List HLink          -- host links that get no BAR0 completion until the reset they asked for has ended (R440)
  deriving DecidableEq, Repr

-- ===== Events (16) =====

/-- A raise on its way to the event unit on CTL (R451). -/
structure Raise where
  event : EventId
  island : Byte
  time : Time
  payload : List Byte
  deriving DecidableEq, Repr

structure EvSrc where
  count : BitVec 32
  last : Time
  acked : Bool
  deriving DecidableEq, Repr

def EvSrc.init : EvSrc := ⟨0, 0, true⟩

structure EvRec where
  seq : BitVec 32
  raise : Raise
  count : BitVec 32
  timefree : Bool
  deriving DecidableEq, Repr

structure EvtS where
  raises : List Raise
  src : Tab EvSrc
  ring : List EvRec           -- newest first, at most 1,024
  nextSeq : BitVec 32
  route : Tab (BitVec 32)
  deriving DecidableEq, Repr

-- ===== Observation (17) =====

structure Counter where
  value : BitVec 48
  readAt : Time
  sel : BitVec 32
  overs : Bool
  deriving DecidableEq, Repr

structure Sample where
  counter : BitVec 4
  at_ : Time
  skid : Nat
  deriving DecidableEq, Repr

structure SeamRec where
  type : Byte
  flags : Byte
  seq : BitVec 32
  time : Time
  body : List Byte
  deriving DecidableEq, Repr

structure SeamS where
  control : BitVec 2
  filters : List Byte
  exportSet : BitVec 32
  exportNext : Option (BitVec 32)
  ringBase : BitVec 64
  ringLog : Byte
  ringOn : Bool
  ringPos : BitVec 64
  ringPart : BitVec 2
  seq : BitVec 32
  captured : BitVec 64
  dropped : BitVec 64
  sent : BitVec 64
  buf : List SeamRec          -- oldest first
  lostSince : BitVec 64       -- dropped since the previous LOST record
  ringNext : Nat              -- records at the front of buf that each sink has taken
  expNext : Nat
  filterCount : Tab (BitVec 16)
  frame : BitVec 32
  fuse : Bool
  blowing : Bool
  deriving DecidableEq, Repr

/-- A crossing of a counter (R471): bench or none, counter number, time. -/
structure Crossing where
  bench : Option Bench
  n : BitVec 4
  at_ : Time
  deriving DecidableEq, Repr

structure ObsS where
  cross : List Crossing
  cnt : Tab Counter           -- key bench * 9 + n (n = 8: the cycle counter); device counter n: 2304 + n
  samplingLog : Byte
  sampling : Bool
  pend : Tab Sample           -- per bench
  sampLost : Tab (BitVec 64)  -- per bench, since the last record
  sampLast : Tab Time         -- per bench
  hist : Tab (BitVec 32)      -- key (link * 4 + class) * 32 + bucket
  xhist : Tab (BitVec 64)     -- key link * 32 + bucket
  seam : SeamS
  deriving DecidableEq, Repr

-- ===== What the device has sent =====

/-- The model's record of what leaves the device (log entry 9). -/
inductive Out
  | resp (r : Resp)
  | bisnp (link : HLink) (member : BitVec 2) (kind : SnpKind) (sa : SA)
  | conflictAck (link : HLink) (member : BitVec 2) (sa : SA)
  | xread (x : XLink) (rid : Nat) (dpa : BitVec 64)
  | xwrite (x : XLink) (rid : Nat) (dpa : BitVec 64) (data : Line) (be : BitVec 64) (poison : Bool)
  | peer (pl : PLink) (seq : BitVec 16) (via : Option DevId) (m : PeerMsg)
  | hello (pl : PLink) (h : HelloMsg)
  | ctl (pl : PLink) (op : Byte) (body : List (BitVec 64))
  | contain (pl : PLink)
  | viral (link : HLink)
  | msix (link : HLink) (member : BitVec 2) (addr : BitVec 64) (data : BitVec 32)
  | mgmtData (sa : SA) (data : Line) (status : DStatus) (poison : Bool)
  | henos (acc : Accessor) (member : BitVec 2) (frame : List Byte)
  | event (acc : Accessor) (frame : List Byte)
  | status (acc : Accessor) (st : DStatus) (value : List Byte)
  | cpl (link : HLink) (member : BitVec 2) (data : List (BitVec 32))
  | ur (link : HLink) (member : BitVec 2)
  | crs (link : HLink) (member : BitVec 2)
  | mailbox (link : HLink) (member : BitVec 2) (code : BitVec 16) (payload : List Byte)
  | mctp (link : HLink) (member : BitVec 2) (payload : List Byte)
  | ibi
  | i3c (bytes : List Byte)
  | export_ (frame : List Byte)
  | memoryActive (on : Bool)
  | domFatal (on : Bool)
  | thermAlert (on : Bool)
  deriving DecidableEq, Repr

/-- The whole machine. -/
structure State where
  region : RegionS
  cache : CacheS
  snoop : SnoopS
  contract : ContractUnit
  job : JobS
  rel : RelS
  port : PortS
  peer : PeerS
  dev : DevS
  clk : ClkS
  hen : HenS
  reg : RegS
  evt : EvtS
  obs : ObsS
  now : Time
  freeCount : Nat
  out : List Out
  pending : List Instr
  deriving DecidableEq, Repr

-- ===== the state after a power-on reset =====

def RegionS.init : RegionS :=
  { hr := [], win := [], rightsCount := 0, unmappedCount := 0, markReqs := [], releases := [] }

/-- Defaults of Table 15-6. -/
def CacheS.init : CacheS :=
  { bench := [], tags := [], resident := [], setReads := [], reqs := [], nextReq := 0, xreqs := [], nextX := 0, mbase := 0,
    mlim := 0, msw := 0, mLasterr := .ok, mRefused := false, mDone := false, mProg := 0, mOp := none, discarded := 0,
    orphSkipped := 0, enable := true, cstate := .enabled, stale := false, cLasterr := .ok, bypw := 0, passNext := 0,
    scanEngage := 48, scanRelease := 16, scanOn := true, sweepOn := true, sweepThreshold := 131072, retiredList := [],
    retiredCursor := 0, haulCap := 16, loadThreshold := 32, imbalance := 2000, releaseCap := 64, orphans := [] }

/-- Defaults of Table 15-7; the recency trees read 0 (log entry 4). -/
def SnoopS.init : SnoopS :=
  { entries := [], trees := [], holds := [], snoops := [], nextSnoop := 0, past := [], table := [], waiting := [],
    holdTime := 256, biTimeout := 50, evictThreshold := 100000, evictions := 0, sent := [], delayed := 0, timeouts := [],
    violations := [], corrected := 0, flits := [], flitLog := [], evictMs := 0, attach := [], err := [] }

/-- Defaults of Table 15-8. -/
def ContractUnit.init : ContractUnit :=
  { table := [], shares := [], dir := [], spread := 2, ceil := 75, margin := 25, window := 2000, disq := 16,
    result := (0, 0, 0, 0, 0), assay := [], assaying := [], exceed := [], excSec := [], starved := 0, passes := [],
    waiting := [], lastStop := none, ms := [] }

/-- Defaults of Tables 15-6, 15-9 and 15-10. -/
def JobS.init : JobS :=
  { queues := [], jobs := [], rr := 0, rrStep := 0, rrRound := [], weights := [], conts := [], rotation := 0, threshold := 128, ignored := 0, inert := 0,
    lost := [], notify := [], published := [], drainedSince := [], loadedSince := none, stealing := [], engines := [],
    ckBytes := 0, ckMismatch := 0, ckParity := 0, ckWait := 0 }

/-- Defaults of Table 15-11. -/
def RelS.init : RelS :=
  { array := [], tagErr := [], cohErr := [], bufErr := [], retired := 0, retiredMask := 0, remapCursor := 0, retiring := [], remap := [], remapRun := [], remapAsks := [], remapWait := [], spares := [], badSpare := [],
    lastRemap := (.ok, 0, 0, 0), reserve := 256, outcomes := [], metaCorrected := 0, scrubPeriod := 24, scrubOn := true,
    poison := [], poisonOver := false, log := [], logNext := 0, logAck := 0xFFFFFFFF, logLost := 0, logLimit := 64,
    logSec := 0, logCount := [], logTally := [], fatal := [], fatalDue := [], flip := [], cphase := .none, cause := 0, entered := 0,
    wbStart := 0, holdEnd := 0, domFatal := false, resWritten := 0, resLost := 0, resSkipped := 0, resDiscarded := 0, result := 0,
    wbLimit := 2000, hold := 100, autoReset := true, dirtyShutdowns := 0, tlDiscarded := 0, orphLost := 0, lostSerial := [],
    persistSince := none }

/-- Defaults of Table 15-3; no link is configured, and each PERST is asserted (log entry 2). -/
def PortS.init : PortS :=
  { quad := [], link := [], host := [], xl := [], fn := [], resp := [], nextResp := 0, thr := 256, window := 10,
    dropAfter := 3, xTimeout := 2000, xLoss := 4, cut := 128 }

/-- Defaults of Table 15-4; the parent's hop count and the leader are none. -/
def PeerS.init : PeerS :=
  { boardId := 0, dmap := 0xFFFFFFFF, version := 0x0100, link := [], tx := [], txns := [], nextTag := 0, rsqTx := [],
    rsqRx := [], rsqSeen := [], acks := [], lsdb := [], lsaSeq := 0, routes := [], lostAt := [], splitSince := none,
    form := .none, joins := [], ready := 0, members := 0, leader := none, cause := 0, formStart := none, commitAt := 0,
    parent := none, hops := 0xFF, parentHops := [], offset := 0, rate := 0, sync := .free, overs := 0, lockedOnce := false,
    cseq := 0, sentBy := [], recvBy := [], resent := 0, salvaged := 0, detoured := 0, discarded := 0, formTimeout := 400,
    settle := 50, detourDelay := 2, reconTimeout := 100, syncEvery := 100, syncFault := 40, poisonAsk := [] }

/-- Flash of a fresh part: both firmware slots verify with version 1.0, both image copies are valid and hold no entry
(log entry 3). The SRAM self-test has started (Table 12-4). -/
def DevS.init (straps : Straps) : DevS :=
  { powered := true, tripped := false, straps := straps, stage := .rom, haltCause := 0, entry := [], lastReset := .powerOn,
    resets := [(0, 1)], sramDone := false, fwStarted := false, trained := false, testDone := false, waitEnded := false,
    waitLimit := 800, testSel := 0, slotA := ⟨0x0100, true⟩, slotB := ⟨0x0100, true⟩, running := none,
    imgA := ⟨1, true, []⟩, imgB := ⟨0, true, []⟩, loaded := none, pendingReset := none }

/-- Table 12-7 in units of 0.125 degrees: warning, throttle, critical of Logic, SRAM, HBM. -/
def thermalDefault : List (BitVec 32) := [760, 800, 880, 760, 800, 880, 680, 760, 840]

/-- REFCLK present, every PLL locked, clusters at 1,500 MHz; 25 degrees and nominal rails (log entry 5). -/
def ClkS.init : ClkS :=
  { refclk := true, holdover := false, lastStep := 0, lastStepAt := 0, islandDiff := 0, island := [], unlocked := [],
    clock := [], usClock := [], target := [], cap := [], temps := List.replicate 44 200, limits := thermalDefault, alert := false, throttled := [],
    warned := [], coolSince := 0, rateStep := [], refresh2 := [], thrSteps := 0, thrPasses := 0, volts := [1800, 1800, 750, 800, 1050, 400, 850, 1200],
    amps := List.replicate 8 0 }

/-- Defaults of Table 15-16. -/
def HenS.init : HenS :=
  { cycle := [], queue := [], cycles := 0, ops := 0, commitsOk := 0, commitsBad := 0, ignored := 0, kept := [], armed := [], sessions := [], nextHandle := 1,
    staging := [], stagingOwner := none, install := none, pending := [], changed := [], commitRun := none, commitAuto := false,
    commitResult := 0, commitTarget := none, conRate := 115200, conOn := true, conBuf := [],
    conStart := 0, tcount := [], wrongKeys := 0, subs := [], i3cAddr := 0, i3cPartial := [], i3cSince := 0,
    i3cReady := [], mbox := [], mwait := [], discards := [], lock := false, clears := [], bars := [] }

def RegS.init : RegS :=
  { unlock := [], wrong := 0, lasterr := .ok, accA := 0, accB := 0, accCount := 0, capture := [], readTime := [], upsets := [],
    soft := [], masters := [], parity := 0, votes := 0, counterPage := 0, muted := [] }

def EvtS.init : EvtS := { raises := [], src := [], ring := [], nextSeq := 0, route := [] }

def SeamS.init : SeamS :=
  { control := 0, filters := List.replicate 64 0, exportSet := 2, exportNext := none, ringBase := 0, ringLog := 0,
    ringOn := false, ringPos := 0, ringPart := 0, seq := 0, captured := 0, dropped := 0, sent := 0, buf := [],
    lostSince := 0, ringNext := 0, expNext := 0, filterCount := [], frame := 0, fuse := false, blowing := false }

def ObsS.init : ObsS :=
  { cross := [], cnt := [], samplingLog := 48, sampling := false, pend := [], sampLost := [], sampLast := [], hist := [],
    xhist := [], seam := SeamS.init }

/-- The machine right after a power-on reset that sampled `straps` (R360, R361, Table 12-4). -/
def State.start (straps : Straps) : State :=
  { region := RegionS.init, cache := CacheS.init, snoop := SnoopS.init, contract := ContractUnit.init, job := JobS.init,
    rel := RelS.init, port := PortS.init, peer := PeerS.init, dev := DevS.init straps, clk := ClkS.init, hen := HenS.init,
    reg := RegS.init, evt := EvtS.init, obs := ObsS.init, now := 0, freeCount := 0, out := [], pending := [] }

/-- The machine right after reset: the straps read device 0, standalone, image used (log entry 2). -/
def State.reset : State := State.start ⟨0, 0, false⟩

end Sys2Proof.Machine
end

