-- ==== Sys2Proof/Machine/Bits.lean ====
section
/-!
DEFINITION. Bytes and bits: little-endian fields (R2), byte enables, cyclic checks (Table 8-1) and small list helpers.
-/

namespace Sys2Proof.Machine

/-- The low `n` bytes of `v`, least significant first (R2). -/
def leBytes : Nat → Nat → List Byte
  | 0, _ => []
  | n + 1, v => BitVec.ofNat 8 v :: leBytes n (v / 256)

/-- The number whose bytes, least significant first, are `l` (R2). -/
def leNat : List Byte → Nat
  | [] => 0
  | b :: l => b.toNat + 256 * leNat l

/-- Byte `i` of a line (R1, R2). -/
def lineByte (l : Line) (i : Nat) : Byte := (l >>> (8 * i)).setWidth 8

/-- The 512-bit mask of the bytes that `be` enables, counted from byte `i`. -/
def beMaskFrom (be : BitVec 64) : Nat → Nat → Line
  | 0, _ => 0
  | n + 1, i => (if be.getLsbD i then (0xFF : Line) <<< (8 * i) else 0) ||| beMaskFrom be n (i + 1)

def beMask (be : BitVec 64) : Line := beMaskFrom be 64 0

/-- `new` where `be` enables the byte, else `old` (R81, R82, R83). -/
def mergeLine (old new : Line) (be : BitVec 64) : Line :=
  if be = BitVec.allOnes 64 then new else (old &&& ~~~(beMask be)) ||| (new &&& beMask be)

/-- Bytes `off` to `off + n - 1` of a line as a 64-bit value. -/
def lineField (l : Line) (off n : Nat) : BitVec 64 := ((l >>> (8 * off)).setWidth 64) &&& (BitVec.allOnes 64 >>> (64 - 8 * n))

/-- Byte enables of bytes `off` to `off + n - 1`. -/
def beRange (off n : Nat) : BitVec 64 := if n = 0 then 0 else ((BitVec.allOnes 64) >>> (64 - n)) <<< off

/-- `v` placed at byte `off` of an otherwise zero line. -/
def lineAt (v : BitVec 64) (off : Nat) : Line := (v.setWidth 512) <<< (8 * off)

def lineBytes (l : Line) : List Byte := (List.range 64).map (lineByte l)

def bytesLine (l : List Byte) : Line := BitVec.ofNat 512 (leNat (l.take 64))

def popCount {w : Nat} (v : BitVec w) : Nat := (List.range w).foldl (fun n i => if v.getLsbD i then n + 1 else n) 0

/-- The numbers of the set bits, ascending. -/
def bitsOf {w : Nat} (v : BitVec w) : List Nat := (List.range w).filter (fun i => v.getLsbD i)

/-- Bit `n` set. -/
def bit {w : Nat} (n : Nat) : BitVec w := BitVec.ofNat w (2 ^ n)

-- ===== cyclic checks (R236, R237) =====

/-- One bit of a reflected check, polynomial already reversed. -/
def crcReflBit {w : Nat} (poly : BitVec w) (s : BitVec w) : BitVec w :=
  if s.getLsbD 0 then (s >>> 1) ^^^ poly else s >>> 1

def crcReflByte {w : Nat} (poly : BitVec w) (s : BitVec w) (b : Byte) : BitVec w :=
  let s := s ^^^ b.setWidth w
  crcReflBit poly (crcReflBit poly (crcReflBit poly (crcReflBit poly
    (crcReflBit poly (crcReflBit poly (crcReflBit poly (crcReflBit poly s)))))))

/-- One bit of a check that is not reflected. -/
def crcBit {w : Nat} (poly : BitVec w) (s : BitVec w) : BitVec w :=
  if s.getLsbD (w - 1) then (s <<< 1) ^^^ poly else s <<< 1

def crcByte {w : Nat} (poly : BitVec w) (s : BitVec w) (b : Byte) : BitVec w :=
  let s := s ^^^ ((b.setWidth w) <<< (w - 8))
  crcBit poly (crcBit poly (crcBit poly (crcBit poly (crcBit poly (crcBit poly (crcBit poly (crcBit poly s)))))))

/-- The running value after `bs`, from running value `v` (R237): the shift register is the running value xor XOROUT. -/
def crcRun (poly : BitVec 2) (v : BitVec 64) (bs : List Byte) : BitVec 64 :=
  if poly = 0 then
    ((bs.foldl (crcReflByte (0x82F63B78 : BitVec 32)) (v.setWidth 32 ^^^ 0xFFFFFFFF)) ^^^ 0xFFFFFFFF).setWidth 64
  else if poly = 1 then
    ((bs.foldl (crcReflByte (0xEDB88320 : BitVec 32)) (v.setWidth 32 ^^^ 0xFFFFFFFF)) ^^^ 0xFFFFFFFF).setWidth 64
  else if poly = 2 then bs.foldl (crcByte (0x42F0E1EBA9EA3693 : BitVec 64)) v
  else (bs.foldl (crcByte (0x8BB7 : BitVec 16)) (v.setWidth 16)).setWidth 64

/-- CRC-32C of a byte string (Table 8-1, POLY 0). -/
def crc32c (bs : List Byte) : BitVec 32 := (crcRun 0 0 bs).setWidth 32

/-- The width of a polynomial in bits. -/
def crcWidth (poly : BitVec 2) : Nat := if poly = 2 then 64 else if poly = 3 then 16 else 32

-- ===== lists =====

/-- The first element that satisfies `p`, and the list without it. -/
def takeFirst {α : Type} (p : α → Bool) : List α → Option (α × List α)
  | [] => none
  | x :: l => if p x then some (x, l) else (takeFirst p l).map (fun r => (r.1, x :: r.2))

/-- `f` on the elements that satisfy `p`. -/
def mapIf {α : Type} (p : α → Bool) (f : α → α) (l : List α) : List α := l.map (fun x => if p x then f x else x)

/-- The largest element, or 0. -/
def maxNat (l : List Nat) : Nat := l.foldl max 0

/-- Fields of a payload: size in bytes and value; each is aligned to its own size (R455). -/
abbrev Fields := List (Nat × Nat)

def padTo (n size : Nat) : Nat := if size = 0 then 0 else (size - n % size) % size

def encFieldsFrom : Nat → Fields → List Byte
  | _, [] => []
  | n, (size, v) :: t =>
    let p := padTo n size
    leBytes p 0 ++ leBytes size v ++ encFieldsFrom (n + p + size) t

def encFields (f : Fields) : List Byte := encFieldsFrom 0 f

/-- Class encodings (Table 2-9). -/
def classCode : LClass → Nat
  | .ash => 0 | .slate => 1 | .ochre => 2 | .vermilion => 3
def classOf (c : BitVec 2) : LClass :=
  if c = 3 then .vermilion else if c = 2 then .ochre else if c = 1 then .slate else .ash

/-- Status codes (Table 0-7). -/
def statusCode : DStatus → Nat
  | .ok => 0 | .noObject => 1 | .type => 2 | .access => 3 | .locked => 4 | .busy => 5 | .range => 6
  | .quiesceRequired => 7 | .full => 8

/-- Job status codes (Table 0-6). -/
def jstatusCode : JStatus → Nat
  | .ok => 0 | .partialFail => 1 | .poisoned => 2 | .rights => 3 | .unmapped => 4 | .queueReset => 5 | .aborted => 6
  | .checkMismatch => 7 | .reservationLost => 8 | .timeout => 9 | .descriptorBad => 10

def rqkCode : RqKind → Nat
  | .hostSocket => 0 | .userQueue => 1 | .supervisorQueue => 2 | .chainUser => 3 | .chainSupervisor => 4
  | .management => 5 | .deviceWork => 6

def roleCode : Role → Nat
  | .idle => 0 | .host => 1 | .expander => 2 | .peer => 3
def roleOf (c : BitVec 2) : Role := if c = 1 then .host else if c = 2 then .expander else if c = 3 then .peer else .idle

end Sys2Proof.Machine
end

