-- ==== Sys2Proof/Machine/Ops.lean ====
section
/-!
DEFINITION. The named operations over the state that every family uses: units, addresses, events, the error log, tag
records, the data array, expander requests, and entry into containment.
-/

namespace Sys2Proof.Machine

-- ===== the running device =====

/-- The device has power and has not tripped (R357, R380); otherwise no command acts on it (log entry 15). -/
def alive (s : State) : Bool := s.dev.powered && !s.dev.tripped

/-- The common form of a meaning: `f` acts while the device runs; a command takes no time and leaves the queue alone. -/
def act (s : State) (f : State → State) : Host.Outcome State Fault Refusal :=
  .next (if alive s then { f s with pending := s.pending, now := s.now } else s)

/-- What a command that may step device time leaves: time never decreases, and the queue stays (R3, R349). -/
def keepTime (s t : State) : State :=
  { t with pending := s.pending, now := if t.now.toNat < s.now.toNat then s.now else t.now }

/-- As act, for the commands that may step device time forward (R349). -/
def actTime (s : State) (f : State → State) : Host.Outcome State Fault Refusal :=
  .next (if alive s then keepTime s (f s) else s)

/-- As act, when the operands name a unit of the part. -/
def actIf (ok : Bool) (s : State) (f : State → State) : Host.Outcome State Fault Refusal :=
  if ok then act s f else .refused .noSuchUnit

/-- As actTime, when the operands name a unit of the part. -/
def actTimeIf (ok : Bool) (s : State) (f : State → State) : Host.Outcome State Fault Refusal :=
  if ok then actTime s f else .refused .noSuchUnit

def devId (s : State) : DevId := s.dev.straps.bid
def standalone (s : State) : Bool := s.dev.straps.mode == 0
def boardMode (s : State) : Bool := s.dev.straps.mode == 1

/-- Device time (R3, R374). -/
def devTime (s : State) : Time := s.now

/-- ns elapsed since `t`. -/
def since (s : State) (t : Time) : Nat := (s.now - t).toNat

def emit (s : State) (o : Out) : State := { s with out := o :: s.out }

/-- Takes the number of the next free value. -/
def takeFree (s : State) : State := { s with freeCount := s.freeCount + 1 }

-- ===== units =====

def winOf (s : State) (w : WinId) : Win := tget Win.init s.region.win w.toNat
def setWin (s : State) (w : WinId) (v : Win) : State :=
  { s with region := { s.region with win := tput Win.init s.region.win w.toNat v } }
def modWin (s : State) (w : WinId) (f : Win → Win) : State := setWin s w (f (winOf s w))

def benchOf (s : State) (b : Bench) : BenchS := tget BenchS.init s.cache.bench b.toNat
def setBench (s : State) (b : Bench) (v : BenchS) : State :=
  { s with cache := { s.cache with bench := tput BenchS.init s.cache.bench b.toNat v } }
def modBench (s : State) (b : Bench) (f : BenchS → BenchS) : State := setBench s b (f (benchOf s b))

def linkOf (s : State) (p : Nat) : LinkS := tget LinkS.init s.port.link p
def setLink (s : State) (p : Nat) (v : LinkS) : State :=
  { s with port := { s.port with link := tput LinkS.init s.port.link p v } }
def modLink (s : State) (p : Nat) (f : LinkS → LinkS) : State := setLink s p (f (linkOf s p))

def hlinkOf (s : State) (l : HLink) : HLinkS := tget HLinkS.init s.port.host l.toNat
def setHlink (s : State) (l : HLink) (v : HLinkS) : State :=
  { s with port := { s.port with host := tput HLinkS.init s.port.host l.toNat v } }

def xlinkOf (s : State) (x : XLink) : XLinkS := tget XLinkS.init s.port.xl x.toNat
def setXlink (s : State) (x : XLink) (v : XLinkS) : State :=
  { s with port := { s.port with xl := tput XLinkS.init s.port.xl x.toNat v } }

def fnKey (l : HLink) (m : BitVec 2) : Nat := l.toNat * 4 + m.toNat
def fnOf (s : State) (l : HLink) (m : BitVec 2) : FnS := tget FnS.init s.port.fn (fnKey l m)
def setFn (s : State) (l : HLink) (m : BitVec 2) (v : FnS) : State :=
  { s with port := { s.port with fn := tput FnS.init s.port.fn (fnKey l m) v } }

def plinkOf (s : State) (l : Nat) : PLinkS := tget PLinkS.init s.peer.link l
def setPlink (s : State) (l : Nat) (v : PLinkS) : State :=
  { s with peer := { s.peer with link := tput PLinkS.init s.peer.link l v } }

def queueOf (s : State) (q : QueueId) : QueueS := tget QueueS.init s.job.queues q.toNat
def setQueue (s : State) (q : QueueId) (v : QueueS) : State :=
  { s with job := { s.job with queues := tput QueueS.init s.job.queues q.toNat v } }
def modQueue (s : State) (q : QueueId) (f : QueueS → QueueS) : State := setQueue s q (f (queueOf s q))

def contractOf (s : State) (i : CIdx) : ContractS := tget ContractS.init s.contract.table i.toNat
def setContract (s : State) (i : CIdx) (v : ContractS) : State :=
  { s with contract := { s.contract with table := tput ContractS.init s.contract.table i.toNat v } }

def clusterOf (b : Bench) : Cluster := (b >>> 4).setWidth 4
def quadrantOf (b : Bench) : Nat := b.toNat / 64
/-- The stack of a bench's sets: S(2k + b[5]) (R61). -/
def stackOf (b : Bench) : Stack := BitVec.ofNat 3 (2 * (b.toNat / 64) + (b.toNat / 32) % 2)
/-- Clock islands (Table 1-4). -/
def clusterIsland (b : Bench) : Nat := 128 + b.toNat / 16
def stackIsland (t : Stack) : Nat := 144 + t.toNat
def tagIsland (b : Bench) : Nat := 156 + quadrantOf b
def sfIsland (b : Bench) : Nat := 152 + quadrantOf b

/-- The cluster clock in MHz, 1,500 unless a change has been made (R372). -/
def clockOf (s : State) (c : Cluster) : Nat := (tget (1500 : BitVec 12) s.clk.clock c.toNat).toNat
/-- The pipeline capacity C of R176. -/
def pipeCap (s : State) (b : Bench) : Nat := clockOf s (clusterOf b) / 2

-- ===== events =====

def evSrc (s : State) (e : Nat) : EvSrc := tget EvSrc.init s.evt.src e

/-- An island's copy of device time (R375). -/
def islandTime (s : State) (i : Nat) : Time := s.now - tget 0 s.clk.island i

/-- Sends a raise of event `e` from `island` toward the event unit (R451). -/
def raise (s : State) (e island : Nat) (f : Fields) : State :=
  { s with evt := { s.evt with raises := s.evt.raises ++
      [{ event := BitVec.ofNat 11 e, island := BitVec.ofNat 8 island, time := islandTime s island, payload := encFields f }] } }

/-- Raises an event its chapter calls first after acknowledgement (R451): only while the source is acknowledged and no
raise of it is on its way. -/
def raiseFirst (s : State) (e island : Nat) (f : Fields) : State :=
  if (evSrc s e).acked && !(s.evt.raises.any (fun r => r.event == BitVec.ofNat 11 e)) then raise s e island f else s

-- ===== counters of events (Tables 17-3, 17-4) =====

def Counter0 : Counter := ⟨0, 0, 0, false⟩

/-- The selector counts event `code`, for a request of qualifier `q` (R468). -/
def selMatches (sel : BitVec 32) (code q : Nat) : Bool :=
  sel.getLsbD 15 && (sel.toNat % 1024 == code) && ((sel.toNat / 1024) % 16 == 0 || (sel.toNat / 1024) % 16 == q)

/-- Adds 1 to counter `key` if its selector matches, and notes a sampling crossing (R471). -/
def countKey (s : State) (bench : Option Bench) (key n code q : Nat) : State :=
  let c := tget Counter0 s.obs.cnt key
  if !selMatches c.sel code q then s else
  let v := c.value + 1
  let crossed := c.sel.getLsbD 14 && (v.toNat % 2 ^ s.obs.samplingLog.toNat == 0)
  { s with obs := { s.obs with
      cnt := tput Counter0 s.obs.cnt key { c with value := v, overs := c.overs || v == 0 }
      cross := if crossed then s.obs.cross ++ [⟨bench, BitVec.ofNat 4 n, s.now⟩] else s.obs.cross } }

def countMany (s : State) (bench : Option Bench) (base code q : Nat) : List Nat → State
  | [] => s
  | n :: t => countMany (countKey s bench (base + n) n code q) bench base code q t

/-- A bench event (Table 17-3); `q` is the qualifier of Table 17-2 or 0. -/
def countBench (s : State) (b : Bench) (code q : Nat) : State :=
  if s.obs.cnt.isEmpty then s else countMany s (some b) (b.toNat * 9) code q (List.range 8)

/-- A device event (Table 17-4). -/
def countDev (s : State) (code q : Nat) : State :=
  if s.obs.cnt.isEmpty then s else countMany s none 2304 code q (List.range 16)

def cntOf (s : State) (k : Nat) : Counter := tget Counter0 s.obs.cnt k
def setCnt (s : State) (k : Nat) (c : Counter) : State :=
  { s with obs := { s.obs with cnt := tput Counter0 s.obs.cnt k c } }

/-- Adds `n` items of an event to counter `i` of a bench (R469); a crossing is noted when it passes a multiple of the period
(R471). -/
def addItems (s : State) (b : Bench) (i n : Nat) : State :=
  let k := b.toNat * 9 + i
  let c := cntOf s k
  let v := c.value.toNat + n
  let period := 2 ^ s.obs.samplingLog.toNat
  let s := setCnt s k { c with value := BitVec.ofNat 48 v, overs := c.overs || decide (2 ^ 48 ≤ v) }
  if c.sel.getLsbD 14 && c.value.toNat / period != v / period then
    { s with obs := { s.obs with cross := s.obs.cross ++ [⟨some b, BitVec.ofNat 4 i, s.now⟩] } }
  else s

/-- `n` items of a bench event. -/
def countItems (s : State) (b : Bench) (code q n : Nat) : State :=
  if s.obs.cnt.isEmpty then s else
  (List.range 8).foldl (fun s i => if selMatches (cntOf s (b.toNat * 9 + i)).sel code q then addItems s b i n else s) s

def classQual (c : LClass) : Nat := 1 + classCode c

-- ===== the home map (02) =====

def devSlot (dl : BitVec 24) (k : Nat) : DevId := (dl >>> (3 * k)).setWidth 3

/-- R30 over the ranges listed. -/
def homeIn (hr : Tab HomeRange) (g : Nat) : List Nat → Option (DevId × Nat)
  | [] => none
  | r :: t =>
    let h := tget HomeRange.init hr r
    if h.ways ≠ 0 ∧ h.base.toNat ≤ g ∧ g ≤ h.limit.toNat then
      let i := g - h.base.toNat
      some (devSlot h.devlist (i % h.ways.toNat), h.lbase.toNat + i / h.ways.toNat)
    else homeIn hr g t

/-- Home device and device-local address of a board system address (R30); none: unmapped. -/
def homeOf (s : State) (sa : SA) : Option (DevId × DLA) :=
  (homeIn s.region.hr (sa.toNat / 2 ^ 30) (List.range 8)).map
    (fun r => (r.1, BitVec.ofNat 45 (r.2 * 2 ^ 30 + sa.toNat % 2 ^ 30)))

/-- R103: the board system granule of granule `dg` of device `d`. -/
def saIn (hr : Tab HomeRange) (d : DevId) (dg : Nat) : List Nat → Option Nat
  | [] => none
  | r :: t =>
    let h := tget HomeRange.init hr r
    let w := h.ways.toNat
    match (List.range w).find? (fun k => devSlot h.devlist k == d) with
    | none => saIn hr d dg t
    | some k =>
      let span := (h.limit.toNat + 1 - h.base.toNat) / w
      if h.lbase.toNat ≤ dg ∧ dg < h.lbase.toNat + span then some (h.base.toNat + (dg - h.lbase.toNat) * w + k)
      else saIn hr d dg t

/-- The board system address of a device-local address of this device (R103); 0 for one no range holds. -/
def saOf (s : State) (dla : DLA) : SA :=
  match saIn s.region.hr (devId s) (dla.toNat / 2 ^ 30) (List.range 8) with
  | some g => BitVec.ofNat 48 (g * 2 ^ 30 + dla.toNat % 2 ^ 30)
  | none => 0

/-- The 128 bytes that R32's digest covers. -/
def homeMapBytes (s : State) : List Byte :=
  (List.range 8).flatMap (fun r =>
    let h := tget HomeRange.init s.region.hr r
    leBytes 4 h.base.toNat ++ leBytes 4 h.limit.toNat ++ leBytes 4 h.lbase.toNat ++ [h.ways] ++ leBytes 3 h.devlist.toNat)

/-- R32 -/
def homeDigest (s : State) : BitVec 32 := crc32c (homeMapBytes s)

-- ===== sets, ways, keys (03, 04) =====

def lineAddr (dla : DLA) : DLA := (dla >>> 6) <<< 6
def lineSa (sa : SA) : SA := (sa >>> 6) <<< 6
def blkOfDla (dla : DLA) : BitVec 33 := (dla >>> 12).setWidth 33
/-- R59: hi, the stored TAG. -/
def tagOfBlk (blk : BitVec 33) : BitVec 10 := (blk >>> 23).setWidth 10
/-- R59: the 23-bit set index. -/
def setOfBlk (blk : BitVec 33) : BitVec 23 :=
  blk.setWidth 23 ^^^ ((tagOfBlk blk).setWidth 23 <<< 13) ^^^ ((tagOfBlk blk).setWidth 23 <<< 3)
def benchOfSet (i : BitVec 23) : Bench := i.setWidth 8 ^^^ (i >>> 8).setWidth 8 ^^^ (i >>> 16).setWidth 8
def benchOfBlk (blk : BitVec 33) : Bench := benchOfSet (setOfBlk blk)
def lsOfBlk (blk : BitVec 33) : BitVec 15 := (setOfBlk blk >>> 8).setWidth 15
def benchOfDla (dla : DLA) : Bench := benchOfBlk (blkOfDla dla)
def lsOfDla (dla : DLA) : BitVec 15 := lsOfBlk (blkOfDla dla)
def tagOfDla (dla : DLA) : BitVec 10 := tagOfBlk (blkOfDla dla)
def secOfDla (dla : DLA) : Nat := (dla.toNat / 64) % 64

/-- R60: the block number of a bench, local set and tag. -/
def blkOf (b : Bench) (ls : BitVec 15) (hi : BitVec 10) : BitVec 33 :=
  let low : BitVec 8 := b ^^^ ls.setWidth 8 ^^^ (ls >>> 8).setWidth 8
  let i : BitVec 23 := (ls.setWidth 23 <<< 8) ||| low.setWidth 23
  let lo := i ^^^ (hi.setWidth 23 <<< 13) ^^^ (hi.setWidth 23 <<< 3)
  (hi.setWidth 33 <<< 23) ||| lo.setWidth 33
def dlaOfBlk (blk : BitVec 33) (sec : Nat) : DLA := BitVec.ofNat 45 (blk.toNat * 4096 + sec * 64)

/-- R106 -/
def lineKey (dla : DLA) : BitVec 31 :=
  ((lsOfDla dla).setWidth 31 <<< 16) ||| ((tagOfDla dla).setWidth 31 <<< 6) ||| BitVec.ofNat 31 (secOfDla dla)
def sfSet (k : BitVec 31) : Nat :=
  (((k >>> 11) ^^^ (k >>> 14) ^^^ (k >>> 17)).toNat % 8) * 2048 + k.toNat % 2048
def sfTag (k : BitVec 31) : BitVec 20 := (k >>> 11).setWidth 20
/-- R106 inverted: the device-local line of a snoop-filter entry. -/
def dlaOfKey (b : Bench) (tag : BitVec 20) (set : Nat) : DLA :=
  let key := tag.toNat * 2048 + set % 2048
  dlaOfBlk (blkOf b (BitVec.ofNat 15 (key / 65536)) (BitVec.ofNat 10 ((key / 64) % 1024))) (key % 64)
/-- R118 -/
def holdSlot (k : BitVec 31) : Nat := ((k ^^^ (k >>> 10) ^^^ (k >>> 20)).toNat) % 1024

def setKey (b : Bench) (ls : BitVec 15) : Nat := b.toNat * 32768 + ls.toNat
def tagKey (b : Bench) (ls : BitVec 15) (w : Nat) : Nat := setKey b ls * 16 + w
def benchOfKey (k : Nat) : Bench := BitVec.ofNat 8 (k / 524288)
def lsOfKey (k : Nat) : BitVec 15 := BitVec.ofNat 15 (k / 16)
def blkOfKey (s : State) (k : Nat) : BitVec 33 :=
  blkOf (benchOfKey k) (lsOfKey k) (tget TagRec.init s.cache.tags k).tag

-- ===== windows =====

def inSpan (g : Geometry) (dla : DLA) : Bool :=
  g.base.toNat * 2 ^ 30 ≤ dla.toNat && dla.toNat < (g.limit.toNat + 1) * 2 ^ 30

/-- R38: the window an address matches. -/
def windowAt (s : State) (dla : DLA) : Option WinId :=
  ((s.region.win.find? (fun p => (p.2.state == .enabled || p.2.state == .targetLost) && inSpan p.2.geo dla)).map
    (fun p => BitVec.ofNat 6 p.1))

/-- R38: the expander address. -/
def dpaOf (g : Geometry) (dla : DLA) : BitVec 64 :=
  BitVec.ofNat 64 (dla.toNat - g.base.toNat * 2 ^ 30 + g.toffset.toNat * 2 ^ 30)

/-- R68: the window whose retained span holds an address; a flush drain has left no block but orphans under its window. -/
def retainedAt (s : State) (dla : DLA) : Option (WinId × Geometry) :=
  s.region.win.findSome? (fun p =>
    match p.2.retained with
    | some g => if (p.2.state != .disabled || !p.2.lastFlush) && inSpan g dla then some (BitVec.ofNat 6 p.1, g) else none
    | none => none)

/-- The link is up with role expander (Table 10-7: states 3 to 6). -/
def xlUp (s : State) (x : XLink) : Bool :=
  match (xlinkOf s x).state with
  | .ready | .assay | .qualified | .unqualified => true
  | _ => false

/-- R68, R277: where a dirty sector of the address is written back; none: it cannot be. -/
def writeTarget (s : State) (dla : DLA) : Option (XLink × BitVec 64) :=
  match retainedAt s dla with
  | none => none
  | some (w, g) =>
    if (winOf s w).state == .targetLost then none
    else if (winOf s w).state == .disabled && !xlUp s g.xl then none
    else some (g.xl, dpaOf g dla)

/-- The geometry a bench uses for the far accesses of a window's lines: as it stood when the window was last enabled (R68). -/
def heldGeo (v : Win) : Geometry := v.retained.getD v.geo

/-- R45: the mark segment of an address. -/
def segOf (v : Win) (dla : DLA) : BitVec 6 :=
  BitVec.ofNat 6 ((dla.toNat - v.geo.base.toNat * 2 ^ 30) / 2 ^ v.segshift.toNat)

/-- R45: the number of segments that hold an address of the span. -/
def segCount (v : Win) : Nat :=
  ((v.geo.limit.toNat + 1 - v.geo.base.toNat) * 2 ^ 30 + 2 ^ v.segshift.toNat - 1) / 2 ^ v.segshift.toNat

/-- A clear of marks that the request is older than (R47). -/
def beforeClear (s : State) (r : Req) (drt : Bool) : Bool := s.hen.clears.any (fun c => c.drt == drt && c.ids.contains r.id)

/-- The marks of a request that is performed; one that is older than a clear leaves that clear's bits as they are (R46, R47). -/
def markReq (s : State) (r : Req) (dirty : Bool) : State :=
  modWin s r.win (fun v =>
    if v.state == .disabled then v else
    let m : BitVec 64 := bit (segOf v r.dla).toNat
    { v with acc := if beforeClear s r false then v.acc else v.acc ||| m
             drt := if dirty && !beforeClear s r true then v.drt ||| m else v.drt })

-- ===== links =====

/-- The slots a quad configuration record uses: port offset, width in ports, slot (Table 10-2). -/
def slotsOf (r : BitVec 32) : List (Nat × Nat × Slot) :=
  let f := fun n => (⟨(r >>> (5 + 7 * n)).setWidth 5, roleOf ((r >>> (3 + 7 * n)).setWidth 2)⟩ : Slot)
  match r.toNat % 8 with
  | 0 => [(0, 1, f 0), (1, 1, f 1), (2, 1, f 2), (3, 1, f 3)]
  | 1 => [(0, 2, f 0), (2, 1, f 2), (3, 1, f 3)]
  | 2 => [(0, 1, f 0), (1, 1, f 1), (2, 2, f 2)]
  | 3 => [(0, 2, f 0), (2, 2, f 2)]
  | 4 => [(0, 4, f 0)]
  | _ => []

/-- Every configured slot: lead port, width in ports, slot. In standalone mode a peer slot is idle (R287). -/
def allSlots (s : State) : List (Nat × Nat × Slot) :=
  s.port.quad.flatMap (fun q =>
    ((slotsOf q.2).map (fun t => (4 * q.1 + t.1, t.2.1,
      if t.2.2.role == .peer && standalone s then { t.2.2 with role := .idle } else t.2.2))).filter
      (fun t => t.2.2.role != .idle))

def slotAt (s : State) (p : Nat) : Option (Nat × Nat × Slot) := (allSlots s).find? (fun t => t.1 == p)

/-- The lead ports of a link, in order (R285). -/
def leadsOf (s : State) (r : Role) (n : Nat) : List Nat :=
  ((allSlots s).filter (fun t => t.2.2.role == r && t.2.2.lnum.toNat == n)).map (·.1)

def portUp (s : State) (p : Nat) : Bool :=
  match (linkOf s p).state with
  | .l0 | .recovery | .grace => true
  | _ => false

/-- Whether a member link of host link `l` is up (its CXL.mem carries). -/
def hostUp (s : State) (l : HLink) : Bool :=
  !(hlinkOf s l).perst && (leadsOf s .host l.toNat).any (portUp s)

/-- The members of a host link: index and lead port. -/
def membersOf (s : State) (l : HLink) : List (Nat × Nat) :=
  let leads := leadsOf s .host l.toNat
  (List.range leads.length).zip leads

def memberUp (s : State) (l : HLink) (m : BitVec 2) : Bool :=
  !(hlinkOf s l).perst && (membersOf s l).any (fun t => t.1 == m.toNat && portUp s t.2)

/-- The lead port of a member of a host link. -/
def memberPort (s : State) (l : HLink) (m : BitVec 2) : Option Nat :=
  ((membersOf s l).find? (fun t => t.1 == m.toNat)).map (·.2)

/-- A configured member of a host link has gone down (R415). -/
def memberGone (s : State) (l : HLink) (m : BitVec 2) : Bool :=
  match memberPort s l m with
  | some p => (match (linkOf s p).state with
    | .l0 | .ioOnly | .recovery | .grace => false
    | _ => true)
  | none => false

/-- Every member function of every configured host link. -/
def allMembers (s : State) : List (HLink × BitVec 2) :=
  (List.range 8).flatMap (fun l => (membersOf s (BitVec.ofNat 3 l)).map (fun t => (BitVec.ofNat 3 l, BitVec.ofNat 2 t.1)))

/-- The lead port of a host link: that of its member 0 (R283). -/
def leadPort (s : State) (l : HLink) : Nat := (leadsOf s .host l.toNat).headD 0

/-- Capacity of a link in sixteenths of a port (R289). -/
def cap16 (s : State) (p : Nat) : Nat :=
  let v := linkOf s p
  if portUp s p then v.width * v.speed / 16 else 0
def linkCap16 (s : State) (r : Role) (n : Nat) : Nat := ((leadsOf s r n).map (cap16 s)).foldl (· + ·) 0

/-- The lead port of an expander link. -/
def xPort (s : State) (x : XLink) : Nat := (leadsOf s .expander x.toNat).headD 0

/-- The port island takes no transfer: its link retrains or is in the grace window before, or its PLL has lost lock. The sending
island holds what it sends there (R15, R305, R306, R373). -/
def portHeld (s : State) (p : Nat) : Bool :=
  (linkOf s p).state == .recovery || (linkOf s p).state == .grace || s.clk.unlocked.contains p

/-- A peer message of a class (Table 11-3) goes to another device: counted when it is queued at its source (0x18:0050, Table 17-4). -/
def countSent (s : State) (dst : DevId) (c : Nat) : State :=
  countDev { s with peer := { s.peer with sentBy := tinc s.peer.sentBy (dst.toNat * 5 + c) } } 0x10A 0

/-- A peer message has arrived from a device: counted by class at its destination (0x18:0050, Table 17-4). -/
def countRecv (s : State) (src : DevId) (c : Nat) : State :=
  countDev { s with peer := { s.peer with recvBy := tinc s.peer.recvBy (src.toNat * 5 + c) } } 0x109 0

/-- A CTL message has arrived (class 4 of Table 11-3); what the device tells itself is no peer message. -/
def ctlIn (s : State) (src : DevId) : State := if src = devId s then s else countRecv s src 4

/-- A CTL message of a peer link's neighbour. -/
def ctlNear (s : State) (l : Nat) : State :=
  match (plinkOf s l).peer with
  | some d => ctlIn s d
  | none => s

/-- A CTL message leaves on peer link `l`; 0x10 is CONTAIN. -/
def ctlEmit (s : State) (l : Nat) (op : Byte) (body : List (BitVec 64)) : State :=
  emit (match (plinkOf s l).peer with
    | some d => countSent s d 4
    | none => s) (if op = 0x10 then .contain (BitVec.ofNat 4 l) else .ctl (BitVec.ofNat 4 l) op body)

/-- A CTL message for peer link `l`: held while the port takes no transfer (R15); in a grace window CONTAIN is an urgent flit
(R305, R333). -/
def ctlOut (s : State) (l : Nat) (op : Byte) (body : List (BitVec 64)) : State :=
  match (leadsOf s .peer l).head? with
  | none => ctlEmit s l op body
  | some p =>
    if !portHeld s p then ctlEmit s l op body
    else if op = 0x10 && (linkOf s p).state == .grace && !s.clk.unlocked.contains p then
      ctlEmit (modLink s p (fun v => { v with graceSent := v.graceSent + 1, urgent := v.urgent + 1 })) l op body
    else setPlink s l { plinkOf s l with held := (plinkOf s l).held ++ [(op, body)] }

/-- The CTL messages held for a peer link whose port takes transfers again leave, oldest first (R15). -/
def releaseCtl (s : State) (l : Nat) : State :=
  let v := plinkOf s l
  if v.held.isEmpty || ((leadsOf s .peer l).head?).any (portHeld s) then s
  else v.held.foldl (fun s m => ctlEmit s l m.1 m.2) (setPlink s l { v with held := [] })

-- ===== MSI-X (R459, R460) =====

/-- Step 4 of a containment has been reached: no MSI-X message is sent (R460). -/
def msixQuiet (s : State) : Bool := s.dev.stage == .containment && s.rel.cphase == .holding

/-- Sends the message of a table entry of a member function; a disabled or masked one becomes pending (R459). -/
def msix (s : State) (l : HLink) (m : BitVec 2) (vec : Nat) : State :=
  if msixQuiet s then s else
  let f := fnOf s l m
  if f.msixEnable && !f.msixMask && f.msixOpen.contains vec then
    let e := tget ((0 : BitVec 64), (0 : BitVec 32)) f.msixTable vec
    emit s (.msix l m e.1 e.2)
  else if f.msixPend.contains vec then s
  else setFn s l m { f with msixPend := f.msixPend ++ [vec] }

/-- Sends what is pending at a member function and may now leave (R459). -/
def msixFlush (s : State) (l : HLink) (m : BitVec 2) : State :=
  let f := fnOf s l m
  if !f.msixEnable || f.msixMask || msixQuiet s then s else
  let go := f.msixPend.filter (fun v => f.msixOpen.contains v)
  go.foldl (fun s v => msix s l m v) (setFn s l m { f with msixPend := f.msixPend.filter (fun v => !f.msixOpen.contains v) })

-- ===== the error log (R264, R265, R319) =====

/-- The interrupt of CXL event log `k` of a member function, under its policy byte (R461). -/
def logIrq (s : State) (l : HLink) (m : BitVec 2) (k : Nat) : State :=
  let p := (fnOf s l m).policy.getD k 0
  if p.toNat % 4 = 1 then msix s l m (p.toNat / 16) else s

/-- Appends to the CXL event log `k` of every member function (R319). -/
def mirrorLog (s : State) (r : LogRec) : State :=
  let k := if r.sev == 2 then 2 else if r.sev == 3 then 3 else 0
  (allMembers s).foldl (fun s lm =>
    let f := fnOf s lm.1 lm.2
    let l := tget [] f.events k
    if 256 ≤ l.length then setFn s lm.1 lm.2 { f with overflow := f.overflow ||| bit k }
    else
      let s := setFn s lm.1 lm.2 { f with events := tput [] f.events k (l ++ [(f.nextHandle, r)]), nextHandle := f.nextHandle + 1 }
      if l.isEmpty then logIrq s lm.1 lm.2 k else s) s

/-- A record is acknowledged when its SEQ is at or before the acknowledged one in serial order (R264). -/
def logAcked (ack seq : BitVec 32) : Bool := !(ack - seq).msb

/-- The ring is full and its oldest record is not acknowledged (R264). -/
def logLoses (s : State) : Bool :=
  match s.rel.log[4095]? with
  | some o => !logAcked s.rel.logAck o.seq
  | none => false

/-- Writes a record into the ring (R264). -/
def logWrite (s : State) (r : LogRec) : State :=
  let lost : Bool := logLoses s
  let r := { r with seq := s.rel.logNext, time := devTime s, flags := if lost then r.flags ||| 8 else r.flags }
  let s := { s with rel := { s.rel with
    log := r :: s.rel.log.take 4095, logNext := s.rel.logNext + 1,
    fatalDue := if r.sev == 3 then (r :: s.rel.fatalDue).take 64 else s.rel.fatalDue,
    logLost := if lost then s.rel.logLost + 1 else s.rel.logLost } }
  let s := mirrorLog s r
  if lost then raise s 0x309 164 [] else s

/-- Logs a record, under the limit of R265 for severities 0 and 1 of a stack. -/
def logRec (s : State) (r : LogRec) : State :=
  if 2 ≤ r.sev.toNat ∨ r.stack = 0xFF then logWrite s r else
  let sec := BitVec.ofNat 64 ((devTime s).toNat / 1000000000)
  let cnt := if s.rel.logSec == sec then s.rel.logCount else []
  let n := tget 0 cnt r.stack.toNat
  let tk := r.type.toNat * 8 + r.stack.toNat
  let t := tget 0 s.rel.logTally tk
  if n < s.rel.logLimit.toNat then
    let s := { s with rel := { s.rel with logSec := sec, logCount := tput 0 cnt r.stack.toNat (n + 1),
                                          logTally := tput 0 s.rel.logTally tk 0 } }
    logWrite s { r with count := BitVec.ofNat 16 (min t 0xFFFF) }
  else { s with rel := { s.rel with logSec := sec, logCount := cnt, logTally := tput 0 s.rel.logTally tk (t + 1) } }

/-- Logs poison that a partner sent (Table 9-7: source 0 expander, 1 host, 2 peer). -/
def notePoison (s : State) (src island : Nat) (sa : SA) : State :=
  logRec s { LogRec.init with type := 0x0D, sev := 2, unit := 4, island := BitVec.ofNat 16 island, addr := sa.setWidth 64,
                              detail := BitVec.ofNat 64 src }

-- ===== containment and halt (R272, R273 step 1, R371) =====

def setStage (s : State) (st : Stage) (k : Nat) : State :=
  { s with dev := { s.dev with stage := st, entry := tput 0 s.dev.entry k s.now } }

/-- Start-up ends in HALTED with `cause`; in board mode FAIL tells the domain, and formation has failed here too (R346, R371). -/
def halt (s : State) (cause : Nat) : State :=
  let s := setStage s .halted 8
  let s := { s with dev := { s.dev with haltCause := BitVec.ofNat 8 cause } }
  let s := raise s 0x380 164 [(1, cause)]
  if boardMode s then
    let s := (List.range 14).foldl (fun s l =>
      if (plinkOf s l).checked && !(plinkOf s l).cross then ctlOut s l 7 [6] else s) s
    if s.peer.form == .failed then s else raise { s with peer := { s.peer with form := .failed, cause := 6 } } 0x341 164 [(1, 6)]
  else s

/-- The stages before MEMORY_ACTIVE. -/
def starting (s : State) : Bool :=
  match s.dev.stage with
  | .power | .rom | .firmware | .config | .memory | .localReady => true
  | _ => false

def presented (s : State) : Bool := s.dev.stage == .memoryActive

-- ===== descriptors (Tables 7-5, 7-6) =====

def opNop : Byte := 0
def opCopy : Byte := 1
def opFill : Byte := 2
def opCheck : Byte := 3
def opFlush : Byte := 4
def opPrefetch : Byte := 5
def opAtomic : Byte := 6
def opReserve : Byte := 7
def opCondstore : Byte := 8
def opFence : Byte := 9
def opMigrate : Byte := 10

/-- The SIZE of an ATOMIC, RESERVE or CONDSTORE in bytes. -/
def opSize (d : Desc) : Nat := if d.subop.getLsbD 2 then 8 else 4

/-- The job offsets a job's steps cover (R206). -/
def jobTotal (d : Desc) : Nat :=
  if d.opcode = opNop || d.opcode = opFence then 0
  else if d.opcode = opAtomic || d.opcode = opReserve || d.opcode = opCondstore then 1
  else d.len.toNat

def isCopy (d : Desc) : Bool := d.opcode == opCopy || d.opcode == opMigrate

/-- The first byte of the destination of a job that stores. -/
def dstOf (d : Desc) : Nat := if isCopy d then d.b.toNat else d.a.toNat

/-- The last job offset of a step, plus one. -/
def stepEnd (t : StepRec) : Nat := t.cursor.toNat + t.remain.toNat

/-- The job offsets of a line of the range that starts at `start`, cut to [lo, hi). -/
def lineOffs (start line lo hi : Nat) : Nat × Nat := (max lo (line - start), min hi (line + 64 - start))

/-- The bytes of [lo, hi) that no range of the list holds. -/
def uncovered : List (Nat × Nat) → Nat → Nat → Nat
  | [], lo, hi => hi - lo
  | (a, b) :: t, lo, hi =>
    if hi ≤ a || b ≤ lo then uncovered t lo hi
    else (if lo < a then uncovered t lo a else 0) + (if b < hi then uncovered t b hi else 0)

-- ===== containment and halt: what they do =====

def clearResv (s : State) (cause : Nat) (p : Resv → Bool) (b : Nat) : State :=
  let bs := tget BenchS.init s.cache.bench b
  let lost := (bs.resv.filter p).length
  if lost = 0 then s else
  let s := { s with
    cache := { s.cache with bench := tput BenchS.init s.cache.bench b { bs with resv := bs.resv.filter (fun r => !p r) } }
    job := { s.job with lost := tmod 0 s.job.lost cause (· + BitVec.ofNat 64 lost) } }
  countBench s (BitVec.ofNat 8 b) 0x023 0

/-- Step records that wait or travel: in deques, in pending lists, in steals, and at the job front end. -/
def waitingSteps (s : State) : List StepRec :=
  s.cache.bench.flatMap (fun p => p.2.deque ++ p.2.pending ++ p.2.incoming.map (·.1)) ++ s.job.conts.map (·.2)

/-- The steps of a job among `l`. -/
def stepsOf (x : Job) (l : List StepRec) : List StepRec :=
  l.filter (fun t => t.kind == .job && t.queue == x.q && t.jobseq == x.j)

/-- A fetched job as containment leaves it: it ends with ABORTED, its discarded steps end with their ranges not done (R190,
R213, R214). -/
def abortJob (l : List StepRec) (x : Job) : Job :=
  if x.recording then x else
  { x with aborted := true, open_ := x.open_ - (stepsOf x l).length
           undone := x.undone ++ (stepsOf x l).map (fun t => (t.cursor.toNat, stepEnd t)) }

/-- What containment does to the haul work of every bench (R190, R223 cause 5). -/
def dropHaul (s : State) : State :=
  let s := s.cache.bench.foldl (fun s p => clearResv s 5 (fun _ => true) p.1) s
  { s with
    cache := { s.cache with bench := s.cache.bench.map (fun p => (p.1, { p.2 with
      deque := [], pending := [], incoming := [], ckWait := none
      running := p.2.running.map (fun r => { r with stop := true }) })) }
    job := { s.job with jobs := s.job.jobs.map (abortJob (waitingSteps s)), conts := [], stealing := [] } }

/-- Marks everything in flight as touched by a fault (R159): requests, responses, and transactions at peers. -/
def excuseAll (s : State) : State :=
  { s with
    cache := { s.cache with reqs := s.cache.reqs.map (fun r => { r with causeFault := true }) }
    port := { s.port with resp := s.port.resp.map (fun v => { v with fault := true }) }
    peer := { s.peer with txns := s.peer.txns.map (fun x => { x with fault := true }) } }

/-- Entry into containment for `cause` (R272, R273 step 1). Before MEMORY_ACTIVE the cause ends start-up instead (R371). -/
def contain (s : State) (cause island : Nat) : State :=
  if starting s then halt s cause else if !presented s then s else
  let s := setStage s .containment 7
  let s := { s with rel := { s.rel with
    cphase := .stop, cause := BitVec.ofNat 8 cause, entered := s.now, resWritten := 0, resLost := 0, resSkipped := 0,
    resDiscarded := 0, flip := s.rel.flip.map (fun p => (p.1, { p.2 with arm := false })) } }
  let s := (List.range 14).foldl (fun s l =>
      if (plinkOf s l).checked && !(plinkOf s l).cross then ctlOut s l 0x10 [] else s) s
  let s := dropHaul (excuseAll s)
  let s := logRec s { LogRec.init with type := 0x11, sev := 3, unit := 5, island := BitVec.ofNat 16 island,
                                       detail := BitVec.ofNat 64 cause, flags := 16 }
  raise s 0x311 164 [(1, cause)]

-- ===== the poison list (R262) =====

def poisonAdd (s : State) (sa : SA) : State :=
  let sa := lineSa sa
  if s.rel.poison.contains sa then s
  else if 4096 ≤ s.rel.poison.length then
    let s := { s with rel := { s.rel with poisonOver := true } }
    raise s 0x308 164 []
  else { s with rel := { s.rel with poison := s.rel.poison ++ [sa] } }

def poisonDel (s : State) (sa : SA) : State :=
  { s with rel := { s.rel with poison := s.rel.poison.filter (· != lineSa sa) } }

-- ===== codewords (R248 to R255, R266) =====

/-- R249: the codeword address of a data sector. -/
def dataCw (b : Bench) (ls : BitVec 15) (w sec : Nat) : Nat :=
  let bi := b.toNat % 32
  let ch := ls.toNat % 32
  let bank := ((ls.toNat / 32) % 16) ^^^ w
  let row := bi * 2048 + (ls.toNat / 32) * 2 + sec / 32
  ch * 2 ^ 26 + bank * 2 ^ 22 + row * 32 + sec % 32

/-- R250: the codeword address of metadata slot `m` of a set. -/
def metaCw (b : Bench) (ls : BitVec 15) (m : Nat) : Nat :=
  let q := ((b.toNat % 32) * 1024 + ls.toNat / 32) * 5 + m
  (ls.toNat % 32) * 2 ^ 26 + (q % 16) * 2 ^ 22 + (65536 + q / 16 / 32) * 32 + (q / 16) % 32

/-- Key of the remap table: stack, channel, bank and row of a codeword address. -/
def rowKey (st cw : Nat) : Nat := (st * 512 + cw / 2 ^ 22) * 2 ^ 17 + (cw / 32) % 2 ^ 17

/-- The row that replaces a row, by one step of the remap table (R268). -/
def mapRow (s : State) (st cw : Nat) : Nat :=
  match s.rel.remap.find? (fun p => p.1 == rowKey st cw) with
  | some p => (cw / 2 ^ 22) * 2 ^ 22 + p.2.toNat * 32 + cw % 32
  | none => cw

/-- The codeword as the controller stores it: in the spare row that replaces its row, which may itself have been remapped
before it came into use (R268). -/
def physCw (s : State) (st cw : Nat) : Nat := st * 2 ^ 31 + mapRow s st (mapRow s st cw)

def cwOf (s : State) (k : Nat) : Codeword := tget Codeword.init s.rel.array k

/-- The devices an error pattern touches. -/
def devsHit (e : BitVec 560) : List Nat := (List.range 35).filter (fun i => ((e >>> (16 * i)).setWidth 16 : BitVec 16) != 0)

/-- The symbols a set-head codeword uses (R250). -/
def headMask : BitVec 560 := (0xFFFFFFFFFFFF : BitVec 560) <<< 512 ||| (BitVec.allOnes 256).setWidth 560

/-- The check symbols of the poison codeword (R254). -/
def poisonErr : BitVec 560 := (0x7F4A79B99E37 : BitVec 560) <<< 512

/-- What a stored codeword differs in from the encoding of its payload; the poison codeword's payload is 0 (R254). -/
def errOf (head : Bool) (c : Codeword) : BitVec 560 :=
  (if c.poison then c.err ^^^ poisonErr else c.err) &&& (if head then headMask else BitVec.allOnes 560)

/-- The outcome that locates one failed device (Table 9-2). -/
def located (d : Nat) : Outcome2 := if d < 32 then .corrected d else .checkOnly d

/-- The devices that a codeword has: a set head has 19 (R250, R251). -/
def devices (head : Bool) : List Nat := (List.range 35).filter (fun d => !head || d < 16 || 32 ≤ d)

/-- The outcome of an error spread over the devices `l`, three or more: the location of a device that did not fail, POISON or
UNCORRECTABLE (R251). -/
def spreadOutcome (head : Bool) (l : List Nat) (e : BitVec 560) : Outcome2 :=
  let free := (devices head).filter (fun d => !l.contains d)
  let n := Config.multiOutcome e % (free.length + 2)
  match free[n]? with
  | some d => located d
  | none => if n = free.length then .poison else .uncorrectable

/-- The outcome of a read of a codeword (R251, R252, R254); `head` says it is a set head. -/
def decodeAs (head : Bool) (c : Codeword) : Outcome2 :=
  let e := errOf head c
  if e = 0 then .clean
  else if e = poisonErr then .poison
  else match devsHit e, devsHit (e ^^^ poisonErr) with
    | [d], _ => located d
    | _, [_] => if Config.poisonExtra (e ^^^ poisonErr) then .uncorrectable else .poison
    | [_, _], _ => .uncorrectable
    | l, _ => spreadOutcome head l e

/-- A data sector's or a map's codeword. -/
def decode (c : Codeword) : Outcome2 := decodeAs false c

/-- The payload a read delivers: as stored, corrected, or what a miscorrection makes of it (R251, R252). -/
def payloadAs (head : Bool) (c : Codeword) : Line :=
  let e := errOf head c
  let base := if c.poison then 0 else c.data
  match decodeAs head c with
  | .corrected _ => if (devsHit e).length ≤ 1 then base else Config.multiPayload e base
  | _ => base ^^^ e.setWidth 512

def payload (c : Codeword) : Line := payloadAs false c

def flipOf (s : State) (st : Nat) : HbcFlip := tget HbcFlip.init s.rel.flip st

/-- Stores a codeword, with the armed flip mask when `hit` says the selection matches (R266); a hard fault comes back. -/
def cwWrite (s : State) (st cw : Nat) (data : Line) (poison hit : Bool) (tgt : Nat) (dla : DLA) : State :=
  let k := physCw s st cw
  let old := cwOf s k
  let f := flipOf s st
  let hit := hit && f.arm
  let c : Codeword := { data := if poison then 0 else data, poison := poison, err := old.fault ^^^ (if hit then f.mask else 0),
                        injected := hit, fault := old.fault }
  let s := { s with rel := { s.rel with array := tput Codeword.init s.rel.array k c } }
  if hit then
    let f := { f with arm := false, done := true, count := f.count + 1 }
    let s := { s with rel := { s.rel with flip := tput HbcFlip.init s.rel.flip st f } }
    raise s 0x307 (144 + st) [(1, 0), (1, st), (2, 0xFFFF), (1, tgt), (1, 0), (1, 0), (1, 0), (4, cw), (4, 0), (8, dla.toNat)]
  else s

/-- The selection of a stack's flip mask names a write of the data sector of line `o`; none: a sector that holds no line
(R266). -/
def dataHit (s : State) (st : Nat) (o : Option DLA) : Bool :=
  let f := flipOf s st
  !f.meta_ && (!f.match_ || (match o with
    | some dla => lineAddr f.dla == lineAddr dla
    | none => false))

/-- The selection names a write of metadata slot `m` of a set (R266). -/
def metaHit (s : State) (b : Bench) (ls : BitVec 15) (m : Nat) : Bool :=
  let f := flipOf s (stackOf b).toNat
  f.meta_ && f.msel.toNat == m && benchOfDla f.dla == b && lsOfDla f.dla == ls

/-- Writes a data sector (R249, R266). -/
def sectorWrite (s : State) (dla : DLA) (w : Nat) (data : Line) (poison : Bool) : State :=
  let b := benchOfDla dla
  cwWrite s (stackOf b).toNat (dataCw b (lsOfDla dla) w (secOfDla dla)) data poison
    (dataHit s (stackOf b).toNat (some dla)) 0 (lineAddr dla)

/-- Writes metadata slot `m` of a set (R250, R266); its payload is the tag records, which Tab tags holds. -/
def metaWrite (s : State) (b : Bench) (ls : BitVec 15) (m : Nat) : State :=
  let st := (stackOf b).toNat
  let k := physCw s st (metaCw b ls m)
  let hit := (flipOf s st).arm && metaHit s b ls m
  if !hit && tget Codeword.init s.rel.array k == Codeword.init then s
  else cwWrite s st (metaCw b ls m) 0 false hit 1 (dlaOfBlk (blkOf b ls 0) 0)

def outcomeCount (s : State) (st k : Nat) : State :=
  { s with rel := { s.rel with outcomes := tinc s.rel.outcomes (st * 6 + k) } }

/-- The fields every record of a codeword carries. -/
def cwRec (s : State) (b : Bench) (ls : BitVec 15) (w cw : Nat) (c : Codeword) (dla : DLA) (scrub : Bool) : LogRec :=
  { LogRec.init with
    island := BitVec.ofNat 16 (stackIsland (stackOf b)), loc := BitVec.ofNat 32 cw, addr := (saOf s dla).setWidth 64,
    dla := dla.setWidth 64, stack := (stackOf b).setWidth 8, bench := b.setWidth 16,
    setway := BitVec.ofNat 32 (ls.toNat * 16 + w),
    flags := (if scrub then 2 else 0) ||| (if c.injected then 4 else 0),
    syndrome := Config.syndrome (errOf false c) }

/-- Counts and logs a CORRECTED or CHECK-ONLY data read (R253, Table 9-7). -/
def noteCorrected (s : State) (b : Bench) (r : LogRec) (o : Outcome2) (meta_ : Bool) (m : Nat) : State :=
  match o with
  | .corrected d =>
    let s := outcomeCount s (stackOf b).toNat 0
    let s := if meta_ then { s with rel := { s.rel with metaCorrected := s.rel.metaCorrected + 1 } } else s
    let s := logRec s { r with type := if meta_ then 7 else 1, sev := 0, unit := if meta_ then 1 else 0,
                               device := BitVec.ofNat 8 d, detail := if meta_ then BitVec.ofNat 64 m else 0 }
    raiseFirst s 0x300 (stackIsland (stackOf b)) []
  | .checkOnly d =>
    let s := outcomeCount s (stackOf b).toNat 1
    let s := logRec s { r with type := if meta_ then 0x16 else 2, sev := 1, unit := if meta_ then 1 else 0,
                               device := BitVec.ofNat 8 d, detail := if meta_ then BitVec.ofNat 64 m else 0 }
    raiseFirst s 0x301 (stackIsland (stackOf b)) []
  | _ => s

-- ===== tag records (R62 to R67, R256, R267) =====

/-- A block tag record; every way of a retired stack is retired, but for orphans (R271). -/
def tagAt (s : State) (k : Nat) : TagRec :=
  let t := tget TagRec.init s.cache.tags k
  if s.rel.retired.getLsbD (stackOf (benchOfKey k)).toNat && t.state != .orphan then { TagRec.init with state := .retired } else t

/-- R63 -/
def TagRec.consistent (t : TagRec) : Bool :=
  (t.dirty &&& ~~~t.valid) == 0 &&
  (!(t.state == .invalid || t.state == .retired) || (t.valid == 0 && t.dirty == 0 && t.rank == 0 && !t.ru && !t.dm))

def b2n (b : Bool) : Nat := if b then 1 else 0

/-- Bits [143:0] of a block tag record (Table 3-1). -/
def tagBits (t : TagRec) : Nat :=
  let st := match t.state with
    | .invalid => 0 | .valid => 1 | .orphan => 2 | .retired => 3
  t.tag.toNat + st * 2 ^ 10 + t.rank.toNat * 2 ^ 12 + b2n t.ru * 2 ^ 14 + b2n t.dm * 2 ^ 15 + t.valid.toNat * 2 ^ 16 + t.dirty.toNat * 2 ^ 80

/-- The log record of a bad record of the tag cache (Table 9-6). -/
def tagLog (s : State) (k : Nat) : LogRec :=
  let b := benchOfKey k
  let dla := dlaOfBlk (blkOf b (lsOfKey k) (tagAt s k).tag) 0
  { LogRec.init with
    sev := 3, unit := 1, island := BitVec.ofNat 16 (tagIsland b), loc := BitVec.ofNat 32 (metaCw b (lsOfKey k) 0),
    addr := (saOf s dla).setWidth 64, dla := dla.setWidth 64, stack := (stackOf b).setWidth 8, bench := b.setWidth 16,
    setway := BitVec.ofNat 32 (k % 524288) }

/-- The way that holds a block, if one does (R65). -/
def findWay (s : State) (b : Bench) (ls : BitVec 15) (tag : BitVec 10) : Option Nat :=
  (List.range 16).find? (fun w =>
    let t := tagAt s (tagKey b ls w)
    (t.state == .valid || t.state == .orphan) && t.tag == tag)
def wayOfDla (s : State) (dla : DLA) : Option Nat := findWay s (benchOfDla dla) (lsOfDla dla) (tagOfDla dla)

/-- A record leaves the tag cache: its read is checked, and its maps and head word are written back (R64). -/
def tagDrop (s : State) (k : Nat) : State :=
  let b := benchOfKey k
  if 2 ≤ popCount (tget 0 s.rel.tagErr k) then
    let s := logRec s { tagLog s k with type := 9 }
    contain s 1 (tagIsland b)
  else
    let s := { s with rel := { s.rel with tagErr := tput 0 s.rel.tagErr k 0 } }
    metaWrite (metaWrite s b (lsOfKey k) 0) b (lsOfKey k) (1 + (k % 16) / 4)

/-- Makes a record resident and most recently used; the least recently used record that shares its index leaves when
the index is full (R64). -/
def tagInstall (s : State) (k : Nat) : State :=
  if s.cache.resident.contains k then
    { s with cache := { s.cache with resident := k :: s.cache.resident.filter (· != k) } }
  else
    let same := s.cache.resident.filter (fun r => quadrantOf (benchOfKey r) == quadrantOf (benchOfKey k))
    if same.length < 16 then { s with cache := { s.cache with resident := k :: s.cache.resident } }
    else
      let sharing := same.filter (fun r => Config.tagIndex (r / 16) == Config.tagIndex (k / 16))
      let victims := if 16 + Config.tagExtra (Config.tagIndex (k / 16)) ≤ sharing.length then sharing
                     else if 1631118 ≤ same.length then same else []
      match victims.getLast? with
      | none => { s with cache := { s.cache with resident := k :: s.cache.resident } }
      | some v =>
        let s := { s with cache := { s.cache with resident := k :: s.cache.resident.filter (· != v) } }
        tagDrop s v

/-- The flipped bits after a write of an entry or record: those of an armed mask, else those it held where they are more
than one, since only a read shows them (R256, R267). -/
def flipOver {n : Nat} (old : BitVec n) (flip : Bool) (mask : BitVec n) : BitVec n :=
  if flip then mask else if 2 ≤ popCount old then old else 0

/-- A record in the table, and the list of orphans with it. -/
def storeTag (s : State) (k : Nat) (t : TagRec) : State :=
  { s with cache := { s.cache with
      tags := tput TagRec.init s.cache.tags k t
      orphans := if t.state == .orphan then (if s.cache.orphans.contains k then s.cache.orphans else s.cache.orphans ++ [k])
                 else s.cache.orphans.filter (· != k) } }

/-- Writes a record: the table, the list of orphans, residency, the write-through of a change of TAG or STATE to the set
head (R64), and an armed bench flip mask (R267). -/
def tagPut (s : State) (k : Nat) (t : TagRec) : State :=
  let b := benchOfKey k
  let old := tagAt s k
  let bs := benchOf s b
  let flip := bs.flipArm && bs.flipTgt == 1
  let s := storeTag s k t
  let s := { s with rel := { s.rel with tagErr := tput 0 s.rel.tagErr k (flipOver (tget 0 s.rel.tagErr k) flip bs.flipMask) } }
  let s := if flip then
      raise (setBench s b { bs with flipArm := false, flipDone := true }) 0x307 (clusterIsland b)
        [(1, 1), (1, 0xFF), (2, b.toNat), (1, 1), (1, 0), (1, 0), (1, 0), (4, k % 524288), (4, 0),
         (8, (dlaOfBlk (blkOf b (lsOfKey k) t.tag) 0).toNat)]
    else s
  let s := tagInstall s k
  if old.tag == t.tag && old.state == t.state then s else metaWrite s b (lsOfKey k) 0

/-- Reads a record through its checks (R63, R256): false when the read led to containment. -/
def tagCheck (s : State) (k : Nat) : State × Bool :=
  let b := benchOfKey k
  let t := tagAt s k
  if 2 ≤ popCount (tget 0 s.rel.tagErr k) then (tagDrop s k, false)
  else if !TagRec.consistent t then
    let s := logRec s { tagLog s k with type := 0x0B, detail := BitVec.ofNat 64 (tagBits t) }
    (contain s 2 (clusterIsland b), false)
  else (s, true)

/-- A tag record of 144 bits (Table 3-1). -/
def tagOfBits (n : Nat) : TagRec :=
  { tag := BitVec.ofNat 10 n, state := (match n / 2 ^ 10 % 4 with
      | 0 => .invalid | 1 => .valid | 2 => .orphan | _ => .retired), rank := BitVec.ofNat 2 (n / 2 ^ 12),
    ru := n.testBit 14, dm := n.testBit 15, valid := BitVec.ofNat 64 (n / 2 ^ 16), dirty := BitVec.ofNat 64 (n / 2 ^ 80) }

/-- The bits of the record of way `w` that a difference `x` of the payload of metadata slot `m` changes (R62, R250). -/
def metaDiff (m w : Nat) (x : Line) : Nat :=
  if m = 0 then (x.toNat >>> (16 * w)) % 2 ^ 16
  else if w / 4 + 1 = m then ((x.toNat >>> (128 * (w % 4))) % 2 ^ 128) * 2 ^ 16
  else 0

/-- What the read of metadata slot `m` of a set delivers is what its records hold from here on, but for those in the tag cache:
where the codeword was miscorrected, that is a wrong payload (R65, R251). -/
def deliverMeta (s : State) (b : Bench) (ls : BitVec 15) (m : Nat) : State :=
  let k := physCw s (stackOf b).toNat (metaCw b ls m)
  let c := cwOf s k
  let got := payloadAs (m == 0) { c with data := 0 }
  let x := c.data ^^^ got
  if x = 0 then s else
  let s := { s with rel := { s.rel with array := tput Codeword.init s.rel.array k { c with data := got } } }
  (List.range 16).foldl (fun s w =>
    let key := tagKey b ls w
    if s.cache.resident.contains key || metaDiff m w x = 0 then s
    else storeTag s key (tagOfBits (tagBits (tagAt s key) ^^^ metaDiff m w x))) s

/-- Reads metadata slot `m` of a set from HBM (Table 9-3): false when the read led to containment. -/
def metaReadAs (scrub : Bool) (s : State) (b : Bench) (ls : BitVec 15) (m : Nat) : State × Bool :=
  let cw := metaCw b ls m
  let c := cwOf s (physCw s (stackOf b).toNat cw)
  let r := { cwRec s b ls 0 cw c (dlaOfBlk (blkOf b ls 0) 0) scrub with
    flags := (if c.injected then 4 else 0) ||| (if scrub then 18 else 16), syndrome := Config.syndrome (errOf (m == 0) c) }
  match decodeAs (m == 0) c with
  | .clean => (deliverMeta s b ls m, true)
  | .corrected d => (deliverMeta (noteCorrected s b r (.corrected d) true m) b ls m, true)
  | .checkOnly d => (deliverMeta (noteCorrected s b r (.checkOnly d) true m) b ls m, true)
  | _ =>
    let s := outcomeCount s (stackOf b).toNat 2
    let s := logRec s { r with type := 8, sev := 3, unit := 1, detail := BitVec.ofNat 64 m }
    (contain s 1 (stackIsland (stackOf b)), false)

/-- A read of metadata for a lookup. -/
def metaRead (s : State) (b : Bench) (ls : BitVec 15) (m : Nat) : State × Bool := metaReadAs false s b ls m

/-- No check between the two states has led to containment or a halt. -/
def stood (s t : State) : Bool := t.dev.stage == s.dev.stage

/-- A lookup returns every resident record of the set, each read through its checks (R64); false when one led to containment. -/
def residentCheck (s : State) (b : Bench) (ls : BitVec 15) : State × Bool :=
  (List.range 16).foldl (fun (a : State × Bool) w =>
    if a.2 && a.1.cache.resident.contains (tagKey b ls w) then tagCheck a.1 (tagKey b ls w) else a) (s, true)

/-- A record is used: it is read through its checks where it is resident; else its map is read from HBM and it is installed
(R64, R65). False when that led to containment. -/
def recRead (s : State) (b : Bench) (ls : BitVec 15) (w : Nat) : State × Bool :=
  let k := tagKey b ls w
  if s.cache.resident.contains k then tagCheck s k
  else match metaRead s b ls (1 + w / 4) with
    | (t, false) => (t, false)
    | (t, true) =>
      let t := tagInstall t k
      let (u, ok) := tagCheck t k
      (u, ok && stood s t)

/-- A whole set is read for an operation that is no request: the resident records, and the set head from HBM unless every
record is resident (R64, R65). -/
def setRead (s : State) (b : Bench) (ls : BitVec 15) : State × Bool :=
  match residentCheck s b ls with
  | (s, false) => (s, false)
  | (s, true) =>
    if (List.range 16).all (fun w => s.cache.resident.contains (tagKey b ls w)) then (s, true) else metaRead s b ls 0

-- ===== reading a data sector (R251 to R255) =====

/-- A poison codeword is written for a dirty or orphan sector (Table 9-3, R262). -/
def poisonSector (s : State) (dla : DLA) (w : Nat) (r : LogRec) (who : Nat) : State :=
  let s := sectorWrite s dla w 0 true
  let s := poisonAdd s (saOf s dla)
  let s := outcomeCount s (stackOf (benchOfDla dla)).toNat 2
  let s := logRec s { r with type := 3, sev := 2, unit := 0, detail := BitVec.ofNat 64 who }
  raise s 0x302 (stackIsland (stackOf (benchOfDla dla))) [(8, (saOf s dla).toNat), (8, dla.toNat)]

/-- Reads a valid sector of way `w` for a reader (Table 9-3); `who` is the DETAIL of DATA_POISONED. -/
def sectorReadAs (scrub : Bool) (s : State) (dla : DLA) (w : Nat) (who : Nat) : State × SectorRes :=
  let b := benchOfDla dla
  let ls := lsOfDla dla
  let k := tagKey b ls w
  let t := tagAt s k
  let cw := dataCw b ls w (secOfDla dla)
  let c := cwOf s (physCw s (stackOf b).toNat cw)
  let r := cwRec s b ls w cw c (lineAddr dla) scrub
  match decode c with
  | .clean => (s, .data (payload c))
  | .corrected d => (noteCorrected s b r (.corrected d) false 0, .data (payload c))
  | .checkOnly d => (noteCorrected s b r (.checkOnly d) false 0, .data (payload c))
  | .poison => (outcomeCount s (stackOf b).toNat 2, .poison)
  | .uncorrectable =>
    let dirty := t.dirty.getLsbD (secOfDla dla)
    let lost := match retainedAt s dla with
      | some (win, _) => (winOf s win).state != .enabled && (winOf s win).state != .draining
      | none => true
    if dirty || t.state == .orphan || lost then (poisonSector s dla w r who, .poison)
    else
      let s := tagPut s k { t with valid := t.valid &&& ~~~(bit (secOfDla dla)) }
      let s := outcomeCount s (stackOf b).toNat 3
      (logRec s { r with type := 4, sev := 2, unit := 0 }, .refetch)

/-- A read of a valid sector for a requester. -/
def sectorRead (s : State) (dla : DLA) (w : Nat) (who : Nat) : State × SectorRes := sectorReadAs false s dla w who

-- ===== expander requests (R70, R78, R82, R314) =====

/-- What leaves the lead port for an expander request. -/
def xOut (r : XReq) : Out := if r.write then .xwrite r.xl r.rid r.dpa r.data r.be r.poison else .xread r.xl r.rid r.dpa

/-- Sends a request to an expander; its number is the `nextX` before. It is held while the port takes nothing (R15). -/
def xsend (s : State) (x : XLink) (write : Bool) (dla : DLA) (sa : SA) (dpa : BitVec 64) (data : Line) (be : BitVec 64)
    (poison : Bool) (p : XPurpose) : State :=
  let r : XReq :=
    { rid := s.cache.nextX, xl := x, write := write, dpa := dpa, dla := dla, sa := sa, data := data, be := be, poison := poison,
      issued := s.now, tries := 0, purpose := p, sent := !portHeld s (xPort s x) }
  let s := { s with cache := { s.cache with nextX := s.cache.nextX + 1, xreqs := s.cache.xreqs ++ [r] } }
  let s := countDev s 0x10B 0
  if r.sent then emit s (xOut r) else s

def xdrop (s : State) (rid : Nat) : State :=
  { s with cache := { s.cache with xreqs := s.cache.xreqs.filter (fun r => r.rid != rid) } }

-- ===== the privileged ring (R485) =====

/-- A ring write was refused: the ring is disabled (R485); once the fuse is blown there is none (R488). -/
def ringRefused (s : State) (sa : SA) (st : DStatus) : State :=
  if s.obs.seam.fuse then s else
  let s := { s with obs := { s.obs with seam := { s.obs.seam with ringOn := false } } }
  raise s 0x3F3 166 [(8, sa.toNat), (1, statusCode st)]

/-- How a refusal of a management access is reported (Table 2-11). -/
def mgmtStatus : Option JStatus → DStatus
  | none => .ok
  | some .rights => .access
  | some _ => .range

-- ===== reports to the contract unit (R165) =====

def capChange (s : State) (c : PassCause) : State :=
  { s with contract := { s.contract with passes := s.contract.passes ++ [c] } }

/-- A change of an auto-persisted object that no commit carries yet (R270). -/
def persistChange (s : State) : State :=
  match s.rel.persistSince with
  | some _ => s
  | none => { s with rel := { s.rel with persistSince := some s.now } }

-- ===== the mailbox (R318, R461) =====

/-- A mailbox command completes: its reply, and the completion interrupt through entry 0; lost where its member has gone down
(R415). -/
def mboxReply (s : State) (l : HLink) (m : BitVec 2) (code : BitVec 16) (payload : List Byte) : State :=
  if memberGone s l m then s else
  let s := setFn s l m { fnOf s l m with reply := payload }
  msix (emit s (.mailbox l m code payload)) l m 0

/-- The return code of a poison command: Success, Invalid Physical Address, Invalid Input (CXL; log entry 26). -/
def poisonCode : Option JStatus → BitVec 16
  | none => 0
  | some .unmapped => 0x000F
  | some _ => 0x0002

/-- The completion of a write that a management accessor made, with its status. -/
def status (s : State) (acc : Accessor) (st : DStatus) (v : List Byte) : State := emit s (.status acc st v)

end Sys2Proof.Machine
end

