-- ==== Sys2Proof/Machine/Operands.lean ====
section
/-!
DEFINITION. The operand forms of an access: the board address of a host message, the rights an access needs, what it
marks, its class, its bounds and deadline, and the socket and link a snoop goes to.
-/

namespace Sys2Proof.Machine

-- ===== host physical addresses (R27, R292) =====

def hdmOf (s : State) (l : HLink) (i : Nat) : Hdm := tget Hdm.init (hlinkOf s l).hdm i

/-- dpabase[i] of R292. -/
def dpaBase (s : State) (l : HLink) : Nat → Nat
  | 0 => (hdmOf s l 0).skip.toNat
  | i + 1 => dpaBase s l i + (hdmOf s l i).size.toNat + (hdmOf s l (i + 1)).skip.toNat

/-- The device physical address of a host physical address (R292); none: no committed decoder. -/
def dpaOfHpa (s : State) (l : HLink) (hpa : BitVec 64) : Option Nat :=
  ((List.range 4).find? (fun i =>
    let d := hdmOf s l i
    d.committed && d.base.toNat ≤ hpa.toNat && hpa.toNat < d.base.toNat + d.size.toNat)).map
    (fun i => dpaBase s l i + (hpa.toNat - (hdmOf s l i).base.toNat))

/-- The board system address a host message names (R27); none: outside the home map. -/
def saOfMsg (s : State) (m : HostMsg) : Option SA :=
  match dpaOfHpa s m.link m.hpa with
  | some d => if d < 2 ^ 48 then some (BitVec.ofNat 48 d) else none
  | none => none

/-- The decoder of a link that covers a board system address, and the host physical address it gives back (R294). -/
def coverOf (s : State) (l : HLink) (sa : SA) : Option (Hdm × Nat) :=
  ((List.range 4).find? (fun i =>
    let d := hdmOf s l i
    d.committed && dpaBase s l i ≤ sa.toNat && sa.toNat < dpaBase s l i + d.size.toNat)).map
    (fun i => (hdmOf s l i, (hdmOf s l i).base.toNat + (sa.toNat - dpaBase s l i)))

/-- The snoop link of a host socket for a line (R102). -/
def snoopLink (s : State) (hs : HostSock) (sa : SA) : Option HLink :=
  ((List.range 8).find? (fun l =>
    let l := BitVec.ofNat 3 l
    (hlinkOf s l).hsock == hs && hostUp s l && (coverOf s l sa).isSome)).map (BitVec.ofNat 3 ·)

/-- The member a BISnp leaves on (R294). -/
def snoopMember (s : State) (l : HLink) (sa : SA) : BitVec 2 :=
  let want := match coverOf s l sa with
    | some (d, hpa) => (hpa / 2 ^ (8 + d.ig.toNat)) % (if d.iw = 0 then 1 else d.iw.toNat)
    | none => 0
  let m := BitVec.ofNat 2 want
  if memberUp s l m then m
  else match (membersOf s l).find? (fun t => portUp s t.2) with
    | some t => BitVec.ofNat 2 t.1
    | none => m

/-- The device a host socket attaches to (R102). -/
def attachOf (s : State) (hs : HostSock) : DevId :=
  if standalone s then devId s else (tget ((devId s), (0 : BitVec 8)) s.snoop.attach hs.toNat).1

-- ===== rights and marks (R42, R46) =====

/-- Whether the operation reads and whether it writes, for the rights of Table 2-10 (log entry 20). -/
def needs : ReqOp → Bool × Bool
  | .memRd .a => (true, true)
  | .memRd _ | .memRdData | .memSpecRd => (true, false)
  | .memInv .a => (false, true)
  | .memInv _ | .memClnEvct => (false, false)
  | .memWr _ | .memWrPtl _ => (false, true)
  | .ncRead => (true, false)
  | .ncWrite | .ncWritePtl => (false, true)
  | .atomic .. => (true, true)
  | .reserve .. => (true, false)
  | .condstore .. => (false, true)
  | .flushLine _ | .prefetchLine _ => (true, false)
  | .migrateRelease | .invalidateBlock _ => (false, false)

/-- Table 2-10 -/
def rightsOk (v : Win) (k : RqKind) (op : ReqOp) : Bool :=
  let n := needs op
  let rw := (!n.1 || v.r) && (!n.2 || v.w)
  match k with
  | .hostSocket | .management => rw
  | .userQueue => rw && v.u
  | .supervisorQueue => rw && v.s
  | .chainUser => v.x && v.u
  | .chainSupervisor => v.x && v.s
  | .deviceWork => true

/-- The marking writes of R46. -/
def marking : ReqOp → Bool
  | .memWr _ | .memWrPtl _ | .memRd .a | .memInv .a | .ncWrite | .ncWritePtl | .atomic .. | .condstore .. => true
  | _ => false

/-- Accesses that leave the marks alone (R46): FLUSH, fills, releases. -/
def unmarked : ReqOp → Bool
  | .flushLine _ | .prefetchLine _ | .migrateRelease | .invalidateBlock _ | .memSpecRd => true
  | _ => false

/-- The operation stores data. -/
def storing : ReqOp → Bool
  | .memWr _ | .memWrPtl _ | .ncWrite | .ncWritePtl => true
  | _ => false

/-- A read (R134). -/
def reading : ReqOp → Bool
  | .memRd _ | .memRdData | .ncRead | .reserve .. | .memSpecRd | .prefetchLine _ => true
  | _ => false

/-- A read that a host socket made: it is answered with data. -/
def hostRead : ReqOp → Bool
  | .memRd _ | .memRdData => true
  | _ => false

/-- The requests that consume a token (R138). -/
def tokenOp : ReqOp → Bool
  | .memRd _ | .memRdData | .memInv _ | .memWr _ | .memWrPtl _ => true
  | _ => false

-- ===== classes, bounds, deadlines (R41, R131, R141) =====

/-- The less strict of two classes, in the order Vermilion, Ochre, Slate, Ash (R41). -/
def lessStrict (a b : LClass) : LClass := if classCode a ≤ classCode b then a else b

/-- Hit and miss bounds in ns (Table 5-1); 0 for Ash. -/
def hitBound (c : LClass) (peer : Bool) : Nat :=
  match c with
  | .vermilion => if peer then 700 else 300
  | .ochre => if peer then 1000 else 600
  | .slate => if peer then 2400 else 2000
  | .ash => 0
def missBound (c : LClass) (peer : Bool) : Nat :=
  match c with
  | .vermilion => if peer then 1900 else 1500
  | .ochre => if peer then 3400 else 3000
  | .slate => if peer then 10400 else 10000
  | .ash => 0
/-- Expander ceiling in ns (Table 5-1). -/
def ceilingOf (c : LClass) : Nat :=
  match c with
  | .vermilion => 1100 | .ochre => 2400 | .slate => 8000 | .ash => 0

/-- R141 -/
def deadlineOf (c : LClass) (peer : Bool) (tin : Time) : Option Time :=
  if c = .ash then none
  else some (tin + BitVec.ofNat 64 (hitBound c peer) - (if peer then 240 else 0))

/-- R334: the latest device time not after now whose low 22 bits are TIN. -/
def tinOf (s : State) (t : BitVec 22) : Time :=
  let d : BitVec 22 := s.now.setWidth 22 - t
  s.now - d.setWidth 64

/-- Counts a refusal and raises its event (R44). `src` is the host link or queue; a management access has neither, and its
record holds 0xFFFF there (log entry 100). -/
def refuse (s : State) (rights : Bool) (sa : SA) (w : Nat) (k : RqKind) (src island : Nat) : State :=
  let f : Fields := [(8, sa.toNat), (2, w), (1, rqkCode k), (2, src)]
  if rights then
    raiseFirst { s with region := { s.region with rightsCount := s.region.rightsCount + 1 } } 0x180 island f
  else raiseFirst { s with region := { s.region with unmappedCount := s.region.unmappedCount + 1 } } 0x181 island f

/-- The contract of the request belongs to another device (R135). -/
def peerHomed (s : State) (r : Req) : Bool :=
  match r.cidx with
  | some (d, _) => d != devId s
  | none => false

/-- The home bench classifies the request as a miss: its deadline follows (R134, R141). -/
def missNow (s : State) (r : Req) : Req :=
  if !r.hit then r
  else { r with hit := false, deadline := r.deadline.map (fun t =>
    t - BitVec.ofNat 64 (hitBound r.cls (peerHomed s r)) + BitVec.ofNat 64 (missBound r.cls (peerHomed s r))) }

/-- What the port attaches to a request that matched window `w` (R68); one to an uncached window is a miss (R134). -/
def formReq (s : State) (id : Nat) (op : ReqOp) (org : Origin) (k : RqKind) (hs : HostSock) (sa : SA) (dla : DLA) (w : WinId)
    (c : LClass) (cidx : Option (DevId × CIdx)) (tin : Time) (data : Line) (be : BitVec 64) (poison : Bool)
    (q : QueueId) (ep : Byte) : Req :=
  let v := winOf s w
  let peer := match cidx with
    | some (d, _) => d != devId s
    | none => false
  let r : Req :=
    { id := id, op := op, org := org, rqk := k, hs := hs, sa := sa, dla := dla, win := w, policy := v.geo.policy, span := v.span,
      insert := v.insert, cls := c, cidx := if c = .ash then none else cidx, mismatch := cidx.isSome && c == .ash,
      deadline := deadlineOf c peer tin, tin := tin, arrived := s.now, tracked := s.now, data := data, be := be, poison := poison, queue := q,
      epoch := ep, pool := none, phase := .lane, phaseSince := s.now, waited := 0, hit := true, causeFault := false,
      causePartner := false, causeCoherence := false, rqc := false, laneWait := false, snooped := 0, snoopDone := false, way := none,
      wayFreed := false, tagged := false, resvTaken := false,
      trap := v.trap && marking op && !(v.drt.getLsbD (segOf v dla).toNat) && v.state == .enabled, seg := segOf v dla }
  if v.geo.policy = 3 then missNow s r else r

end Sys2Proof.Machine
end

