-- ==== Sys2Proof/Machine/Pricing.lean ====
section
/-!
DEFINITION. What admitted contracts are priced at (R143, R144, R151, R165), in whole units so that every check is exact, and
the starvation ceiling (R152).
-/

namespace Sys2Proof.Machine

/-- lam_d in 1/840 requests per µs: 840 is a multiple of every number of homes. -/
def lamD (s : State) (c : Contract) : Nat :=
  let n := popCount c.homemask
  if n = 0 then 0 else min (c.rate.toNat * 840) (c.rate.toNat * s.contract.spread.toNat * (840 / n))

/-- One request per µs in the units of `lamB`: 840 times 256. -/
def unitB : Nat := 215040

/-- lam_b in 1/215,040 requests per µs. -/
def lamB (s : State) (c : Contract) : Nat := min (lamD s c * 256) (lamD s c * s.contract.spread.toNat)

def ceilDiv (a b : Nat) : Nat := (a + b - 1) / b
def sumNat (l : List Nat) : Nat := l.foldl (· + ·) 0

/-- Sets of a bench that have lost their last way (R93, R165). -/
def setLost (s : State) (b : Bench) : Bool :=
  let mine := s.cache.retiredList.filter (fun (e : BitVec 27) => (e >>> 19).setWidth 8 == b)
  mine.any (fun (e : BitVec 27) => 16 ≤ (mine.filter (fun (f : BitVec 27) => f >>> 4 == e >>> 4)).length)

/-- The bench is priced at m = 1 (R165). -/
def fullMiss (s : State) (b : Bench) : Bool :=
  s.cache.cstate != .enabled || s.rel.retired.getLsbD (stackOf b).toNat || s.rel.retiring.contains (stackOf b) || setLost s b

def missAt (c : Contract) (full : Bool) : Nat := if full then 256 else c.miss.toNat

/-- Tracker hold in ns, times 256. -/
def hold256 (c : Contract) (m : Nat) : Nat := (256 - m) * hitBound c.cls false + m * missBound c.cls false

/-- A reserved pool of check 7. -/
def poolNeed (s : State) (l : List Contract) (cl : LClass) (full : Bool) : Nat :=
  let l := l.filter (fun c => c.cls == cl)
  if l.isEmpty then 0
  else ceilDiv (sumNat (l.map (fun c => lamB s c * hold256 c (missAt c full)))) (unitB * 256 * 1000) + 2

/-- The window's target expander on this device, and its assayed maximum. -/
def winMax (s : State) (w : WinId) : Nat :=
  match s.contract.assay.find? (fun p => p.1 == (winOf s w).geo.xl.toNat) with
  | some p => p.2.a.toNat
  | none => 0

def writesOn (s : State) (w : WinId) : Bool := (winOf s w).geo.policy != 0

/-- Write-buffer entries of check 8. -/
def wbufNeed (s : State) (l : List Contract) : Nat :=
  let l := l.filter (fun c => c.cls == .vermilion || c.cls == .ochre)
  ceilDiv (sumNat (l.map (fun c => lamB s c * c.write.toNat * (if writesOn s c.win then winMax s c.win + 200 else 250))))
    (unitB * 256 * 1000) + 1

/-- Operation demand of check 9 at a bench, in operations per µs times 215,040 times 256. -/
def demand (s : State) (l : List Contract) (full : Bool) : Nat :=
  sumNat (l.map (fun c => lamB s c * (256 + missAt c full)))

/-- Shares that hold reservations: committed, being set aside, or not yet released (R142, R166). -/
def heldShares (s : State) : List Contract :=
  (s.contract.shares.filter (fun h => h.state != .tentative)).map (·.ctr)

/-- The contracted arrivals of class `cl` in a microsecond exceed 2 times the sum of lam_b, plus 4 (R160). -/
def concentrated (s : State) (cl : LClass) (n : Nat) : Bool :=
  2 * sumNat (((heldShares s).filter (fun c => c.cls == cl)).map (lamB s)) + 4 * unitB < n * unitB

/-- An Ash request that took longer than the starvation ceiling, less the time R152 does not count. -/
def starveCheck (s : State) (cl : LClass) (ns : Nat) : State :=
  if cl == .ash && 1000000 < ns then
    raiseFirst { s with contract := { s.contract with starved := s.contract.starved + 1 } } 0x24B 164 []
  else s

end Sys2Proof.Machine
end

