-- ==== Sys2Proof/Machine/Hist.lean ====
section
/-!
DEFINITION. Latency histograms (R474 to R476) and the account of a contract's responses and breaches (R158 to R162).
-/

namespace Sys2Proof.Machine

/-- Upper edges of Table 17-7. -/
def edges : List Nat :=
  [100, 150, 200, 250, 300, 400, 500, 600, 700, 850, 1000, 1100, 1300, 1500, 1700, 1900,
   2000, 2400, 3000, 3400, 4000, 5000, 6500, 8000, 10000, 10400, 20000, 50000, 100000, 250000, 1000000]

/-- The bucket of a latency (R474). -/
def bucketOf (l : Nat) : Nat := (edges.takeWhile (fun u => u < l)).length

/-- Counts a response on a host link (R475). -/
def histHost (s : State) (l : HLink) (c : LClass) (lat : Nat) : State :=
  { s with obs := { s.obs with hist := tmod 0 s.obs.hist ((l.toNat * 4 + classCode c) * 32 + bucketOf lat) (· + 1) } }

def AssayRec.init : AssayRec := ⟨0, 0, 0, 0, 0, 0, 0, 0, [], false, 0, 0⟩
def assayOf (s : State) (x : XLink) : AssayRec := tget AssayRec.init s.contract.assay x.toNat

/-- The bucket of an expander response (R476): bucket 31 holds what exceeds A. -/
def xBucket (a lat : Nat) (timeout : Bool) : Nat :=
  if timeout then 31 else if a = 0 then min (bucketOf lat) 30 else if a < lat then 31 else bucketOf lat

def histX (s : State) (x : XLink) (lat : Nat) (timeout : Bool) : State :=
  { s with obs := { s.obs with xhist := tinc s.obs.xhist (x.toNat * 32 + xBucket (assayOf s x).a.toNat lat timeout) } }

/-- Adds 1 to count `k` of a contract: 0 served, 1 hit, 2 miss, 3 over-rate, 4 class mismatch (R162). -/
def contractCount (s : State) (i : CIdx) (k : Nat) : State :=
  let c := contractOf s i
  setContract s i { c with counts := tinc c.counts k }

/-- The revocation grace (R166): the contract was revoked, the request was stamped before the last bucket of the pass
stopped, and no more than 10 µs have passed since. -/
def inGrace (s : State) (i : CIdx) (r : Resp) : Bool :=
  match s.contract.lastStop with
  | some t => (contractOf s i).ctr.state == 3 && r.tin ≤ t && since s t ≤ 10000
  | none => false

/-- The first cause of Table 5-8 that applies. -/
def breachCause (s : State) (i : CIdx) (r : Resp) : Nat :=
  if r.fault || inGrace s i r then 1 else if r.partner then 2 else if r.coherence then 3 else if r.rqc then 4 else 5

/-- The event of each cause (Table 5-8). -/
def breachEvent (k : Nat) : Nat :=
  match k with
  | 1 => 0x245 | 2 => 0x244 | 3 => 0x247 | 4 => 0x246 | _ => 0x243

/-- The bound that applies to a response (Table 5-1). -/
def boundOf (s : State) (r : Resp) : Nat :=
  if r.hit then hitBound r.cls (r.home != devId s) else missBound r.cls (r.home != devId s)

/-- Records a breach (R161). -/
def breach (s : State) (r : Resp) (i : CIdx) (lat bound island : Nat) : State :=
  let k := breachCause s i r
  let c := contractOf s i
  let s := setContract s i { c with breaches := tinc c.breaches k }
  let s := raiseFirst s (breachEvent k) island
    ([(2, i.toNat), (2, c.ctr.tag.toNat), (1, classCode r.cls), (1, if r.hit then 0 else 1),
      (1, if r.home == devId s then 0 else 1), (1, r.home.toNat), (8, r.sa.toNat), (4, lat), (4, bound), (1, k)] ++
     (if k = 2 then [(2, r.xl.toNat)] else if k = 3 then [(2, r.snooped.toNat)] else []))
  if k = 5 then
    logRec s { LogRec.init with type := 0x13, sev := 4, unit := 7, island := BitVec.ofNat 16 island, addr := r.sa.setWidth 64,
                                detail := BitVec.ofNat 64 (i.toNat + lat % 2 ^ 32 * 2 ^ 16 + bound % 2 ^ 16 * 2 ^ 48) }
  else s

/-- The account of a response that leaves (R132, R158, R162, R475). -/
def account (s : State) (r : Resp) (island : Nat) : State :=
  match r.kind with
  | .conflictAck => s
  | _ =>
    let lat := (s.now - r.tin).toNat
    let s := histHost s r.link r.cls lat
    match r.cidx with
    | none => starveCheck s r.cls (lat - r.waited)
    | some i =>
      if r.cls == .ash then s else
      let s := contractCount (contractCount s i 0) i (if r.hit then 1 else 2)
      if boundOf s r < lat then breach s r i lat (boundOf s r) island else s

end Sys2Proof.Machine
end

