-- ==== Sys2Proof/Machine/Bench.lean ====
section
/-!
DEFINITION. The home bench: trackers, tag lookup, replacement, fills, evictions, the write buffer, the snoop filter and
the order of each line (03, 04). `settle` carries every request as far as it can go without another command.
-/

namespace Sys2Proof.Machine

-- ===== requests =====

def reqOf (s : State) (id : Nat) : Option Req := s.cache.reqs.find? (fun r => r.id == id)

def setReqs (s : State) (l : List Req) : State := { s with cache := { s.cache with reqs := l } }

def modReq (s : State) (id : Nat) (f : Req → Req) : State := setReqs s (mapIf (fun r => r.id == id) f s.cache.reqs)

/-- Phases whose time does not count against the starvation ceiling (R152): held by the mark trap, waiting for a BIRsp or for
an expander. A request waits in `wbuf` for a drain, which takes time only at an expander (log entry 101). -/
def uncounted : Phase → Bool
  | .trapped | .snoop | .victim | .fill | .evq | .wbuf => true
  | _ => false

/-- A request that a clear of its dirty bit has trapped is held where it would go on (R47, R48). -/
def holdIf (r : Req) (p : Phase) : Phase := if r.trap && p == .line then .trapped else p

def toPhase (s : State) (id : Nat) (p : Phase) : State :=
  modReq s id (fun r => { r with
    phase := holdIf r p, phaseSince := s.now,
    waited := if uncounted r.phase then r.waited + (s.now - r.phaseSince).toNat else r.waited })

def dropReq (s : State) (id : Nat) : State := setReqs s (s.cache.reqs.filter (fun r => r.id != id))

def lineOf (r : Req) : Nat := r.dla.toNat / 64

/-- Requests that wait and would now be tried again. -/
def retry (s : State) (r : Req) : Req :=
  { r with
    phase := holdIf r .line, phaseSince := s.now,
    waited := if uncounted r.phase then r.waited + (s.now - r.phaseSince).toNat else r.waited }

def wake (s : State) (p : Req → Bool) : State := setReqs s (mapIf p (retry s) s.cache.reqs)

def atBench (b : Bench) (r : Req) : Bool := benchOfDla r.dla == b

-- ===== trackers (R86 to R89, R175) =====

def inPool (s : State) (b : Bench) (p : Pool) : Nat :=
  (s.cache.reqs.filter (fun r => r.pool == some p && atBench b r)).length

def sharedSize (s : State) (b : Bench) : Nat := 64 - (benchOf s b).poolV.toNat - (benchOf s b).poolO.toNat

/-- A line access that a haul step makes (R175): of this device, or a job's access that came from a peer. -/
def isStep (r : Req) : Bool := match r.org with
  | .step .. | .flush _ => true
  | .peer .. => r.rqk == .userQueue || r.rqk == .supervisorQueue
  | _ => false

/-- The pool a request may take a tracker from now (Table 3-5, R175). -/
def poolFor (s : State) (r : Req) : Option Pool :=
  let b := benchOfDla r.dla
  let shared := inPool s b .shared < sharedSize s b
  let capped := isStep r &&
    s.cache.haulCap.toNat ≤ (s.cache.reqs.filter (fun q => q.pool == some .shared && atBench b q && isStep q)).length
  if r.trap then (if shared then some .shared else none)
  else match r.cls with
    | .vermilion => if inPool s b .vermilion < (benchOf s b).poolV.toNat then some .vermilion
                    else if shared then some .shared else none
    | .ochre => if inPool s b .ochre < (benchOf s b).poolO.toNat then some .ochre else if shared then some .shared else none
    | _ => if shared && !capped then some .shared else none

/-- A request event at a bench that waits for its sample (R472). -/
def noteEvent (s : State) (b : Bench) : State :=
  if s.obs.pend.isEmpty then s else
  { s with obs := { s.obs with pend := s.obs.pend.map (fun (p : Nat × Sample) =>
      if p.1 = b.toNat then (p.1, { p.2 with skid := p.2.skid + 1 }) else p) } }

/-- A request takes a tracker and enters its line's order (R86); a trapped one is held (R48). -/
def takeTracker (s : State) (r : Req) (p : Pool) : State :=
  let r := { r with pool := some p, phase := if r.trap then .trapped else .line, phaseSince := s.now, tracked := s.now }
  let s := noteEvent (setReqs s (s.cache.reqs.filter (fun q => q.id != r.id) ++ [r])) (benchOfDla r.dla)
  countBench s (benchOfDla r.dla) 0x001 (classQual r.cls)

/-- The lane waiter that goes first: an Ash request that has waited 500 µs, else the oldest of the strictest class (R89). -/
def laneNext (s : State) : Option (Req × Pool) :=
  let w := s.cache.reqs.filter (fun r => r.phase == .lane)
  let old := w.filter (fun r => r.cls == .ash && 500000 ≤ since s r.arrived)
  let byClass := old ++ w.filter (fun r => r.cls == .vermilion) ++ w.filter (fun r => r.cls == .ochre) ++
    w.filter (fun r => r.cls == .slate) ++ w.filter (fun r => r.cls == .ash)
  byClass.findSome? (fun r => (poolFor s r).map (fun p => (r, p)))

/-- Gives free trackers to waiting requests. -/
def grantTrackers : Nat → State → State
  | 0, s => s
  | n + 1, s =>
    match laneNext s with
    | some (r, p) => grantTrackers n (takeTracker s r p)
    | none => s

/-- Counts a contracted arrival at its bench in this microsecond, and finds a concentration interval (R160). -/
def countArrival (s : State) (r : Req) : State × Bool :=
  if r.cls == .ash then (s, false) else
  let b := benchOfDla r.dla
  let v := benchOf s b
  let us := BitVec.ofNat 64 (s.now.toNat / 1000)
  let fresh := v.arrUs != us
  let n := fun (c : LClass) (old : Nat) => (if fresh then 0 else old) + (if r.cls == c then 1 else 0)
  let s := setBench s b { v with arrUs := us, arrV := n .vermilion v.arrV, arrO := n .ochre v.arrO, arrS := n .slate v.arrS }
  (s, concentrated s r.cls (match r.cls with
    | .vermilion => n .vermilion v.arrV
    | .ochre => n .ochre v.arrO
    | _ => n .slate v.arrS))

/-- The island at which a request entered the device (R48): its port, or the island of the unit that made it. -/
def entryIsland (s : State) (r : Req) : Nat :=
  match r.org with
  | .host l m _ => ((membersOf s l).find? (fun t => t.1 == m.toNat)).elim (leadPort s l) (·.2)
  | .mbox l m => ((membersOf s l).find? (fun t => t.1 == m.toNat)).elim (leadPort s l) (·.2)
  | .step b _ | .exam b .. | .flush b => clusterIsland b
  | .mgmt => 164
  | .ring => 166
  | .fetch _ | .record .. => 167
  | .peer .. | .gone => clusterIsland (benchOfDla r.dla)

/-- A mark request leaves for island 164 on CTL, behind what its island has sent there (R19, R48). -/
def sendMark (s : State) (r : Req) (seg : BitVec 6) (island : Nat) : State :=
  let n := (s.evt.raises.filter (fun x => x.island.toNat == island)).length
  { s with region := { s.region with markReqs := s.region.markReqs ++ [⟨r.id, r.win, seg, r.sa, island, n⟩] } }

/-- A request reaches its home bench (R86, R88); a trapped write's mark request leaves the port with it (R48). -/
def arrive (s : State) (r : Req) : State :=
  let s := { s with cache := { s.cache with nextReq := s.cache.nextReq + 1 } }
  let (s, conc) := countArrival s r
  let r := { r with rqc := conc }
  let s := if r.trap then sendMark s r r.seg (entryIsland s r) else s
  match poolFor s r with
  | some p => takeTracker (setReqs s (s.cache.reqs ++ [r])) r p
  | none =>
    let s := countBench s (benchOfDla r.dla) 0x00F (classQual r.cls)
    let s := if isStep r then countBench s (benchOfDla r.dla) 0x01D 0 else s
    setReqs s (s.cache.reqs ++ [{ r with laneWait := true }])

-- ===== reservations (R222, R223) =====

def granuleOf (sa : SA) : BitVec 40 := (sa >>> 8).setWidth 40

/-- A write by `r`, or another access of cause `c`, loses the reservations on its granule at its bench, less those of the
requests own queue when `own` says so. -/
def loseResv (s : State) (r : Req) (c : Nat) (own : Bool) : State :=
  clearResv s c (fun v => v.granule == granuleOf r.sa &&
    !(own && v.queue == r.queue && v.dev == (match r.org with
      | .peer d _ => d
      | _ => devId s) && (r.rqk == .userQueue || r.rqk == .supervisorQueue))) (benchOfDla r.dla).toNat

/-- The block at `blk` leaves the cache (R223 cause 2). -/
def loseBlock (s : State) (blk : BitVec 33) : State :=
  clearResv s 2 (fun v => (v.granule.toNat * 256) / 4096 == (saOf s (dlaOfBlk blk 0)).toNat / 4096) (benchOfBlk blk).toNat

-- ===== snoop filter entries (R104 to R109, R121) =====

def sfKey (b : Bench) (set w : Nat) : Nat := (b.toNat * 16384 + set) * 16 + w
def sfEntry (s : State) (k : Nat) : SfEntry := tget SfEntry.init s.snoop.entries k

/-- The way that tracks a line. -/
def sfFind (s : State) (dla : DLA) : Option Nat :=
  let k := lineKey dla
  (List.range 16).find? (fun w =>
    let e := sfEntry s (sfKey (benchOfDla dla) (sfSet k) w)
    e.state != .invalid && e.tag == sfTag k)

def sfOf (s : State) (dla : DLA) : SfEntry :=
  match sfFind s dla with
  | some w => sfEntry s (sfKey (benchOfDla dla) (sfSet (lineKey dla)) w)
  | none => SfEntry.init

/-- Writes a snoop-filter entry, with an armed bench flip mask (R267). -/
def sfWrite (s : State) (b : Bench) (set w : Nat) (e : SfEntry) : State :=
  let k := sfKey b set w
  let bs := benchOf s b
  let flip := bs.flipArm && bs.flipTgt == 0
  let s := { s with snoop := { s.snoop with entries := tput SfEntry.init s.snoop.entries k e
                                            err := tput 0 s.snoop.err k (flipOver (tget 0 s.snoop.err k) flip (bs.flipMask.setWidth 46)) } }
  if flip then
    raise (setBench s b { bs with flipArm := false, flipDone := true }) 0x307 (clusterIsland b)
      [(1, 1), (1, 0xFF), (2, b.toNat), (1, 0), (1, 0), (1, 0), (1, 0), (4, set * 16 + w), (4, 0),
       (8, (dlaOfKey b e.tag set).toNat)]
  else s

/-- R121: the other side of every node on the path from way `w` becomes older. -/
def treeTouch (t : BitVec 16) (w : Nat) : BitVec 16 :=
  let step := fun (t : BitVec 16) (n : Nat) =>
    if n % 2 == 0 then t ||| bit (n / 2) else t &&& ~~~(bit (n / 2))
  step (step (step (step t (w + 16)) ((w + 16) / 2)) ((w + 16) / 4)) ((w + 16) / 8)

/-- R121: some eligible way lies under node `n`. -/
def underNode (el : List Nat) (n : Nat) : Bool :=
  el.any (fun w => n == w + 16 || n == (w + 16) / 2 || n == (w + 16) / 4 || n == (w + 16) / 8)

def treeWalk (t : BitVec 16) (el : List Nat) : Nat → Nat → Nat
  | 0, n => n - 16
  | d + 1, n =>
    let older := if t.getLsbD n then 2 * n + 1 else 2 * n
    let other := if t.getLsbD n then 2 * n else 2 * n + 1
    treeWalk t el d (if underNode el older then older else other)

def sfTouch (s : State) (b : Bench) (set w : Nat) : State :=
  { s with snoop := { s.snoop with trees := tmod 0 s.snoop.trees (b.toNat * 16384 + set) (fun t => treeTouch t w) } }

/-- Removes a host socket from a line's entry; the entry is freed with its last (R109). -/
def sfRemove (s : State) (dla : DLA) (hs : HostSock) : State :=
  match sfFind s dla with
  | none => s
  | some w =>
    let set := sfSet (lineKey dla)
    let e := sfEntry s (sfKey (benchOfDla dla) set w)
    let p := e.pres &&& ~~~(bit hs.toNat)
    sfWrite s (benchOfDla dla) set w (if p = 0 then SfEntry.init else { e with pres := p })

/-- The line's entry becomes `state` with holders `p`; a socket gained touches the way (R121). Without an entry the first
free way of `ways` takes it. -/
def sfSetWays (s : State) (dla : DLA) (st : SfState) (p : BitVec 16) (ways : List Nat) : State :=
  let b := benchOfDla dla
  let k := lineKey dla
  let set := sfSet k
  match sfFind s dla with
  | some w =>
    if p = 0 then sfWrite s b set w SfEntry.init
    else
      let e := sfEntry s (sfKey b set w)
      let s := sfWrite s b set w { e with pres := p, state := st }
      if (p &&& ~~~e.pres) = 0 then s else sfTouch s b set w
  | none =>
    if p = 0 then s
    else match ways.find? (fun w => (sfEntry s (sfKey b set w)).state == .invalid) with
      | some w => sfTouch (sfWrite s b set w ⟨p, st, sfTag k⟩) b set w
      | none => s

/-- As sfSetWays, over every way. -/
def sfSetLine (s : State) (dla : DLA) (st : SfState) (p : BitVec 16) : State := sfSetWays s dla st p (List.range 16)

/-- The ways a request may install its entry in: the one an eviction freed for it, else those no other request's eviction is
for (R120, R122). -/
def ownWays (s : State) (r : Req) : List Nat :=
  match r.way with
  | some w => [w.toNat]
  | none =>
    let set := sfSet (lineKey r.dla)
    (List.range 16).filter (fun w => !(s.cache.reqs.any (fun q => q.id != r.id && q.way == some (BitVec.ofNat 4 w) &&
      benchOfDla q.dla == benchOfDla r.dla && sfSet (lineKey q.dla) == set)))

/-- The line is held (R118). -/
def held (s : State) (dla : DLA) : Bool :=
  s.now < tget 0 s.snoop.holds ((benchOfDla dla).toNat * 1024 + holdSlot (lineKey dla))

/-- A completion that grants a copy starts a hold (R117, R118). -/
def startHold (s : State) (dla : DLA) : State :=
  let t := s.now + s.snoop.holdTime.setWidth 64
  let k := (benchOfDla dla).toNat * 1024 + holdSlot (lineKey dla)
  { s with snoop := { s.snoop with holds := tmod 0 s.snoop.holds k (fun e => if e < t then t else e) } }

-- ===== back-invalidates (R110 to R117, R335) =====

def countFlit (s : State) (l : HLink) : State :=
  { s with snoop := { s.snoop with flits := tinc s.snoop.flits l.toNat, flitLog := (l, s.now) :: s.snoop.flitLog } }

/-- The member port takes no transfer (R15). -/
def memberHeld (s : State) (l : HLink) (m : BitVec 2) : Bool := (memberPort s l m).any (portHeld s)

/-- A BISnp leaves on its snoop link. -/
def snpOut (s : State) (e : SnoopTab) : State :=
  emit (countFlit s e.link) (.bisnp e.link (snoopMember s e.link e.sa) e.kind e.sa)

/-- A SNP at the attachment device takes a snoop-table entry and leaves on the snoop link (R335), or is held toward its port
(R15); while the table of the link holds 512 entries it waits. -/
def snpArrive (s : State) (m : PeerSnp) : State :=
  match snoopLink s m.hs m.sa with
  | none => s
  | some l =>
    if 512 ≤ (s.snoop.table.filter (fun e => e.link == l)).length then
      { s with snoop := { s.snoop with waiting := s.snoop.waiting ++ [m] } }
    else
      let e : SnoopTab := ⟨l, m.hs, m.sa, m.src, m.tag, m.kind, !memberHeld s l (snoopMember s l m.sa)⟩
      let s := { s with snoop := { s.snoop with table := s.snoop.table ++ [e] } }
      if e.sent then snpOut s e else s

/-- The entry leaves the table; an SNP that waits for one takes its place (R335). -/
def tableFree (s : State) (e : SnoopTab) : State :=
  let s := { s with snoop := { s.snoop with table := s.snoop.table.filter (fun x => !(x == e)) } }
  match takeFirst (fun m => snoopLink s m.hs m.sa == some e.link) s.snoop.waiting with
  | some (m, t) => snpArrive { s with snoop := { s.snoop with waiting := t } } m
  | none => s

/-- RSP 2 or DATA 3. -/
def rspClass : RspOp → Nat
  | .memData _ | .jobData | .snoopWb _ => 3
  | _ => 2

/-- The class of a peer message (Table 11-3): REQ 0, SNP 1, RSP 2, DATA 3, CTL 4. -/
def msgClass : PeerMsg → Nat
  | .req _ => 0
  | .snp _ => 1
  | .rsp r => rspClass r.op
  | .ctl .. => 4
  | .salvage _ _ _ => 4

/-- A message to another device waits at the peer egress (R334 to R336); a RSP or DATA message takes the next RSQ (R336). -/
def peerSend (s : State) (dst : DevId) (m : PeerMsg) (dl : Option Time) : State :=
  let n := tget (0 : BitVec 16) s.peer.rsqTx dst.toNat
  let (m, n') : PeerMsg × BitVec 16 := match m with
    | .rsp r => (.rsp { r with rsq := n }, n + 1)
    | m => (m, n)
  countSent { s with peer := { s.peer with
      tx := s.peer.tx ++ [⟨dst, m, dl, s.now⟩]
      rsqTx := tput 0 s.peer.rsqTx dst.toNat n' } } dst (msgClass m)

/-- Issues one BISnp (R111, R113, R335). -/
def issueSnoop (s : State) (r : Nat) (dla : DLA) (hs : HostSock) (k : SnpKind) (evict wasAny : Bool) : State :=
  let id := s.snoop.nextSnoop
  let dev := attachOf s hs
  let sa := saOf s dla
  let s := { s with snoop := { s.snoop with
    nextSnoop := id + 1
    snoops := s.snoop.snoops ++ [⟨id, dla, sa, hs, k, dev, r, evict, wasAny, s.now, s.snoop.biTimeout, false⟩]
    sent := tinc s.snoop.sent (match k with
      | .cur => 0
      | .data => 1
      | .inv => 2) } }
  let s := countBench s (benchOfDla dla) 0x015 0
  let m : PeerSnp := ⟨devId s, dev, none, false, k, BitVec.ofNat 16 id, hs, sa⟩
  if dev = devId s then snpArrive s m else peerSend s dev (.snp m) none

/-- Snoop write-back slots in use at a bench (R113): one for each snoop outstanding that has written nothing yet, and
each write-back that has not drained. -/
def snoopSlots (s : State) (b : Bench) : Nat :=
  (s.snoop.snoops.filter (fun v => benchOfDla v.dla == b && !v.wrote)).length +
  ((benchOf s b).wbuf.filter (fun e => 32 ≤ e.slot.toNat)).length

/-- The back-invalidates Table 4-3, R124 and R125 require before the request is served. -/
def snoopsFor (op : ReqOp) (h : Option HostSock) (e : SfEntry) : List (HostSock × SnpKind) :=
  let hbit : BitVec 16 := match h with
    | some n => bit n.toNat
    | none => 0
  let others := (bitsOf (e.pres &&& ~~~hbit)).map (fun n => (BitVec.ofNat 4 n : HostSock))
  let inv := others.map (fun n => (n, SnpKind.inv))
  let ofAny := fun (k : SnpKind) => if e.state == .any then others.map (fun n => (n, k)) else []
  if e.state == .invalid then [] else
  match op with
  | .memRd .i | .ncRead | .reserve .. => ofAny .cur
  | .memRd .s | .memRdData => ofAny .data
  | .memRd .a | .memInv .a | .memWr _ | .memWrPtl _ | .ncWrite | .ncWritePtl | .atomic .. | .condstore .. | .flushLine _ => inv
  | _ => []

/-- The request leaves its socket holding the line (R109, R117). -/
def grantsCopy : ReqOp → Bool
  | .memRd .s | .memRd .a | .memRdData | .memInv .a | .memWr .s | .memWr .a | .memWrPtl .s | .memWrPtl .a => true
  | _ => false

def isHost (r : Req) : Bool := r.rqk == .hostSocket
def hsOf (r : Req) : Option HostSock := if isHost r then some r.hs else none

/-- The field combinations of Table 4-2 (R108). -/
def SfEntry.legal (e : SfEntry) : Bool :=
  match e.state with
  | .invalid => e.pres == 0 && e.tag == 0
  | .shared | .busy => e.pres != 0
  | .any => popCount e.pres == 1

/-- The check of a snoop-filter entry at a read of it (R107, R256): false when it led to containment. -/
def sfCheck (s : State) (dla : DLA) : State × Bool :=
  let b := benchOfDla dla
  let set := sfSet (lineKey dla)
  (List.range 16).foldl (fun (a : State × Bool) w =>
    let e := sfEntry a.1 (sfKey b set w)
    let n := if SfEntry.legal e then popCount (tget 0 a.1.snoop.err (sfKey b set w)) else 2
    if n = 0 || !a.2 then a
    else if n = 1 then
      let s := { a.1 with snoop := { a.1.snoop with err := tput 0 a.1.snoop.err (sfKey b set w) 0
                                                    corrected := a.1.snoop.corrected + 1 } }
      (raiseFirst s 0x200 (sfIsland b) [], true)
    else
      let s := logRec a.1 { LogRec.init with type := 0x0A, sev := 3, unit := 2, island := BitVec.ofNat 16 (sfIsland b),
                                             addr := (saOf a.1 dla).setWidth 64, dla := dla.setWidth 64,
                                             bench := b.setWidth 16, detail := BitVec.ofNat 64 (set * 16 + w) }
      let s := raise s 0x204 (sfIsland b) []
      (contain s 3 (sfIsland b), false)) (s, true)

-- ===== the write buffer (R80 to R83) =====

def wEntries (s : State) (b : Bench) : List WEntry := (benchOf s b).wbuf
def wFresh (s : State) (dla : DLA) : Option WEntry :=
  (wEntries s (benchOfDla dla)).find? (fun e => e.dla == lineAddr dla && e.drain == .fresh)
def wDraining (s : State) (dla : DLA) : Option WEntry :=
  (wEntries s (benchOfDla dla)).find? (fun e => e.dla == lineAddr dla && e.drain != .fresh)
def setW (s : State) (b : Bench) (l : List WEntry) : State := modBench s b (fun v => { v with wbuf := l })
def modW (s : State) (b : Bench) (slot : BitVec 6) (f : WEntry → WEntry) : State :=
  setW s b (mapIf (fun e => e.slot == slot) f (wEntries s b))

/-- The slots a write may take, in order: 24 to 31 first for a contracted Vermilion or Ochre write. -/
def slotsFor (r : Req) : List Nat :=
  if r.cls == .vermilion || r.cls == .ochre then (List.range 8).map (· + 24) ++ List.range 24 else List.range 24

def freeSlot (s : State) (b : Bench) (l : List Nat) : Option Nat :=
  l.find? (fun n => !((wEntries s b).any (fun e => e.slot.toNat == n)))

-- ===== eviction queue and orphans (R78, R79, R276 to R278, R314) =====

/-- The newest sector of a line in the eviction queue. -/
def evqOf (s : State) (dla : DLA) : Option Evict :=
  ((benchOf s (benchOfDla dla)).evq.filter (fun e => e.dla == lineAddr dla)).getLast?

/-- The block's record holds the sector of the address valid (R65). -/
def sectorValid (s : State) (dla : DLA) : Bool :=
  match wayOfDla s dla with
  | some w => (tagAt s (tagKey (benchOfDla dla) (lsOfDla dla) w)).valid.getLsbD (secOfDla dla)
  | none => false

/-- The sector is in the eviction queue and no valid one is in the array: the queue's is the current data (R79). -/
def evqCurrent (s : State) (dla : DLA) : Option Evict := if sectorValid s dla then none else evqOf s dla

/-- Puts a sector into the eviction queue and sends its write (R78). -/
def evict (s : State) (dla : DLA) (x : XLink) (dpa : BitVec 64) (data : Line) (poison : Bool) : State :=
  let b := benchOfDla dla
  let sa := saOf s dla
  let rid := s.cache.nextX
  let s := modBench s b (fun v => { v with evq := v.evq ++ [⟨lineAddr dla, sa, x, rid, data, poison⟩] })
  let s := countBench s b 0x009 0
  let s := if poison then poisonAdd s sa else s
  xsend s x true (lineAddr dla) sa dpa data (BitVec.allOnes 64) poison (.evict b)

/-- A dirty block that cannot be written back becomes an orphan, or is lost at the limit (R277, R278). -/
def makeOrphan (s : State) (k : Nat) : State :=
  let t := tagAt s k
  let b := benchOfKey k
  if t.state == .orphan then s
  else if 262144 ≤ s.cache.orphans.length then
    let n := popCount t.dirty
    let blk := blkOfKey s k
    let s := (bitsOf t.dirty).foldl (fun s i => poisonAdd s (saOf s (dlaOfBlk blk i))) s
    let s := loseBlock s blk
    let s := tagPut s k TagRec.init
    let s := { s with rel := { s.rel with orphLost := s.rel.orphLost + BitVec.ofNat 64 n } }
    let s := logRec s { LogRec.init with type := 0x0F, sev := 2, unit := 0, island := BitVec.ofNat 16 (clusterIsland b),
                                         addr := (saOf s (dlaOfBlk blk 0)).setWidth 64, dla := (dlaOfBlk blk 0).setWidth 64,
                                         stack := (stackOf b).setWidth 8,
                                         bench := b.setWidth 16, setway := BitVec.ofNat 32 (k % 524288),
                                         detail := BitVec.ofNat 64 n }
    raise s 0x319 (clusterIsland b) [(8, (dlaOfBlk blk 0).toNat)]
  else
    let s := tagPut s k { t with state := .orphan }
    raiseFirst s 0x318 (clusterIsland b) [(8, (dlaOfBlk (blkOfKey s k) 0).toNat)]

/-- The eviction queue of a bench holds 64 sectors (R78). -/
def evqFull (s : State) (b : Bench) : Bool := 64 ≤ (benchOf s b).evq.length

/-- Reads a dirty sector of way `w` into the eviction queue (R78); the sectors that find no room, or no target, are listed. -/
def cleanSector (blk : BitVec 33) (w : Nat) (a : State × List Nat) (i : Nat) : State × List Nat :=
  let dla := dlaOfBlk blk i
  match writeTarget a.1 dla, evqFull a.1 (benchOfDla dla) with
  | some (x, dpa), false =>
    (match sectorRead a.1 dla w 5 with
     | (s, .data d) => (evict s dla x dpa d false, a.2)
     | (s, _) => (evict s dla x dpa 0 true, a.2))
  | _, _ => (a.1, a.2 ++ [i])

/-- Reads the dirty sectors of a block into the eviction queue, in ascending order, while it has room; true when the block is
clean. -/
def cleanBlock (s : State) (k : Nat) : State × Bool :=
  let (s, left) := (bitsOf (tagAt s k).dirty).foldl (cleanSector (blkOfKey s k) (k % 16)) (s, [])
  (tagPut s k { tagAt s k with dirty := left.foldl (fun m i => m ||| bit i) 0 }, left.isEmpty)

-- ===== replacement (R73 to R75) =====

/-- Notes an eviction or a hit of a window's block in the scan detector (R73, R75). -/
def scanCount (s : State) (b : Bench) (w : WinId) (up : Bool) : State :=
  modBench s b (fun v =>
    let c := (tget 0 v.scan w.toNat).toNat
    let c := if up then min (c + 1) 63 else c - 4
    let dem := if s.cache.scanEngage.toNat ≤ c && s.cache.scanOn then v.demoted ||| bit w.toNat
               else if c ≤ s.cache.scanRelease.toNat then v.demoted &&& ~~~(bit w.toNat) else v.demoted
    { v with scan := tput 0 v.scan w.toNat (BitVec.ofNat 6 c), demoted := dem })

/-- Rank and DM a block is inserted with (R73). -/
def insertRank (s : State) (b : Bench) (w : WinId) (ins : BitVec 2) : BitVec 2 × Bool :=
  let dem := ((benchOf s b).demoted.getLsbD w.toNat) && ins != 2
  let a := if dem then (if ins = 1 then (0 : BitVec 2) else 2) else ins
  (if a = 1 then 0 else if a = 0 then 2 else 3, dem)

/-- R73: a hit. -/
def onHit (s : State) (k : Nat) : State :=
  let t := tagAt s k
  let t' := { t with ru := true, rank := if !t.ru && t.dm then 1 else 0 }
  let s := tagPut s k t'
  if t.ru then s
  else match retainedAt s (dlaOfBlk (blkOfKey s k) 0) with
    | some (w, _) => scanCount s (benchOfKey k) w false
    | none => s

def dirtyCount (s : State) (k : Nat) : Nat := popCount (tagAt s k).dirty

/-- A candidate way (R73), with R314's rule for a full eviction queue. -/
def candidate (s : State) (b : Bench) (ls : BitVec 15) (w : Nat) : Bool :=
  let k := tagKey b ls w
  let t := tagAt s k
  let blk := blkOfKey s k
  (t.state == .invalid || t.state == .valid) &&
  !(s.cache.xreqs.any (fun x => match x.purpose with
    | .fill fb (some fw) => fb == b && lsOfDla x.dla == ls && fw.toNat == w
    | _ => false)) &&
  (t.state == .invalid ||
    !((wEntries s b).any (fun e => blkOfDla e.dla == blk) || (benchOf s b).evq.any (fun e => blkOfDla e.dla == blk))) &&
  (dirtyCount s k + (benchOf s b).evq.length ≤ 64)

/-- A dirty block of this way cannot be written back (R277). -/
def unwritable (s : State) (k : Nat) : Bool :=
  (tagAt s k).dirty != 0 && (writeTarget s (dlaOfBlk (blkOfKey s k) 0)).isNone

/-- choose_victim of R73: the way, the other candidates aged; a dirty block that cannot be written back becomes an orphan
and the choice repeats (R277). -/
def chooseVictim : Nat → State → Bench → BitVec 15 → State × Option Nat
  | 0, s, _, _ => (s, none)
  | n + 1, s, b, ls =>
    let cand := (List.range 16).filter (candidate s b ls)
    match cand.find? (fun w => (tagAt s (tagKey b ls w)).state == .invalid) with
    | some w => (s, some w)
    | none =>
      if cand.isEmpty then (s, none) else
      let top := maxNat (cand.map (fun w => (tagAt s (tagKey b ls w)).rank.toNat))
      let s := if top = 3 then s else cand.foldl (fun s w =>
        let k := tagKey b ls w
        let t := tagAt s k
        tagPut s k { t with rank := t.rank + BitVec.ofNat 2 (3 - top) }) s
      match cand.find? (fun w => (tagAt s (tagKey b ls w)).rank == 3) with
      | none => (s, none)
      | some w =>
        if unwritable s (tagKey b ls w) then chooseVictim n (makeOrphan s (tagKey b ls w)) b ls
        else (s, some w)

/-- A valid block leaves the cache as victim, its record read through its checks (R64, R73, R78); false when that led to
containment. -/
def evictWay (s : State) (k : Nat) : State × Bool :=
  let t := tagAt s k
  if t.state != .valid then (s, true) else
  let b := benchOfKey k
  match recRead s b (lsOfKey k) (k % 16) with
  | (s, false) => (s, false)
  | (s, true) =>
  let blk := blkOfKey s k
  let s := countBench s b 0x007 0
  let s := if t.ru then s else
    match retainedAt s (dlaOfBlk blk 0) with
    | some (w, _) => scanCount (countBench s b 0x008 0) b w true
    | none => countBench s b 0x008 0
  let s := loseBlock s blk
  ((cleanBlock s k).1, true)

/-- Allocates a block for a request: the victim leaves, the new record is installed (R65, R73). -/
def allocate (s : State) (dla : DLA) (w : WinId) (ins : BitVec 2) : State × Option Nat :=
  let b := benchOfDla dla
  let ls := lsOfDla dla
  match residentCheck s b ls with
  | (s, false) => (s, none)
  | (s, true) =>
  match chooseVictim 17 s b ls with
  | (s, none) => (s, none)
  | (s, some way) =>
    let k := tagKey b ls way
    match evictWay s k with
    | (s, false) => (s, none)
    | (s, true) =>
      let (rank, dm) := insertRank s b w ins
      let s := countBench s b 0x006 0
      let s := if dm then countBench s b 0x021 0 else s
      (tagPut s k { dirty := 0, valid := 0, dm := dm, ru := false, rank := rank, state := .valid, tag := tagOfDla dla }, some way)

-- ===== what the cache does for a request (R69, R97, R98, R271) =====

def stackRetired (s : State) (b : Bench) : Bool := s.rel.retired.getLsbD (stackOf b).toNat
def lostWin (s : State) (w : WinId) : Bool := (winOf s w).state == .targetLost

/-- No tag lookup is performed. -/
def noLookup (s : State) (w : WinId) (policy : BitVec 2) (b : Bench) : Bool :=
  policy == 3 || stackRetired s b ||
  ((s.cache.cstate == .bypass || s.cache.cstate == .invalidating) && !lostWin s w)

/-- No block is allocated (R74, Table 3-10). -/
def noAlloc (s : State) (w : WinId) (policy insert : BitVec 2) (b : Bench) : Bool :=
  noLookup s w policy b || insert == 3 || s.cache.cstate != .enabled || s.rel.retiring.contains (stackOf b)

/-- The sectors of the fetch span, the requested one first, then ascending with wrap (R70). -/
def spanOf (span : BitVec 2) (sec : Nat) : List Nat :=
  let n := 4 ^ span.toNat
  (List.range n).map (fun i => (sec / n) * n + (sec % n + i) % n)

/-- Far-memory reads of a fill (R70): sectors valid already, or with a fill outstanding, are not fetched; one that lies in
the eviction queue is taken from there (R79). -/
def fetchSectors (s : State) (dla : DLA) (w : WinId) (c : LClass) (way : Option Nat) : List Nat → State
  | [] => s
  | i :: t =>
    let b := benchOfDla dla
    let d := dlaOfBlk (blkOfDla dla) i
    let valid : Bool := match way with
      | some y => (tagAt s (tagKey b (lsOfDla dla) y)).valid.getLsbD i
      | none => false
    let out := s.cache.xreqs.any (fun x => !x.write && x.dla == d && (match x.purpose with
      | .fill .. => true
      | _ => false))
    let s := if valid || out then s else
      match evqOf s d, way with
      | some e, some y =>
        let k := tagKey b (lsOfDla dla) y
        let s := sectorWrite s d y e.data e.poison
        tagPut s k { tagAt s k with valid := (tagAt s k).valid ||| bit i }
      | some _, none => s
      | none, _ =>
        let g := heldGeo (winOf s w)
        let s := countBench s b 0x005 (classQual c)
        xsend s g.xl false d (saOf s d) (dpaOf g d) 0 (BitVec.allOnes 64) false (.fill b (way.map (BitVec.ofNat 4 ·)))
    fetchSectors s dla w c way t

-- ===== answers =====

/-- DevLoad of a response (R296). -/
def devload (s : State) (r : Req) : BitVec 2 :=
  if r.laneWait then 3 else
  let b := benchOfDla r.dla
  let u := 100 * inPool s b .shared
  let n := sharedSize s b
  if u < 50 * n then 0 else if u < 90 * n then 1 else 2

/-- R160: counts the response against its contract's millisecond, and finds an excess-miss interval. -/
def judge (s : State) (r : Req) : State × Bool :=
  match r.cidx with
  | none => (s, false)
  | some (d, i) =>
    let key := d.toNat * 4096 + i.toNat
    let ms := BitVec.ofNat 64 (s.now.toNat / 1000000)
    let (m0, sv, mi) := tget ((0 : BitVec 64), 0, 0) s.contract.ms key
    let (sv, mi) := if m0 == ms then (sv + 1, if r.hit then mi else mi + 1) else (1, if r.hit then 0 else 1)
    let s := { s with contract := { s.contract with ms := tput (0, 0, 0) s.contract.ms key (ms, sv, mi) } }
    let declared := match s.contract.shares.find? (fun h => h.origin == d && h.entry == i) with
      | some h => h.ctr.miss.toNat
      | none => 256
    (s, !r.hit && 1024 * mi > 5 * declared * sv + 16 * 1024)

/-- Adds a failed part to a job (R211). -/
def modJob (s : State) (q : QueueId) (j : JobSeq) (f : Job → Job) : State :=
  { s with job := { s.job with jobs := mapIf (fun x => x.q == q && x.j == j) f s.job.jobs } }

def jobFail (s : State) (q : QueueId) (j : JobSeq) (off n : Nat) (st : JStatus) : State :=
  modJob s q j (fun x => { x with failed := x.failed ++ [(off, n, st)] })

def runOf (s : State) (b : Bench) : Option Run := (benchOf s b).running
def modRun (s : State) (b : Bench) (f : Run → Run) : State := modBench s b (fun v => { v with running := v.running.map f })
def jobOf (s : State) (q : QueueId) (j : JobSeq) : Option Job := s.job.jobs.find? (fun x => x.q == q && x.j == j)

/-- Records leave the tag cache, each read through its checks, until one leads to containment (R64). -/
def dropRecords (s : State) (l : List Nat) : State :=
  l.foldl (fun t k => if stood s t then tagDrop { t with cache := { t.cache with resident := t.cache.resident.filter (· != k) } } k
                      else t) s

/-- A buffered line of a bench has an uncorrectable error: it is poisoned and logged (R256, Table 9-4). -/
def poisonBuffer (s : State) (b : Bench) (k : Nat) (dla : DLA) : State :=
  let sa := saOf s dla
  let s := modBench s b (fun v => { v with
    wbuf := mapIf (fun e => (k == if e.slot.toNat < 32 then 0 else 2) && lineAddr e.dla == lineAddr dla)
      (fun e => { e with poison := true }) v.wbuf
    evq := mapIf (fun e => k == 1 && lineAddr e.dla == lineAddr dla) (fun e => { e with poison := true }) v.evq
    running := v.running.map (fun r => { r with
      ewb := mapIf (fun e => k == 3 && lineSa e.sa == lineSa sa) (fun e => { e with poison := true }) r.ewb }) })
  logRec s { LogRec.init with type := 0x0C, sev := 2, unit := 3, island := BitVec.ofNat 16 (clusterIsland b), addr := sa.setWidth 64,
                              dla := dla.setWidth 64, bench := b.setWidth 16, detail := BitVec.ofNat 64 k }

/-- The bench reads its buffers and its coherence-state structures through their codes (R256): an uncorrectable error poisons a
buffered line, and elsewhere leads to containment with cause 0x08 (R272). No row of the table makes such an error. -/
def sramCheck (s : State) (b : Bench) : State :=
  let bad := s.rel.bufErr.filter (fun e => e.2.1 == b)
  let s := if bad.isEmpty then s else
    bad.foldl (fun s e => poisonBuffer s b e.1 e.2.2) { s with rel := { s.rel with bufErr := s.rel.bufErr.filter (fun e => e.2.1 != b) } }
  if s.rel.cohErr.contains b then contain s 8 (clusterIsland b) else s

/-- The STATUS of a step record in which nothing has failed (Table 17-11). -/
def noFail : BitVec 64 := 0x0000FFFFFFFFFFFF

/-- A step record of device work. -/
def deviceStep (k : StepKind) (b : Bench) (cursor : Nat) (remain est : Nat) : StepRec :=
  { kind := k, owner := b, queue := 0, epoch := 0, jobseq := 0, cursor := BitVec.ofNat 64 cursor, remain := BitVec.ofNat 32 remain,
    estimate := BitVec.ofNat 12 est, checkval := 0, status := noFail }

/-- The STATUS of a step record after a failed part of job offsets [off, off + n); `known` are the failed ranges before it
(Table 17-11). -/
def failStatus (known : List (Nat × Nat)) (st : BitVec 64) (off n : Nat) : BitVec 64 :=
  let first := st.toNat % 2 ^ 48
  let new : Bool := first = 2 ^ 48 - 1
  let before := if new then 0 else if st.toNat / 2 ^ 48 = 0 then 65536 else st.toNat / 2 ^ 48
  let count := min 65536 (before + uncovered known off (off + n))
  BitVec.ofNat 64 ((if new then off else min first off) + (count % 65536) * 2 ^ 48)

/-- A part of the step that runs on a bench fails: it is noted in the step record and in the job, and the engine's write
buffer drains (R180, R211, R219). -/
def stepFail (s : State) (b : Bench) (off n : Nat) (e : JStatus) : State :=
  match runOf s b with
  | none => s
  | some r =>
    let known := match jobOf s r.step.queue r.step.jobseq with
      | some x => x.failed.map (fun f => (f.1, f.1 + f.2.1))
      | none => []
    jobFail (modRun s b (fun r => { r with drain := true, step := { r.step with status := failStatus known r.step.status off n } }))
      r.step.queue r.step.jobseq off n e

/-- A store of a step was refused: the bytes of the line that the step covers are a failed part (R211, R212). -/
def storeRefused (s : State) (b : Bench) (sa : SA) (e : JStatus) : State :=
  match runOf s b with
  | none => s
  | some r =>
    match jobOf s r.step.queue r.step.jobseq with
    | none => s
    | some x =>
      let (lo, hi) := lineOffs (dstOf x.d) sa.toNat r.step.cursor.toNat (stepEnd r.step)
      modJob (stepFail s b lo (hi - lo) e) x.q x.j (fun x => { x with refused := x.refused ++ [(lo, hi)] })

/-- What a running step does with the answer of one of its line accesses: the line comes back, or the store has been
performed; a store that was refused is a failed part (R211). -/
def stepAnswer (s : State) (op : ReqOp) (sa : SA) (b : Bench) (data : Line) (bad : Option JStatus) : State :=
  if storing op then
    let s := modRun s b (fun r => { r with stores := r.stores - 1 })
    match bad with
    | some e => storeRefused s b sa e
    | none => s
  else modRun s b (fun r => { r with loads := r.loads.filter (· != sa), got := r.got ++ [⟨sa, data, bad⟩] })

/-- A completion-record write was refused: the queue stops with STOPWHY 4 and E-0x283 is raised (R202). A queue that is being
reset has stopped already and keeps its STOPWHY; the record counts in E-0x280 (R228; DESIGN CHOICE, log entry 106). -/
def recordRefused (s : State) (q : QueueId) : State :=
  let v := queueOf s q
  if v.state == .free || (v.why == 4 && !v.resetting) then s
  else raise (setQueue s q (if v.resetting then { v with lost := v.lost + 1 } else { v with state := .stopped, why := 4 }))
    0x283 167 [(2, q.toNat)]

/-- A completion record has been performed, or refused: the notification is raised and the job is gone (R202, R209). -/
def recordDone (s : State) (q : QueueId) (j : JobSeq) (bad : Option JStatus) : State :=
  match s.job.jobs.find? (fun x => x.q == q && x.j == j) with
  | none => s
  | some x =>
    let s := { s with job := { s.job with jobs := s.job.jobs.filter (fun y => !(y.q == q && y.j == j)) } }
    let s := if x.d.flags.getLsbD 1 then
        raise { s with job := { s.job with notify := tput (0, 0) s.job.notify (queueOf s q).ctx.notify.toNat (q, j) } }
          (0x400 + (queueOf s q).ctx.notify.toNat) 167 [(2, q.toNat), (2, j.toNat)]
      else s
    match bad with
    | some _ => recordRefused s q
    | none => s

/-- Answers a request and ends its part at the bench. `g` is what the completion grants; `wr` says it carries no data. -/
def answer (s : State) (r : Req) (g : Grant) (wr : Bool) (data : Line) (poison : Bool) (bad : Option JStatus) : State :=
  let (s, rqc) := judge s r
  -- issue slots of the tag pipeline: the lookup, and one more for a miss (R176)
  let s := modBench s (benchOfDla r.dla) (fun v => { v with used := v.used + (if r.hit then 1 else 2) })
  let s := match r.org with
    | .host .. => s
    | _ => starveCheck s r.cls (since s r.tin - r.waited)
  let r := { r with rqc := r.rqc || rqc, causeFault := r.causeFault || poison }
  let kind : RespKind := if wr then .cmp g else .memData g
  let data := if poison then 0 else data
  match r.org with
  | .host link member tag =>
    if r.op == .memSpecRd then dropReq s r.id else
    let v : Resp :=
      { id := s.port.nextResp, req := some r.id, link := link, member := member, tag := tag, kind := kind, data := data,
        poison := poison, hs := r.hs, sa := r.sa, devload := 0, cls := r.cls,
        cidx := r.cidx.map (·.2), tin := r.tin, waited := r.waited, hit := r.hit, home := devId s, fault := r.causeFault,
        partner := r.causePartner, coherence := r.causeCoherence, rqc := r.rqc, xl := (heldGeo (winOf s r.win)).xl.setWidth 8,
        snooped := r.snooped, deadline := r.deadline, inFlit := false, left := false, queued := s.now, rsq := none }
    let s := { s with port := { s.port with resp := s.port.resp ++ [v], nextResp := s.port.nextResp + 1 } }
    setReqs s (mapIf (fun x => x.id == r.id) (fun _ => { r with phase := .egress, phaseSince := s.now }) s.cache.reqs)
  | .peer dev tag =>
    if r.op == .memSpecRd then dropReq s r.id else
    let op : RspOp := if r.rqk == .hostSocket then (if wr then .cmp g else .memData g)
                      else if wr then .partDone else .jobData
    let m : PeerRsp :=
      { src := devId s, dst := dev, via := none, resent := false, op := op, tag := tag, rsq := 0, hs := r.hs, sa := r.sa, cls := r.cls,
        status := bad.getD .ok, mismatch := r.mismatch, hit := r.hit, causeFault := r.causeFault,
        causePartner := r.causePartner, causeCoherence := r.causeCoherence, rqc := r.rqc, devload := 0, dsl := 0xFFF,
        poison := poison, data := data, be := BitVec.allOnes 64 }
    let s := peerSend s dev (.rsp m) r.deadline
    setReqs s (mapIf (fun x => x.id == r.id) (fun _ => { r with phase := .egress, phaseSince := s.now }) s.cache.reqs)
  | .step b _ => dropReq (stepAnswer s r.op r.sa b data (if poison then some .poisoned else bad)) r.id
  | .exam .. | .flush _ => dropReq s r.id
  | .fetch q =>
    let s := modQueue s q (fun v => { v with fetched := some ⟨r.sa, data, if poison then some .poisoned else bad⟩ })
    dropReq s r.id
  | .record q j =>
    dropReq (recordDone s q j none) r.id
  | .gone => dropReq s r.id
  | .mgmt =>
    dropReq (emit s (.mgmtData r.sa data (mgmtStatus bad) poison)) r.id
  | .mbox l m => dropReq (mboxReply s l m (poisonCode bad) []) r.id
  | .ring => dropReq (if bad.isNone then s else ringRefused s r.sa (mgmtStatus bad)) r.id

-- ===== writes (R77, R79, R81, R276) =====

/-- Host writes, snoop write-backs and job stores, those of a peer's job and completion records among them (R98). -/
def bypCounted (r : Req) : Bool :=
  isHost r || (match r.rqk with
    | .userQueue | .supervisorQueue => true
    | _ => false)

/-- What every performed write does beside the data: marks (R46), reservations (R223), the poison list (R262), the
bypassed-write count (R98), the writes an IDE failure would distrust (R298). A write that is discarded in a window in target
lost (Table 9-14) is not performed. -/
def performed (s : State) (r : Req) (full poison : Bool) : State :=
  if lostWin s r.win && (wayOfDla s r.dla).isNone then s else
  let s := markReq s r (marking r.op)
  let s := loseResv s r 1 true
  let s := if poison then poisonAdd s r.sa else if full then poisonDel s r.sa else s
  let s := if s.cache.cstate == .bypass && !lostWin s r.win && bypCounted r then
      { s with cache := { s.cache with bypw := s.cache.bypw + 1 } } else s
  match r.org with
  | .host link member _ =>
    match (membersOf s link).find? (fun t => t.1 == member.toNat) with
    | some t => if (linkOf s t.2).ide then modLink s t.2 (fun v => { v with unverified := v.unverified ++ [r.sa] }) else s
    | none => s
  | _ => s

/-- Places a write of `data` under `be` in the write buffer (R81). -/
def placeNew (s : State) (r : Req) (slot : Nat) (data : Line) (be : BitVec 64) (poison : Bool) : State :=
  let b := benchOfDla r.dla
  let e : WEntry := { slot := BitVec.ofNat 6 slot, dla := lineAddr r.dla, sa := lineSa r.sa, data := data, be := be,
                      poison := poison, alloc := s.now, drain := .fresh, win := r.win, policy := r.policy, insert := r.insert }
  setW s b (wEntries s b ++ [e])

def placeMerge (s : State) (b : Bench) (e : WEntry) (data : Line) (be : BitVec 64) (poison : Bool) : State :=
  modW s b e.slot (fun e =>
    if be = BitVec.allOnes 64 then { e with data := data, be := be, poison := poison }
    else if e.poison then { e with be := e.be ||| be }
    else { e with data := mergeLine e.data data be, be := e.be ||| be, poison := poison })

/-- A write lost in a window in target lost (Table 9-14). -/
def discardLost (s : State) (w : WinId) (b : Bench) (dla : DLA) : State :=
  let x := (heldGeo (winOf s w)).xl
  let s := { s with rel := { s.rel with tlDiscarded := s.rel.tlDiscarded + 1 } }
  let s := logRec s { LogRec.init with type := 0x10, sev := 2, unit := 4, island := BitVec.ofNat 16 (clusterIsland b),
                                       addr := (saOf s dla).setWidth 64, dla := dla.setWidth 64, bench := b.setWidth 16,
                                       detail := x.setWidth 64 }
  raiseFirst s 0x31A (clusterIsland b) [(8, (saOf s dla).toNat)]

-- ===== draining an entry (R82, R276) =====

/-- Stores a merged line in the data array way `w` and updates its record. -/
def storeSector (s : State) (dla : DLA) (w : Nat) (data : Line) (poison dirty : Bool) : State :=
  let k := tagKey (benchOfDla dla) (lsOfDla dla) w
  let s := sectorWrite s dla w data poison
  let i : BitVec 64 := bit (secOfDla dla)
  let t := tagAt s k
  let s := tagPut s k { t with valid := t.valid ||| i, dirty := if dirty then t.dirty ||| i else t.dirty &&& ~~~i }
  if poison then poisonAdd s (saOf s dla) else s

/-- A read outstanding for a fill of the line. -/
def fillsLine (dla : DLA) (x : XReq) : Bool :=
  !x.write && lineAddr x.dla == lineAddr dla && (match x.purpose with
    | .fill .. => true
    | _ => false)

/-- A fill that was sent before a write of its line to the expander brings older data: nothing takes it (R83). -/
def voidFill (s : State) (b : Bench) (e : WEntry) : State :=
  let l := mapIf (fillsLine e.dla) (fun x => { x with purpose := .drainFetch b e.slot }) s.cache.xreqs
  { s with cache := { s.cache with xreqs := l } }

/-- Sends a write of the entry to its expander and marks it so. -/
def drainWrite (s : State) (b : Bench) (e : WEntry) (data : Line) (be : BitVec 64) (poison : Bool) : State :=
  let s := voidFill s b e
  let g := heldGeo (winOf s e.win)
  let rid := s.cache.nextX
  let s := xsend s g.xl true e.dla e.sa (dpaOf g e.dla) data be poison (.drainWrite b e.slot)
  modW s b e.slot (fun e => { e with drain := .writing rid })

/-- The entry's line is complete: store it where its policy places it, and send it on where the policy writes on (R76,
R82, Table 3-3). `way` is the way it is merged into, if any. -/
def drainPlace (s : State) (b : Bench) (e : WEntry) (way : Option Nat) (data : Line) (poison : Bool) : State :=
  let lost := lostWin s e.win
  let through := e.policy != 0 || s.cache.cstate != .enabled
  let s := match way with
    | some w =>
      let s := storeSector s e.dla w data poison (lost || !through)
      if lost then makeOrphan s (tagKey b (lsOfDla e.dla) w) else s
    | none => s
  if lost then
    let s := if way.isNone then discardLost s e.win b e.dla else s
    modW s b e.slot (fun e => { e with drain := .done })
  else if through || way.isNone then drainWrite s b e data (BitVec.allOnes 64) poison
  else modW s b e.slot (fun e => { e with drain := .done })

/-- The way a drain stores into: the block's way if present, its record read through its checks; else a new one where the
policy allocates. False: a check led to containment. -/
def drainWay (s : State) (e : WEntry) : State × Bool × Option Nat :=
  let b := benchOfDla e.dla
  let ls := lsOfDla e.dla
  if noLookup s e.win e.policy b then (s, true, none)
  else match wayOfDla s e.dla with
    | some w =>
      (match recRead s b ls w with
       | (s, false) => (s, false, none)
       | (s, true) =>
         let s := onHit s (tagKey b ls w)
         let valid := (tagAt s (tagKey b ls w)).valid.getLsbD (secOfDla e.dla)
         (s, true, if valid || e.policy != 2 || lostWin s e.win then some w else none))
    | none =>
      match setRead s b ls with
      | (s, false) => (s, false, none)
      | (s, true) =>
        if e.policy == 2 || noAlloc s e.win e.policy e.insert b || lostWin s e.win then (s, true, none)
        else
          let (t, way) := allocate s e.dla e.win e.insert
          (t, stood s t, way)

/-- Requests that wait for the far-memory sector of this line. -/
def fillWaiters (s : State) (dla : DLA) : List Nat :=
  (s.cache.reqs.filter (fun r => r.phase == .fill && lineOf r == dla.toNat / 64)).map (·.id)

/-- The fill of a line that is outstanding, if one is (R71). -/
def fillOut (s : State) (dla : DLA) : Option XReq := s.cache.xreqs.find? (fillsLine dla)

/-- The entry of a bench whose merge waits for this read. -/
def fetchingEntry (s : State) (b : Bench) (rid : Nat) : Option WEntry :=
  (wEntries s b).find? (fun e => e.drain == .fetching rid)

/-- A drain fetches the sector it merges into; one whose fill is outstanding waits for that fill (R71, R72). -/
def drainFetch (s : State) (b : Bench) (e : WEntry) : State :=
  match fillOut s e.dla with
  | some x => modW s b e.slot (fun e => { e with drain := .fetching x.rid })
  | none =>
    let rid := s.cache.nextX
    let g := heldGeo (winOf s e.win)
    let s := xsend s g.xl false e.dla e.sa (dpaOf g e.dla) 0 (BitVec.allOnes 64) false (.drainFetch b e.slot)
    modW s b e.slot (fun e => { e with drain := .fetching rid })

/-- Reads of the line that wait for far memory wait for its drain instead (R83). -/
def holdReads (s : State) (dla : DLA) : State := (fillWaiters s dla).foldl (fun s i => toPhase s i .wbuf) s

/-- A row remap holds the set's lock (R268). -/
def remapLocks (s : State) (k : Nat) : Bool := s.rel.remapRun.any (fun p => p.2.sets.contains k)

/-- The set is locked within its bench (R66, R268); no lock outlives the device's going to containment. -/
def setLocked (s : State) (b : Bench) (ls : BitVec 15) : Bool :=
  presented s && (s.cache.setReads.contains (setKey b ls) || remapLocks s (setKey b ls))

/-- An entry may start to drain: its set is not locked and no older entry of its line is still draining (R66, R81, R127). -/
def drainReady (s : State) (b : Bench) (slot : BitVec 6) : Option WEntry :=
  match (wEntries s b).find? (fun e => e.slot == slot && e.drain == .fresh) with
  | some e => if setLocked s b (lsOfDla e.dla) || (wDraining s e.dla).isSome then none else some e
  | none => none

/-- A drain whose entry does not cover the line merges it over the sector of way `w`, of the eviction queue, or of far
memory (R72, R82, Table 9-14). -/
def drainMerge (s : State) (b : Bench) (e : WEntry) (w : Nat) : State :=
  if (tagAt s (tagKey b (lsOfDla e.dla) w)).valid.getLsbD (secOfDla e.dla) then
    match sectorRead s e.dla w 5 with
    | (s, .data d) => drainPlace s b e (some w) (mergeLine d e.data e.be) e.poison
    | (s, .poison) => drainPlace s b e (some w) 0 true
    | (s, .refetch) => drainFetch s b e
  else if lostWin s e.win then drainPlace s b e (some w) 0 true
  else match evqOf s e.dla with
    | some v => drainPlace s b e (some w) (mergeLine v.data e.data e.be) (v.poison || e.poison)
    | none => drainFetch s b e

/-- An entry starts to drain (R82); one that may not yet stays as it is. -/
def startDrain (s : State) (b : Bench) (slot : BitVec 6) : State :=
  match drainReady s b slot with
  | none => s
  | some e =>
    match drainWay (holdReads (countBench s b 0x00B 0) e.dla) e with
    | (s, false, _) => s
    | (s, true, way) =>
      if e.be = BitVec.allOnes 64 then drainPlace s b e way e.data e.poison
      else match way with
        | some w => drainMerge s b e w
        | none =>
          if lostWin s e.win then
            modW (discardLost s e.win b e.dla) b slot (fun e => { e with drain := .done })
          else drainWrite s b e e.data e.be e.poison

/-- The oldest entry that may start to drain for a waiting write (R82). -/
def forceDrain (s : State) (b : Bench) (l : List Nat) : State :=
  match ((wEntries s b).filter (fun e => e.drain == .fresh && l.contains e.slot.toNat)).head? with
  | some e => startDrain s b e.slot
  | none => s

/-- Completes a write, or the store of an atomic: the line is the bench's (R110). Answers none when the write has to wait; its
phase then says for what. -/
def placeWrite (s : State) (r : Req) (data : Line) (be : BitVec 64) (poison : Bool) : State × Bool :=
  let b := benchOfDla r.dla
  if lostWin s r.win && (wayOfDla s r.dla).isNone then (discardLost s r.win b r.dla, true)
  else if (evqCurrent s r.dla).isSome then (modReq (toPhase s r.id .evq) r.id (missNow s), false)
  else match wFresh s r.dla with
    | some e => (countBench (placeMerge s b e data be poison) b 0x00A (classQual r.cls), true)
    | none =>
      if (wDraining s r.dla).isSome then (toPhase s r.id .wbuf, false)
      else match freeSlot s b (slotsFor r) with
        | some n => (placeNew s r n data be poison, true)
        | none =>
          let s := countBench s b 0x00C (classQual r.cls)
          (toPhase (forceDrain s b (slotsFor r)) r.id .wbuf, false)

-- ===== the snoop-filter state after a request (Table 4-3) =====

/-- The request is granted the line exclusive, by Table 4-3; a MemRdData when no other socket holds the line. -/
def grantsE (s : State) (r : Req) : Bool :=
  let e := sfOf s r.dla
  match r.op with
  | .memRd .a | .memInv .a => true
  | .memRdData => !r.snoopDone && (e.state == .invalid || e.pres == bit r.hs.toNat)
  | _ => false

def sfAfter (s : State) (r : Req) : State × Grant :=
  let e := sfOf s r.dla
  let h : BitVec 16 := bit r.hs.toNat
  let put := fun (s : State) (st : SfState) (p : BitVec 16) => sfSetWays s r.dla st p (ownWays s r)
  match r.op with
  | .memRd .s => (startHold (put s .shared (if e.state == .any && e.pres == h then h else e.pres ||| h)) r.dla, .cmpS)
  | .memRd .a | .memInv .a => (startHold (put s .any h) r.dla, .cmpE)
  | .memRdData =>
    if grantsE s r then (startHold (put s .any h) r.dla, .cmpE)
    else (startHold (put s .shared (e.pres ||| h)) r.dla, .cmpS)
  | .memClnEvct | .memInv _ => (sfRemove s r.dla r.hs, .cmp)
  | .memWr .i | .memWrPtl .i => (sfSetLine s r.dla .invalid 0, .cmp)
  | .memWr .s | .memWrPtl .s => (startHold (put s .shared h) r.dla, .cmp)
  | .memWr .a | .memWrPtl .a => (startHold (put s .any h) r.dla, .cmp)
  | _ => (s, .none)

-- ===== the data a request gets =====

/-- What a request does with its line once the data is at hand; the line's current value is `data`. -/
def finish (s : State) (r : Req) (data : Line) (poison : Bool) : State :=
  match r.op with
  | .prefetchLine _ => answer s r .none true 0 false none
  | .atomic kind size8 off v1 v2 =>
    let n := if size8 then 8 else 4
    let o := off.toNat * 4
    let old := lineField data o n
    let msk := BitVec.allOnes 64 >>> (64 - 8 * n)
    let new := if kind = 0 then (if old = v2 then v1 else old) else if kind = 1 then (old + v1) &&& msk else v1
    if poison then answer (markReq s r true) r .none false 0 true (some .poisoned)
    else if kind = 0 && old != v2 then
      answer (countBench (markReq s r true) (benchOfDla r.dla) 0x022 0) r .none false (lineAt old 0) false none
    else
      match placeWrite s r (lineAt new o) (beRange o n) false with
      | (s, false) => s
      | (s, true) =>
        let s := countBench s (benchOfDla r.dla) 0x022 0
        answer (performed s r false false) r .none false (lineAt old 0) false none
  | .reserve size8 off =>
    let n := if size8 then 8 else 4
    if poison then answer (markReq s r false) r .none false 0 true (some .poisoned) else
    let b := benchOfDla r.dla
    let dev := match r.org with
      | .peer d _ => d
      | _ => devId s
    let mine := fun (v : Resv) => v.queue == r.queue && v.dev == dev
    -- the queue's previous reservation is cleared, under a later epoch as lost by reset (R223)
    let s := (s.cache.bench.map (·.1)).foldl (fun s k =>
      clearResv (clearResv s 5 (fun v => mine v && v.epoch != r.epoch) k) 6 mine k) s
    let s := match (benchOf s b).resv.head? with
      | some o => if 64 ≤ (benchOf s b).resv.length then clearResv s 0 (fun v => v == o) b.toNat else s
      | none => s
    let s := modBench s b (fun v => { v with resv := v.resv ++ [⟨dev, r.queue, r.epoch, granuleOf r.sa, s.now⟩] })
    let s := countBench s b 0x022 0
    answer (markReq s r false) r .none false (lineAt (lineField data (off.toNat * 4) n) 0) false none
  | op =>
    let (s, g) := sfAfter s r
    let s := if unmarked op then s else markReq s r (marking op || g == .cmpE)
    answer s r g false data poison (if poison then some .poisoned else none)

/-- Merges the line's write-buffer entry over the data, as R83 says. -/
def mergedRead (s : State) (r : Req) (data : Line) (poison : Bool) : Line × Bool :=
  match wFresh s r.dla with
  | some e => if e.be = BitVec.allOnes 64 then (e.data, e.poison) else (mergeLine data e.data e.be, poison || e.poison)
  | none => (data, poison)

/-- A read goes to far memory (R69, R74), or waits for a read of the line that is outstanding, or for the line's drain (R83).
In a target-lost window nothing is fetched (R276). -/
def farRead (s : State) (r : Req) (way : Option Nat) (secs : List Nat) : State :=
  if lostWin s r.win then finish s (missNow s r) 0 true else
  let s := modReq s r.id (missNow s)
  if (wDraining s r.dla).isSome then toPhase s r.id .wbuf
  else toPhase (fetchSectors s r.dla r.win r.cls way secs) r.id .fill

/-- A read that no valid sector of the array serves is a miss; the eviction queue or far memory serves it (R79, R134). -/
def readMiss (s : State) (r : Req) (way : Option Nat) (secs : List Nat) : State :=
  match evqOf s r.dla with
  | some e =>
    let s := countBench s (benchOfDla r.dla) 0x00E 0
    let (d, p) := mergedRead s r e.data e.poison
    finish s r d p
  | none => farRead s r way secs

/-- A read whose line no entry covers: its record decides (R65, R69 to R71). -/
def readCache (s : State) (r : Req) : State :=
  let b := benchOfDla r.dla
  let ls := lsOfDla r.dla
  let sec := secOfDla r.dla
  if noLookup s r.win r.policy b then readMiss s r none [sec]
  else match findWay s b ls (tagOfDla r.dla) with
    | some w =>
      let s := onHit s (tagKey b ls w)
      if (tagAt s (tagKey b ls w)).valid.getLsbD sec then toPhase s r.id .sector
      else readMiss s r (some w) (spanOf r.span sec)
    | none =>
      if (evqOf s r.dla).isSome || lostWin s r.win || noAlloc s r.win r.policy r.insert b then readMiss s r none [sec]
      else match allocate s r.dla r.win r.insert with
        | (t, some w) => farRead t r (some w) (spanOf r.span sec)
        | (t, none) => if stood s t then farRead t r none [sec] else t

/-- The read path of a request whose back-invalidates are done and whose lookup has been made (R65, R69 to R71, R83). -/
def readPath (s : State) (r : Req) : State :=
  match wFresh s r.dla with
  | some e =>
    if e.be = BitVec.allOnes 64 then finish s r e.data e.poison
    else if (wDraining s r.dla).isSome then toPhase s r.id .wbuf
    else readCache (countBench s (benchOfDla r.dla) 0x00D (classQual r.cls)) r
  | none => if (wDraining s r.dla).isSome then toPhase s r.id .wbuf else readCache s r

end Sys2Proof.Machine
end

