-- ==== Sys2Proof/Machine/Exam.lean ====
section
/-!
DEFINITION. Examinations: what a bench does to one set or block of its own for a SWEEP, SCRUB, RANGE or DRAIN step, wherever the
step runs (R80, R90, R91, R173, R257, R258), and the row remap that a hard fault starts (R268, R269).
-/

namespace Sys2Proof.Machine

-- ===== remaps (R268, R269) =====

/-- Key of a bank: stack, channel and bank. -/
def bankKey (st cw : Nat) : Nat := st * 512 + cw / 2 ^ 22
def sparesPassed (s : State) (st cw : Nat) : Nat := tget 0 s.rel.spares (bankKey st cw)
/-- Faulty spare rows of the bank that are still ahead (R367). -/
def sparesBad (s : State) (st cw : Nat) : List Nat :=
  (s.rel.badSpare.filter (fun k => k / 2 ^ 17 == bankKey st cw)).map (· % 2 ^ 17)
def sparesUsed (s : State) (st cw : Nat) : Nat := sparesPassed s st cw + (sparesBad s st cw).length

/-- The spare row that the next remap of the bank takes. -/
def nextSpare (s : State) (st cw : Nat) : Option Nat :=
  ((List.range 512).find? (fun k => sparesPassed s st cw ≤ k && !(sparesBad s st cw).contains (65856 + k))).map (65856 + ·)

/-- Takes a spare row: it and the faulty ones before it are passed. -/
def takeSpare (s : State) (st cw spare : Nat) : State :=
  { s with rel := { s.rel with
    spares := tput 0 s.rel.spares (bankKey st cw) (spare - 65855)
    badSpare := s.rel.badSpare.filter (fun k => !(k / 2 ^ 17 == bankKey st cw && k % 2 ^ 17 < spare)) } }
def rowOf (cw : Nat) : Nat := (cw / 32) % 2 ^ 17

/-- The logical row that a codeword address names: itself, or the row that the named spare row replaces. -/
def logicalCw (s : State) (st cw : Nat) : Nat :=
  match s.rel.remap.find? (fun p => p.1 / 2 ^ 17 == bankKey st cw && p.2.toNat == rowOf cw) with
  | some p => (cw / 2 ^ 22) * 2 ^ 22 + (p.1 % 2 ^ 17) * 32 + cw % 32
  | none => cw

/-- A bench of a stack. -/
def stackBench (st bi : Nat) : Bench := BitVec.ofNat 8 ((st / 2) * 64 + (st % 2) * 32 + bi)

/-- The sets that have a codeword in a row (R249, R250): each a bench and a local set. -/
def rowSets (st cw : Nat) : List (Bench × BitVec 15) :=
  let ch := cw / 2 ^ 26
  let bank := (cw / 2 ^ 22) % 16
  let row := rowOf cw
  if row < 65536 then [(stackBench st (row / 2048), BitVec.ofNat 15 ((row / 2) % 1024 * 32 + ch))]
  else if row < 65856 then
    (List.range 32).map (fun col =>
      let q := ((row - 65536) * 32 + col) * 16 + bank
      (stackBench st (q / 5 / 1024), BitVec.ofNat 15 (q / 5 % 1024 * 32 + ch)))
  else []

/-- Starts a remap of the row of `cw` (R268): the status of the write. -/
def remapStart (s : State) (st cw : Nat) (auto : Bool) : State × DStatus :=
  if 66368 ≤ rowOf cw || s.rel.remapRun.any (fun p => p.1 == st) then (s, .range)
  else match nextSpare s st cw with
  | none => (s, .full)
  | some spare =>
    let l := logicalCw s st cw
    let run : RemapRun := { cw := BitVec.ofNat 31 l, spare := BitVec.ofNat 17 spare, auto := auto,
                            sets := (rowSets st l).map (fun x => setKey x.1 x.2) }
    let s := takeSpare s st cw spare
    ({ s with rel := { s.rel with remapRun := tput ⟨0, 0, false, []⟩ s.rel.remapRun st run } }, .ok)

/-- The row of `cw` is being remapped, or waits for that. -/
def remapping (s : State) (st cw : Nat) : Bool :=
  s.rel.remapRun.any (fun p => p.1 == st && rowKey st p.2.cw.toNat == rowKey st (logicalCw s st cw)) ||
  s.rel.remapWait.any (fun p => p.1 == st && rowKey st p.2 == rowKey st cw)

/-- An automatic remap starts, or waits for the remap of the stack that is running (R269). -/
def autoRemap (s : State) (st cw : Nat) : State :=
  if remapping s st cw then s
  else if s.rel.remapRun.any (fun p => p.1 == st) then { s with rel := { s.rel with remapWait := s.rel.remapWait ++ [(st, cw)] } }
  else (remapStart s st cw true).1

/-- A remap of the stack has ended: the next automatic one starts, while the bank still has more free spare rows than the reserve
(R269). -/
def nextRemap (s : State) (st : Nat) : State :=
  match takeFirst (fun p => p.1 == st) s.rel.remapWait with
  | none => s
  | some ((_, cw), rest) =>
    let s := { s with rel := { s.rel with remapWait := rest } }
    if s.rel.reserve.toNat < 512 - sparesUsed s st cw then autoRemap s st cw else s

/-- A hard fault (R258, R269): logged, and its row remapped while the bank has more free spare rows than the reserve. -/
def hardFault (s : State) (st cw : Nat) (r : LogRec) : State :=
  let s := outcomeCount s st 5
  let s := logRec s { r with flags := r.flags ||| 1 }
  let s := raise s 0x303 (144 + st) [(1, st), (4, cw)]
  if s.rel.reserve.toNat < 512 - sparesUsed s st cw then autoRemap s st cw else s

-- ===== what scrub does with a codeword (R258) =====

/-- The codeword at `cw` decodes clean or poison. -/
def scrubClean (s : State) (st cw : Nat) : Bool :=
  match decode (cwOf s (physCw s st cw)) with
  | .clean | .poison => true
  | _ => false

/-- The device and the kind of a correctable outcome. -/
def correctable : Outcome2 → Bool
  | .corrected _ | .checkOnly _ => true
  | _ => false

/-- The record of a hard fault: of the kind and device that the second read found, else of those that the first did (R258,
Table 9-7). -/
def hardRec (r : LogRec) (first second : Outcome2) (meta_ : Bool) (m : Nat) : LogRec :=
  let d := BitVec.ofNat 64 (if meta_ then m else 0)
  match (if correctable second then second else first) with
  | .checkOnly n =>
    { r with type := if meta_ then 0x16 else 2, sev := 1, unit := if meta_ then 1 else 0, device := BitVec.ofNat 8 n, detail := d }
  | .corrected n =>
    { r with type := if meta_ then 7 else 1, sev := 0, unit := if meta_ then 1 else 0, device := BitVec.ofNat 8 n, detail := d }
  | _ => r

/-- A data codeword of way `w`: its record, its read, its rewrite, its second read. -/
def scrubData (s : State) (b : Bench) (ls : BitVec 15) (w sec : Nat) : State :=
  let st := (stackOf b).toNat
  let cw := dataCw b ls w sec
  if scrubClean s st cw then s else
  let t := tagAt s (tagKey b ls w)
  let present := t.state == .valid || t.state == .orphan
  let valid := present && t.valid.getLsbD sec
  let dla := dlaOfBlk (blkOf b ls t.tag) sec
  let c := cwOf s (physCw s st cw)
  let r := cwRec s b ls w cw c dla true
  let r := if present then r else { r with addr := 0, dla := 0, flags := r.flags ||| 16 }
  let o := decode c
  if correctable o then
    let s := noteCorrected s b r o false 0
    let s := cwWrite s st cw (payload c) false (dataHit s st (if present then some dla else none)) 0 dla
    let o2 := decode (cwOf s (physCw s st cw))
    if o2 != .clean then hardFault s st cw (hardRec r o o2 false 0) else s
  else if valid then (sectorReadAs true s dla w 6).1
  else
    let s := cwWrite s st cw 0 false (dataHit s st none) 0 dla
    logRec (outcomeCount s st 4) { r with type := 5, sev := 2, unit := 0 }

/-- Metadata slot `m` of a set: false when it led to containment. -/
def scrubMeta (s : State) (b : Bench) (ls : BitVec 15) (m : Nat) : State × Bool :=
  let st := (stackOf b).toNat
  let cw := metaCw b ls m
  if cwOf s (physCw s st cw) == Codeword.init then (s, true) else
  let o := decodeAs (m == 0) (cwOf s (physCw s st cw))
  match metaReadAs true s b ls m with
  | (s, false) => (s, false)
  | (s, true) =>
    if !correctable o then (s, true) else
    let s := metaWrite s b ls m
    let c := cwOf s (physCw s st cw)
    let o2 := decodeAs (m == 0) c
    let r := { cwRec s b ls 0 cw c (dlaOfBlk (blkOf b ls 0) 0) true with flags := 18 }
    if o2 != .clean then (hardFault s st cw (hardRec r o o2 true m), true) else (s, true)

/-- The codewords of a set that its scrub reads (R257); retired ways and the sets of a retired stack are skipped. -/
def scrubReads (s : State) (b : Bench) (ls : BitVec 15) : Nat :=
  if stackRetired s b then 0 else
  64 * ((List.range 16).filter (fun w => (tagAt s (tagKey b ls w)).state != .retired)).length + 5

/-- One set. -/
def scrubSet (s : State) (b : Bench) (ls : BitVec 15) : State :=
  if stackRetired s b || s.rel.array.isEmpty then s else
  let s := (List.range 16).foldl (fun s w =>
    if (tagAt s (tagKey b ls w)).state == .retired then s
    else (List.range 64).foldl (fun s sec => scrubData s b ls w sec) s) s
  ((List.range 5).foldl (fun (a : State × Bool) m => if a.2 then scrubMeta a.1 b ls m else a) (s, true)).1

-- ===== one block (R90, R91, R97, R99, R271) =====

/-- What a RANGE step is for, in the QUEUE field that only JOB steps use: 0 clean, 1 clean-invalidate, 2 invalidate (R90),
3 the cache clean (R97), 4 invalidate-all (R99), 8 + s the retirement of stack s (R271). A DRAIN step has its window there. -/
def pClean : Nat := 0
def pCleanInv : Nat := 1
def pInvalidate : Nat := 2
def pCacheClean : Nat := 3
def pInvalidateAll : Nat := 4
def pStack (st : Stack) : Nat := 8 + st.toNat

def addDiscard (s : State) (n : Nat) : State :=
  { s with cache := { s.cache with discarded := s.cache.discarded + BitVec.ofNat 64 n } }
def addSkip (s : State) : State := { s with cache := { s.cache with orphSkipped := s.cache.orphSkipped + 1 } }

/-- The block of a way becomes invalid (R223 cause 2). -/
def dropBlock (s : State) (k : Nat) (st : BState) : State :=
  tagPut (loseBlock s (blkOfKey s k)) k { TagRec.init with state := st }

def maintPurpose : RangeKind → Nat
  | .clean => pClean
  | .cleanInvalidate => pCleanInv
  | .invalidate => pInvalidate

/-- A block of the running range operation has been processed (R92, BCH_MPROG). -/
def countBlock (s : State) (p : Nat) : State :=
  match s.cache.mOp with
  | some (.range k _ _) => if maintPurpose k = p then { s with cache := { s.cache with mProg := s.cache.mProg + 1 } } else s
  | _ => s

/-- What a purpose does to a present block whose record has been read; false: the eviction queue has no room for its rest. -/
def rangeWay (s : State) (p k : Nat) : State × Bool :=
  let t := tagAt s k
  if p = pInvalidate then (dropBlock (addDiscard s (popCount t.dirty)) k .invalid, true)
  else if t.state == .orphan then (if p ≤ 3 then addSkip s else s, true)
  else if p = pInvalidateAll then (dropBlock s k .invalid, true)
  else if unwritable s k then (if p ≤ 3 then addSkip (makeOrphan s k) else makeOrphan s k, true)
  else match (if t.dirty = 0 then (s, true) else cleanBlock s k) with
    | (s, false) => (s, false)
    | (s, true) => (if p = pClean || p = pCacheClean then s else dropBlock s k .invalid, true)

/-- Processes a block for a purpose at its home bench: the set is read, then the block's record (R64, R91). -/
def rangeBlock (s : State) (p blk : Nat) : State × Bool :=
  let n : BitVec 33 := BitVec.ofNat 33 blk
  let b := benchOfBlk n
  let ls := lsOfBlk n
  match setRead s b ls with
  | (s, false) => (s, false)
  | (s, true) =>
    match findWay s b ls (tagOfBlk n) with
    | none => (countBlock s p, true)
    | some w =>
      match recRead s b ls w with
      | (s, false) => (s, false)
      | (s, true) =>
        match rangeWay s p (tagKey b ls w) with
        | (s, true) => (countBlock s p, true)
        | (s, false) => (s, false)

/-- A block of a draining window that holds no sector leaves the cache (R54). -/
def emptyBlock (s : State) (blk : Nat) : State × Bool :=
  let n : BitVec 33 := BitVec.ofNat 33 blk
  let b := benchOfBlk n
  let ls := lsOfBlk n
  match setRead s b ls with
  | (s, false) => (s, false)
  | (s, true) =>
    match findWay s b ls (tagOfBlk n) with
    | none => (s, true)
    | some w =>
      match recRead s b ls w with
      | (s, false) => (s, false)
      | (s, true) =>
        let k := tagKey b ls w
        (if (tagAt s k).state == .valid && (tagAt s k).valid == 0 then dropBlock s k .invalid else s, true)

-- ===== one set (R80, R257) =====

/-- A sweep acts on a way that is valid, at rank 3, with dirty sectors; never on an orphan (R80). -/
def sweepable (t : TagRec) : Bool := t.state == .valid && t.rank == 3 && t.dirty != 0

/-- One way of a swept set; false: it could not be finished. -/
def sweepWay (b : Bench) (ls : BitVec 15) (a : State × Bool) (w : Nat) : State × Bool :=
  let k := tagKey b ls w
  if !a.2 || !sweepable (tagAt a.1 k) then a
  else match recRead a.1 b ls w with
    | (s, false) => (s, false)
    | (s, true) => if unwritable s k then (makeOrphan s k, true) else cleanBlock s k

/-- Writes back the dirty sectors of the rank-3 blocks of a set (R80). -/
def sweepSet (s : State) (b : Bench) (ls : BitVec 15) : State × Bool :=
  match setRead s b ls with
  | (s, false) => (s, false)
  | (s, true) => (List.range 16).foldl (sweepWay b ls) (s, true)

/-- A set of a scrub pass that still runs is scrubbed (R257, R259). -/
def scrubExam (s : State) (b : Bench) (pass n : Nat) : State :=
  if s.rel.scrubOn && pass == (benchOf s b).scrubPass.toNat % 65536 then
    let ls := BitVec.ofNat 15 n
    modBench (countItems (scrubSet s b ls) b 0x024 0 (scrubReads s b ls)) b (fun v => { v with scrubDone := v.scrubDone + 1 })
  else s

/-- An examination by the bench that owns the set or block; false: it is not finished. -/
def examWork (s : State) (b : Bench) (k : StepKind) (p n : Nat) : State × Bool :=
  match k with
  | .sweep => sweepSet s b (BitVec.ofNat 15 n)
  | .scrub => (scrubExam s b p n, true)
  | .range => rangeBlock s p n
  | .drain => emptyBlock s n
  | .job | .assay => (s, true)

/-- A request that is an examination is performed when its set is not locked; while the eviction queue has no room for the rest
of what it writes back it waits, and the set is free meanwhile (R66, R78, R149). -/
def examine (s : State) (r : Req) (k : StepKind) (p n : Nat) : State :=
  let b := benchOfDla r.dla
  if setLocked s b (lsOfDla r.dla) then toPhase s r.id .setHead
  else
    let (t, done) := examWork s b k p n
    if !stood s t then t else if done then answer t r .none true 0 false none else toPhase t r.id .evq

end Sys2Proof.Machine
end

