-- ==== Sys2Proof/Machine/Line.lean ====
section
/-!
DEFINITION. The order of a line: a request at the head of its line's order is checked against the snoop filter, sends its
back-invalidates, evicts for an entry, and is performed (R86, R107 to R126); `settle` repeats this until nothing moves.
-/

namespace Sys2Proof.Machine

/-- Ways of a snoop-filter set that may be evicted (R120). A tracker whose answer has been decided, and whose response has
only to leave, works on its line no longer (DESIGN CHOICE, log entry 102). -/
def sfEligible (s : State) (dla : DLA) : List Nat :=
  let b := benchOfDla dla
  let set := sfSet (lineKey dla)
  (List.range 16).filter (fun w =>
    let e := sfEntry s (sfKey b set w)
    let d := dlaOfKey b e.tag set
    (e.state == .shared || e.state == .any) && !held s d &&
    !(s.cache.reqs.any (fun r => r.pool.isSome && r.phase != .egress && r.dla.toNat / 64 == d.toNat / 64)))

/-- A free way of the set is another request's: one that installs an entry for a line not tracked yet, and that is past the
check of the set or had a way freed for it (R120, R122). -/
def ownsWay (s : State) (b : Bench) (set : Nat) (r : Req) : Bool :=
  r.pool.isSome && grantsCopy r.op && isHost r && benchOfDla r.dla == b && sfSet (lineKey r.dla) == set &&
  (match r.phase with
   | .line => r.wayFreed || r.snoopDone
   | .lane | .trapped | .hold | .victim | .egress => false
   | .snoop | .data | .setHead | .sector | .fill | .wbuf | .evq => true) && (sfFind s r.dla).isNone

/-- No way of the line's set is free for a request that must install an entry. -/
def sfFull (s : State) (r : Req) : Bool :=
  let b := benchOfDla r.dla
  let set := sfSet (lineKey r.dla)
  !r.wayFreed && ((List.range 16).filter (fun w => (sfEntry s (sfKey b set w)).state == .invalid)).length ≤
    (s.cache.reqs.filter (fun q => q.id != r.id && ownsWay s b set q)).length

/-- Issues the back-invalidates of a request and notes what it waits for (R111, R113, R129). -/
def sendSnoops (s : State) (r : Req) (dla : DLA) (l : List (HostSock × SnpKind)) (ev wasAny : Bool) : State :=
  let s := l.foldl (fun s t => issueSnoop s r.id dla t.1 t.2 ev wasAny) s
  let m : BitVec 16 := l.foldl (fun m t => m ||| bit t.1.toNat) 0
  let own : Bool := match r.op with
    | .condstore .. => !ev
    | _ => false
  let s := loseResv s { r with sa := saOf s dla } 3 own
  modReq (toPhase s r.id (if ev then .victim else .snoop)) r.id
    (fun r => { r with snooped := r.snooped ||| m, causeCoherence := true })

/-- R122: evicts a snoop-filter entry for a request, or lets it wait. -/
def sfEvict (s : State) (r : Req) : State :=
  let b := benchOfDla r.dla
  let set := sfSet (lineKey r.dla)
  let el := sfEligible s r.dla
  if el.isEmpty then modReq s r.id (fun r => { r with causeCoherence := true })
  else
    let w := treeWalk (tget 0 s.snoop.trees (b.toNat * 16384 + set)) el 4 1
    let e := sfEntry s (sfKey b set w)
    let d := dlaOfKey b e.tag set
    let t := (bitsOf e.pres).map (fun n => ((BitVec.ofNat 4 n : HostSock), SnpKind.inv))
    if 16 < snoopSlots s b + t.length then s
    else
      let s := sfWrite s b set w { e with state := .busy }
      let s := { s with snoop := { s.snoop with evictions := s.snoop.evictions + 1 } }
      let s := modReq (countBench s b 0x014 0) r.id (fun r => { r with way := some (BitVec.ofNat 4 w) })
      sendSnoops s r d t true (e.state == .any)

/-- A CONDSTORE's check of its queue's reservation at the head of the line's order (R223, R224): true when it may write. -/
def takeResv (s : State) (r : Req) : State × Bool :=
  let b := benchOfDla r.dla
  let dev := match r.org with
    | .peer d _ => d
    | _ => devId s
  let mine := fun (v : Resv) => v.queue == r.queue && v.dev == dev
  let s := clearResv s 5 (fun v => mine v && v.epoch != r.epoch) b.toNat
  let s := clearResv s 4 (fun v => mine v && 64000 < since s v.time) b.toNat
  let good := fun (v : Resv) => mine v && v.granule == granuleOf r.sa
  let ok := (benchOf s b).resv.any good
  let s := modBench s b (fun v => { v with resv := v.resv.filter (fun x => !good x) })
  -- a reservation of the queue that does not cover the address is cleared, wherever it is held
  ((s.cache.bench.map (·.1)).foldl (fun s k => clearResv s 6 mine k) s, ok)

/-- A CONDSTORE takes its reservation once, or is answered as lost; every other request goes on (R224). -/
def resvOk (s : State) (r : Req) : State × Bool :=
  match r.op, r.resvTaken with
  | .condstore .., false =>
    (match takeResv s r with
     | (s, true) => (modReq s r.id (fun r => { r with resvTaken := true }), true)
     | (s, false) =>
       (answer (markReq (countBench s (benchOfDla r.dla) 0x022 0) r true) r .none true 0 false
         (some .reservationLost), false))
  | _, _ => (s, true)

/-- The line's write-buffer entry must have drained first (R84): true when it has. -/
def drained (s : State) (r : Req) : State × Bool :=
  match wFresh s r.dla with
  | some e => (toPhase (startDrain s (benchOfDla r.dla) e.slot) r.id .wbuf, false)
  | none => if (wDraining s r.dla).isSome then (toPhase s r.id .wbuf, false) else (s, true)

/-- Invalidates sectors of a line's block at the home (R226); an orphan is left where `keep` says so. -/
def releaseSectors (s : State) (r : Req) (mask : BitVec 64) (orphanOnly keep : Bool) : State :=
  match wayOfDla s r.dla with
  | none => s
  | some w =>
    let k := tagKey (benchOfDla r.dla) (lsOfDla r.dla) w
    let t := tagAt s k
    if (orphanOnly && t.state != .orphan) || (keep && t.state == .orphan) then s
    else
      let v := t.valid &&& ~~~mask
      let d := t.dirty &&& ~~~mask
      if v = 0 || (t.state == .orphan && d = 0) then tagPut (loseBlock s (blkOfKey s k)) k TagRec.init
      else tagPut s k { t with valid := v, dirty := d }

/-- A write-buffer entry of the request's block whose sector the mask holds. -/
def inMask (r : Req) (m : BitVec 64) (e : WEntry) : Bool := blkOfDla e.dla == blkOfDla r.dla && m.getLsbD (secOfDla e.dla)

/-- Writes of the masked sectors that wait in the write buffer are discarded with them (R226). -/
def dropBuffered (s : State) (r : Req) (m : BitVec 64) : State :=
  let b := benchOfDla r.dla
  setW s b ((wEntries s b).filter (fun e => !(inMask r m e && e.drain == .fresh)))

/-- FLUSH of one line at its home (R205); with `inval` its sector is then invalidated. A dirty sector waits for room in the
eviction queue (R78). -/
def flushPath (s : State) (r : Req) (inval : Bool) : State :=
  let b := benchOfDla r.dla
  match drained s r with
  | (s, false) => s
  | (s, true) =>
    if (evqOf s r.dla).isSome then toPhase s r.id .evq
    else match wayOfDla s r.dla with
      | none => answer s r .none true 0 false none
      | some w =>
        let k := tagKey b (lsOfDla r.dla) w
        let t := tagAt s k
        let i : BitVec 64 := bit (secOfDla r.dla)
        if (t.dirty &&& i) = 0 then
          answer (if inval then releaseSectors s r i false true else s) r .none true 0 false none
        else if t.state == .orphan then answer s r .none true 0 false (some .unmapped)
        else if 64 ≤ (benchOf s b).evq.length then toPhase s r.id .evq
        else match writeTarget s r.dla with
          | none => answer (makeOrphan s k) r .none true 0 false (some .unmapped)
          | some (x, dpa) =>
            let (s, d) := sectorRead s r.dla w 5
            let s := match d with
              | .data v => evict s r.dla x dpa v false
              | _ => evict s r.dla x dpa 0 true
            let s := tagPut s k { tagAt s k with dirty := (tagAt s k).dirty &&& ~~~i }
            toPhase s r.id .evq

/-- A write, once the line is the bench's. -/
def writePath (s : State) (r : Req) : State :=
  match placeWrite s r r.data r.be r.poison with
  | (s, false) => s
  | (s, true) =>
    let r := (reqOf s r.id).getD r
    let s := performed s r (r.be == BitVec.allOnes 64) r.poison
    let (s, g) := sfAfter s r
    answer s r g true 0 false none

/-- What a request does once its back-invalidates are answered and its entry has a place. -/
def perform (s : State) (r : Req) : State :=
  match r.op with
  | .memWr _ | .memWrPtl _ | .ncWrite | .ncWritePtl => writePath s r
  | .memInv _ | .memClnEvct =>
    let (s, g) := sfAfter s r
    answer (markReq s r (marking r.op)) r g true 0 false none
  | .atomic .. | .reserve .. =>
    (match drained s r with
     | (s, true) => readPath s r
     | (s, false) => s)
  | .condstore size8 off v1 =>
    (match drained s r with
     | (s, false) => s
     | (s, true) =>
       let n := if size8 then 8 else 4
       match placeWrite s r (lineAt v1 (off.toNat * 4)) (beRange (off.toNat * 4) n) false with
       | (s, false) => s
       | (s, true) =>
         let s := countBench s (benchOfDla r.dla) 0x022 0
         answer (performed s r false false) r .none true 0 false none)
  | .flushLine i => flushPath s r i
  | .prefetchLine rank =>
    let valid := match wayOfDla s r.dla with
      | some w => (tagAt s (tagKey (benchOfDla r.dla) (lsOfDla r.dla) w)).valid.getLsbD (secOfDla r.dla)
      | none => false
    if r.insert == 3 || r.policy == 3 || valid then answer s r .none true 0 false none
    else
      let ins : BitVec 2 := if rank = 1 then 1 else if rank = 2 then 0 else r.insert
      readPath s { r with insert := ins, span := 0 }
  | .migrateRelease =>
    (match drained s r with
     | (s, false) => s
     | (s, true) => answer (releaseSectors s r (bit (secOfDla r.dla)) true false) r .none true 0 false none)
  | .invalidateBlock m =>
    if (wEntries s (benchOfDla r.dla)).any (fun e => inMask r m e && e.drain != .fresh && e.drain != .done) then
      toPhase s r.id .wbuf
    else answer (releaseSectors (dropBuffered s r m) r m false false) r .none true 0 false none
  | .memRd _ | .memRdData | .memSpecRd | .ncRead => readPath s r

/-- The tag lookup of a request, made once (R65). A read without one is a miss. A miss locks the set and reads its head; a
request of a locked set waits, and looks up when the lock is gone (R66). False: the request waits. -/
def lookup (s : State) (r : Req) : State × Bool :=
  let b := benchOfDla r.dla
  let ls := lsOfDla r.dla
  if r.tagged then (s, true)
  else if noLookup s r.win r.policy b then
    (modReq s r.id (fun r => { (if reading r.op then missNow s r else r) with tagged := true }), true)
  else if setLocked s b ls then (toPhase (countBench s b 0x011 (classQual r.cls)) r.id .setHead, false)
  else match residentCheck s b ls with
    | (s, false) => (s, false)
    | (s, true) =>
      let hitTag := match findWay s b ls (tagOfDla r.dla) with
        | some w => s.cache.resident.contains (tagKey b ls w)
        | none => false
      if hitTag then (modReq (countBench s b 0x002 (classQual r.cls)) r.id (fun r => { r with tagged := true }), true)
      else
        let s := countBench s b 0x003 (classQual r.cls)
        let s := { s with cache := { s.cache with setReads := s.cache.setReads ++ [setKey b ls] } }
        (modReq s r.id (fun r => { (if reading r.op then missNow s r else r) with tagged := true }), true)

/-- The record a request uses is read, and resident from then on (R65); false when that led to containment. -/
def useRecord (s : State) (r : Req) : State × Bool :=
  let b := benchOfDla r.dla
  let ls := lsOfDla r.dla
  if noLookup s r.win r.policy b then (s, true)
  else match findWay s b ls (tagOfDla r.dla) with
    | some w => recRead s b ls w
    | none => (s, true)

/-- A MemRdData that would be granted the line exclusive without the right to write is refused here, where its grant is
decided (R42; log entry 20). -/
def grantRefused (s : State) (r : Req) : State :=
  let src := match r.org with
    | .host l _ _ => l.toNat
    | _ => r.hs.toNat
  let s := refuse s true r.sa r.win.toNat r.rqk src (clusterIsland (benchOfDla r.dla))
  answer s r .none false 0 true none

/-- A MemRdData that would mark a clean segment of a window that traps is trapped here, where its grant is decided (R46, R48;
log entry 20). -/
def trapNow (s : State) (r : Req) : State :=
  let g := segOf (winOf s r.win) r.dla
  let s := modReq s r.id (fun r => { r with trap := true, seg := g, phase := .trapped, phaseSince := s.now })
  sendMark s r g (clusterIsland (benchOfDla r.dla))

/-- A request whose back-invalidates are answered takes its entry's place, and is performed when its set is not locked. -/
def proceed (s : State) (r : Req) (e : SfEntry) : State :=
  let v := winOf s r.win
  let mayGrant := r.op == .memRdData && isHost r && grantsE s r
  if mayGrant && !v.w then grantRefused s r
  else if mayGrant && v.trap && v.state == .enabled && !(v.drt.getLsbD (segOf v r.dla).toNat) then trapNow s r
  else if grantsCopy r.op && isHost r && e.state == .invalid && sfFull s r then sfEvict s r
  else if setLocked s (benchOfDla r.dla) (lsOfDla r.dla) then toPhase s r.id .setHead
  else match useRecord s r with
    | (s, true) => perform s r
    | (s, false) => s

/-- Serves a request at the head of its line's order: the tag lookup and the snoop-filter lookup are issued together (R65). -/
def serveLine (s : State) (r : Req) : State :=
    let id := r.id
    let b := benchOfDla r.dla
    let s := countBench s b 0x012 0
    match sfCheck s r.dla with
    | (s, false) => s
    | (s, true) =>
      let e := sfOf s r.dla
      let s := if e.state == .invalid then s else countBench s b 0x013 0
      if e.state == .busy then s else
      match lookup s r with
      | (s, false) => s
      | (s, true) =>
        match resvOk s ((reqOf s id).getD r) with
        | (s, false) => s
        | (s, true) =>
          let r := (reqOf s id).getD r
          let sn := if r.snoopDone then [] else snoopsFor r.op (hsOf r) e
          if !sn.isEmpty then
            if sn.any (fun t => t.2 != .cur) && held s r.dla then
              let s := { s with snoop := { s.snoop with delayed := s.snoop.delayed + BitVec.ofNat 64 sn.length } }
              modReq (toPhase (countBench s b 0x016 0) id .hold) id (fun r => { r with causeCoherence := true })
            else if 16 < snoopSlots s b + sn.length then s
            else sendSnoops s r r.dla sn false (e.state == .any)
          else proceed s r e

/-- Serves the request at the head of its line's order. -/
def serve (s : State) (id : Nat) : State :=
  match reqOf s id with
  | none => s
  | some r =>
    if r.phase != .line then s else
    let t := sramCheck s (benchOfDla r.dla)
    if !stood s t then t else
    match r.org with
    | .exam _ k p n => examine t r k p n
    | _ => serveLine t r

/-- Of two requests that are ready, the one with the earlier deadline is served first, then those without one, oldest first
(R148; log entry 103). -/
def servedBefore (a b : Req) : Bool :=
  match a.deadline, b.deadline with
  | some x, some y => x ≤ y
  | some _, none => true
  | none, some _ => false
  | none, none => a.arrived ≤ b.arrived

def insertReady (a : Req) : List Req → List Req
  | [] => [a]
  | b :: t => if servedBefore b a then b :: insertReady a t else a :: b :: t

/-- In the order in which they are served. -/
def servedOrder (l : List Req) : List Req := l.foldl (fun l r => insertReady r l) []

/-- Heads of their line's order that are ready to be served (R86). -/
def readyIds (s : State) : List Nat :=
  let act := s.cache.reqs.filter (fun r => r.pool.isSome && r.phase != .trapped && r.phase != .egress)
  (servedOrder (act.filter (fun r => r.phase == .line &&
    ((act.find? (fun q => lineOf q == lineOf r)).map (·.id)) == some r.id))).map (·.id)

/-- Serves what is ready, and gives freed trackers away, until nothing moves. -/
def settleFuel : Nat → State → State
  | 0, s => s
  | n + 1, s =>
    if s.cache.reqs.isEmpty || !presented s then s else
    let s := grantTrackers 64 s
    match readyIds s with
    | [] => s
    | i :: t =>
      let s' := (i :: t).foldl serve s
      if readyIds s' = i :: t then s' else settleFuel n s'

def settle (s : State) : State := settleFuel (64 + 4 * s.cache.reqs.length) s

-- ===== answers to back-invalidates =====

/-- A snoop has its answer: it leaves the list, and the request that waits for the last of its snoops goes on (R112, R115,
R122). -/
def snoopDone (s : State) (v : Snoop) (timedOut : Bool) : State :=
  let s := { s with snoop := { s.snoop with
    snoops := s.snoop.snoops.filter (fun x => x.id != v.id)
    past := (v.hs, v.sa, timedOut) :: s.snoop.past.filter (fun p => !(p.1 == v.hs && p.2.1 == v.sa)) } }
  if s.snoop.snoops.any (fun x => x.cause == v.cause) then s
  else if v.evict then modReq (toPhase s v.cause .line) v.cause (fun r => { r with wayFreed := true })
  else modReq (toPhase s v.cause .line) v.cause (fun r => { r with snoopDone := true })

/-- Counts a host protocol violation or a late response (R115, R116). -/
def violation (s : State) (hs : HostSock) (late : Bool) : State :=
  let s := { s with snoop := { s.snoop with violations := tinc s.snoop.violations hs.toNat } }
  if late then s else raiseFirst s 0x202 164 [(1, hs.toNat)]

/-- Applies a BIRsp at the home (Table 4-4). -/
def applyRsp (s : State) (v : Snoop) (r : BIRsp) : State :=
  let s := match v.kind, r with
    | .inv, .i => sfRemove s v.dla v.hs
    | .inv, _ => sfRemove (violation s v.hs false) v.dla v.hs
    | .data, .i => sfRemove s v.dla v.hs
    | .data, .s => sfSetLine s v.dla .shared (sfOf s v.dla).pres
    | .data, .e => sfSetLine (violation s v.hs false) v.dla .shared (sfOf s v.dla).pres
    | .cur, .e => s
    | .cur, .s => sfSetLine s v.dla .shared (bit v.hs.toNat)
    | .cur, .i => sfRemove s v.dla v.hs
  snoopDone s v false

/-- A BISnp completes by timeout (R115). -/
def snoopTimeout (s : State) (v : Snoop) : State :=
  let b := benchOfDla v.dla
  let s := if v.wasAny then
      -- the line at the home is poisoned: its buffered bytes, its sector, or its far-memory line
      let s := poisonAdd s v.sa
      match wFresh s v.dla, (wDraining s v.dla).isSome || setLocked s b (lsOfDla v.dla), wayOfDla s v.dla with
      | some e, _, _ => modW s b e.slot (fun e => { e with poison := true, be := BitVec.allOnes 64, data := 0 })
      | none, false, some w => storeSector s v.dla w 0 true true
      | _, _, _ =>
        match windowAt s v.dla with
        | some w =>
          let n := (freeSlot s b ((List.range 16).map (· + 32))).getD 47
          let e : WEntry :=
            { slot := BitVec.ofNat 6 n, dla := lineAddr v.dla, sa := v.sa, data := 0, be := BitVec.allOnes 64, poison := true,
              alloc := s.now, drain := .fresh, win := w, policy := (winOf s w).geo.policy, insert := (winOf s w).insert }
          setW s b (wEntries s b ++ [e])
        | none => s
    else s
  let s := sfRemove s v.dla v.hs
  let s := (s.snoop.table.filter (fun e => e.home == devId s && e.tag == BitVec.ofNat 16 v.id)).foldl tableFree s
  let s := { s with snoop := { s.snoop with timeouts := tinc s.snoop.timeouts v.hs.toNat } }
  let s := logRec s { LogRec.init with type := 0x0E, sev := 2, unit := 2, island := BitVec.ofNat 16 (clusterIsland b),
                                       addr := v.sa.setWidth 64, dla := v.dla.setWidth 64, bench := b.setWidth 16,
                                       detail := v.hs.setWidth 64 }
  let s := raise s 0x201 (clusterIsland b) [(1, v.hs.toNat), (8, v.sa.toNat), (1, match v.kind with
    | .cur => 0
    | .data => 1
    | .inv => 2)]
  snoopDone s v true

/-- Snoops toward a socket with no up link covering the line complete by timeout at once (R115). -/
def unreachableSnoops (s : State) : State :=
  (s.snoop.snoops.filter (fun v => v.dev == devId s && (snoopLink s v.hs v.sa).isNone)).foldl snoopTimeout s

/-- Everything that follows a change at the benches; nothing is performed outside MEMORY_ACTIVE (R274, R368). -/
def run (s : State) : State :=
  if !presented s || (s.cache.reqs.isEmpty && s.snoop.snoops.isEmpty) then s
  else
    let s := settle s
    if (s.snoop.snoops.any (fun v => v.dev == devId s && (snoopLink s v.hs v.sa).isNone)) then settle (unreachableSnoops s)
    else s

end Sys2Proof.Machine
end

