-- ==== Sys2Proof/Machine/Access.lean ====
section
/-!
DEFINITION. How an access reaches its home bench: refusals, the class of a request at its origin, requests of this device
toward a peer, and requests of non-caching requesters (01, 02, 05, 11).
-/

namespace Sys2Proof.Machine

-- ===== refusals (R43, R44) =====

/-- A response that the port makes itself: no request at a bench waits for it to leave. -/
def portResp (s : State) (m : HostMsg) (kind : RespKind) (poison : Bool) (sa : SA) : Resp :=
  { id := s.port.nextResp, req := none, link := m.link, member := m.member, tag := m.tag, kind := kind, data := 0,
    poison := poison, hs := (hlinkOf s m.link).hsock, sa := sa, devload := 0, cls := .ash, cidx := none, tin := s.now,
    waited := 0, hit := true, home := devId s, fault := false, partner := false, coherence := false, rqc := false, xl := 0xFF,
    snooped := 0, deadline := none, inFlit := false, left := false, queued := s.now, rsq := none }

def pushResp (s : State) (r : Resp) : State :=
  { s with port := { s.port with resp := s.port.resp ++ [r], nextResp := s.port.nextResp + 1 } }

/-- The answer of a refused or violating request (Table 2-11, R295): a read gets poison, another its normal completion. -/
def portAnswer (s : State) (m : HostMsg) (op : ReqOp) (sa : SA) : State :=
  if op == .memSpecRd then s
  else if hostRead op then pushResp s (portResp s m (.memData .none) true sa)
  else pushResp s (portResp s m (.cmp .cmp) false sa)

-- ===== the class of a request at its origin (R41, R138, R139) =====

/-- The directory entry of window `n` of device `d`; this device's entries are its windows. -/
def dirEntry (s : State) (d : DevId) (n : Nat) : DirEntry :=
  if d = devId s then
    let v := winOf s (BitVec.ofNat 6 n)
    ⟨v.geo.base, v.geo.limit, v.cls, v.state == .enabled⟩
  else tget (⟨0, 0, .ash, false⟩ : DirEntry) s.contract.dir (d.toNat * 64 + n)

/-- The window of the home that the directory shows for an address. -/
def dirWindow (s : State) (d : DevId) (dla : DLA) : Option Nat :=
  (List.range 64).find? (fun n =>
    let e := dirEntry s d n
    e.enabled && e.base.toNat ≤ dla.toNat / 2 ^ 30 && dla.toNat / 2 ^ 30 ≤ e.limit.toNat)

/-- The admitted contract (link, class, window) whose HOMEMASK holds the home device. -/
def contractFor (s : State) (l : HLink) (c : LClass) (n : Nat) (d : DevId) : Option CIdx :=
  (s.contract.table.find? (fun p => p.2.ctr.state == 2 && p.2.ctr.link == l && p.2.ctr.cls == c && p.2.ctr.win.toNat == n &&
    p.2.ctr.homemask.getLsbD d.toNat)).map (fun p => BitVec.ofNat 12 p.1)

/-- The class a host request carries and its contract: a token is consumed, or the request is over-rate (R138). -/
def originClass (s : State) (l : HLink) (op : ReqOp) (d : DevId) (dla : DLA) : State × LClass × Option CIdx :=
  if !tokenOp op then (s, .ash, none) else
  match dirWindow s d dla with
  | none => (s, .ash, none)
  | some n =>
    let c := lessStrict (hlinkOf s l).cls (dirEntry s d n).cls
    if c = .ash then (s, .ash, none) else
    match contractFor s l c n d with
    | none => (s, .ash, none)
    | some i =>
      let v := contractOf s i
      if v.running && 65536 ≤ v.rate16 then
        (countDev (setContract s i { v with rate16 := v.rate16 - 65536 }) 0x107 (classQual c), c, some i)
      else (countDev (contractCount s i 3) 0x108 (1 + l.toNat), .ash, none)

/-- R140: the class a request is served at by its home. -/
def homeClass (s : State) (w : WinId) (link carried : LClass) : LClass :=
  if lessStrict link (winOf s w).cls = carried then carried else .ash

-- ===== a request to a peer (R329, R334) =====

/-- The next TAG that no transaction in flight carries. -/
def freshTag (s : State) : Nat → BitVec 16 → BitVec 16
  | 0, t => t
  | n + 1, t => if s.peer.txns.any (fun x => x.tag == t) then freshTag s n (t + 1) else t

/-- The host link class of LCLS: 0b00 for a request that entered on no host link (Table 11-2). -/
def lclsOf (s : State) : Option HLink → LClass
  | some l => (hlinkOf s l).cls
  | none => .ash

/-- Sends a REQ to the home device and notes the transaction. -/
def sendReq (s : State) (d : DevId) (op : ReqOp) (org : Origin) (k : RqKind) (hs : HostSock) (c : LClass) (lc : LClass)
    (cidx : Option CIdx) (sa : SA) (data : Line) (be : BitVec 64) (poison : Bool) (q : QueueId) (ep : Byte) : State :=
  let tag := freshTag s s.peer.txns.length s.peer.nextTag
  let m : PeerReq :=
    { src := devId s, dst := d, via := none, resent := false, op := op, tag := tag, rqk := k, hs := hs, cls := c, lcls := lc,
      cidx := cidx.getD 0, tin := s.now.setWidth 22, sa := sa, data := data, be := be, poison := poison, queue := q, epoch := ep }
  let x : Txn := { tag := tag, dev := d, org := org, op := op, hs := hs, sa := sa, cls := c, cidx := cidx, tin := s.now,
                   mark := none, fault := false }
  let s := { s with peer := { s.peer with nextTag := tag + 1, txns := if op == .memSpecRd then s.peer.txns else s.peer.txns ++ [x] } }
  peerSend s d (.req m) (deadlineOf c true s.now)

-- ===== faults that excuse breaches (R159, R307) =====

/-- Marks what is in flight: requests here, responses, and transactions at peers. -/
def markFault (s : State) (fr : Req → Bool) (fv : Resp → Bool) (fx : Txn → Bool) : State :=
  { s with
    cache := { s.cache with reqs := mapIf fr (fun r => { r with causeFault := true }) s.cache.reqs }
    port := { s.port with resp := mapIf fv (fun v => { v with fault := true }) s.port.resp }
    peer := { s.peer with txns := mapIf fx (fun x => { x with fault := true }) s.peer.txns } }

def ofHost (l : HLink) (m : BitVec 2) : Origin → Bool
  | .host l' m' _ => l' == l && m' == m
  | _ => false
def ofPeer (d : DevId) : Origin → Bool
  | .peer d' _ => d' == d
  | _ => false

/-- The member index of a lead port of a host link. -/
def memberOfPort (s : State) (l : HLink) (p : Nat) : BitVec 2 :=
  match (membersOf s l).find? (fun t => t.2 == p) with
  | some t => BitVec.ofNat 2 t.1
  | none => 0

/-- A fault on the member link with lead port `p` (R159). -/
def linkFault (s : State) (p : Nat) : State :=
  match slotAt s p with
  | none => s
  | some (_, _, t) =>
    match t.role with
    | .host =>
      let l : HLink := t.lnum.setWidth 3
      let m := memberOfPort s l p
      markFault s (fun r => ofHost l m r.org) (fun v => v.link == l && v.member == m) (fun x => ofHost l m x.org)
    | .peer =>
      (match (plinkOf s t.lnum.toNat).peer with
       | some d => markFault s (fun r => ofPeer d r.org) (fun v => v.home == d) (fun x => x.dev == d)
       | none => s)
    | .expander =>
      markFault s (fun r => (r.phase == .fill || r.phase == .evq || r.phase == .wbuf) && (winOf s r.win).geo.xl == t.lnum)
        (fun _ => false) (fun _ => false)
    | .idle => s

-- ===== retrain after an error (R304, R306) =====

/-- A retrain starts (R306); `unc`: after an uncorrectable error. The limit of retrains in a second of device time is
noted for the next one, which drops a speed step. -/
def startRetrain (s : State) (p : Nat) (unc : Bool) : State :=
  let v := linkOf s p
  let sec := BitVec.ofNat 64 (s.now.toNat / 1000000000)
  let n := if v.retrainSec == sec then v.retrains + 1 else 1
  let hit := s.port.dropAfter.toNat != 0 && s.port.dropAfter.toNat ≤ n
  let v := { v with
    state := .recovery, retrainStart := s.now, retrainSec := sec, retrains := if hit then 0 else n,
    dropSpeed := if v.dropSpeed == 1 then (if hit then 3 else 2) else if hit then 1 else 0
    retThr := if unc then v.retThr else v.retThr + 1, retUnc := if unc then v.retUnc + 1 else v.retUnc }
  linkFault (setLink s p v) p

/-- The ingress buffers of a member link for requests with and without data (R309). -/
def ingressSize (op : ReqOp) : Nat := if storing op then 128 else 256

/-- Entries that a member's requests hold: requests bound for peers, until a peer link accepts them on REQ. A request for a home
here is handed to its bench's class lane at once (R309; log entry 104). -/
def ingressUsed (s : State) (l : HLink) (m : BitVec 2) (op : ReqOp) : Nat :=
  (s.peer.txns.filter (fun x => ofHost l m x.org && storing x.op == storing op && s.peer.tx.any (fun t => match t.msg with
    | .req q => q.tag == x.tag && t.dst == x.dev
    | _ => false))).length

/-- A request for which its member's buffer has no entry, so that the partner had no credit for it. -/
def ingressFull (s : State) (l : HLink) (m : BitVec 2) (op : ReqOp) : Bool := ingressSize op ≤ ingressUsed s l m op

/-- An uncorrectable link error that takes no link down: a retrain starts at once (R304). A request without a credit is one, and
finds no buffer (R309). -/
def linkError (s : State) (p : Nat) : State :=
  let s := raiseFirst s 0x0A1 p []
  if (linkOf s p).state == .recovery then s else startRetrain s p true

-- ===== host requests (R110, R334) =====

/-- A host request that its window allows joins its home bench, at the class the home serves it at (R139, R140). -/
def joinHome (s : State) (m : HostMsg) (op : ReqOp) (sa : SA) (dla : DLA) (w : WinId) (c : LClass) (ci : Option CIdx)
    (data : Line) (be : BitVec 64) (poison : Bool) : State :=
  let c' := homeClass s w (hlinkOf s m.link).cls c
  let s := match ci with
    | some i => if c' == c then s else contractCount s i 4
    | none => s
  run (arrive s (formReq s s.cache.nextReq op (.host m.link m.member m.tag) .hostSocket (hlinkOf s m.link).hsock sa dla w c'
    (ci.map (fun i => (devId s, i))) s.now data be poison 0 0))

/-- The board system address that a refusal's record carries: bits [47:0] of the device physical address (R27, R44); 0 where
the host physical address lies in no committed decoder, so that there is none (log entry 100). -/
def refusedSa (s : State) (m : HostMsg) : SA := BitVec.ofNat 48 ((dpaOfHpa s m.link m.hpa).getD 0)

/-- A host message that no window or home range holds (R43, R44). -/
def hostUnmapped (s : State) (m : HostMsg) (op : ReqOp) (p : Nat) : State :=
  let sa := refusedSa s m
  portAnswer (refuse s false sa 0xFF .hostSocket m.link.toNat p) m op sa

/-- A request of a host message whose home is known. -/
def hostHome (s : State) (m : HostMsg) (op : ReqOp) (p : Nat) (sa : SA) (d : DevId) (dla : DLA) (data : Line) (be : BitVec 64)
    (poison : Bool) : State :=
  match originClass s m.link op d dla with
  | (s, c, ci) =>
    if d = devId s then
      match windowAt s dla with
      | none => hostUnmapped s m op p
      | some w =>
        if !rightsOk (winOf s w) .hostSocket op then
          portAnswer (refuse s true sa w.toNat .hostSocket m.link.toNat p) m op sa
        else joinHome s m op sa dla w c ci data be poison
    else sendReq s d op (.host m.link m.member m.tag) .hostSocket (hlinkOf s m.link).hsock c (hlinkOf s m.link).cls ci sa data
      be poison 0 0

/-- In containment a host request is answered as a refused one is (R273). -/
def hostContained (s : State) (m : HostMsg) (op : ReqOp) : State :=
  portAnswer (if storing op then { s with rel := { s.rel with resDiscarded := s.rel.resDiscarded + 1 } } else s) m op
    (refusedSa s m)

/-- The request of a host message at its ingress port: the path of a host request from step 2 on. -/
def hostRequest (s : State) (m : HostMsg) (op : ReqOp) (data : Line) (be : BitVec 64) (poison : Bool) : State :=
  match memberPort s m.link m.member with
  | none => s
  | some p =>
    if !memberUp s m.link m.member then s else
    if ingressFull s m.link m.member op then linkError s p else
    let s := countDev s 0x105 (1 + m.link.toNat)
    if s.dev.stage == .containment then hostContained s m op
    else if !presented s || ((hlinkOf s m.link).idereq && !m.ide) then hostUnmapped s m op p
    else match saOfMsg s m with
    | none => hostUnmapped s m op p
    | some sa =>
      match homeOf s sa with
      | none => hostUnmapped s m op p
      | some (d, dla) => hostHome s m op p sa d dla data be poison

-- ===== requests of this device's non-caching requesters (R124, R125, R42) =====

/-- A RESERVE or CONDSTORE that goes to a peer clears the reservation that its queue holds at a bench of this device (R222, R224);
one held at another device stays (log entry 111). -/
def leaveResv (s : State) (op : ReqOp) (q : QueueId) : State :=
  match op with
  | .reserve .. | .condstore .. =>
    (s.cache.bench.map (·.1)).foldl (fun s k => clearResv s 6 (fun v => v.queue == q && v.dev == devId s) k) s
  | _ => s

/-- Issues a line access; a refusal at this device is answered at once with its job status. -/
def ncIssue (s : State) (op : ReqOp) (org : Origin) (k : RqKind) (sa : SA) (data : Line) (be : BitVec 64) (poison : Bool)
    (q : QueueId) (ep : Byte) : State × Option JStatus :=
  let src := if k == .management then 0xFFFF else q.toNat
  let unmapped := (refuse s false sa 0xFF k src 164, some JStatus.unmapped)
  if !presented s then unmapped else
  match homeOf s sa with
  | none => unmapped
  | some (d, dla) =>
    if d = devId s then
      match windowAt s dla with
      | none => unmapped
      | some w =>
        if !rightsOk (winOf s w) k op then (refuse s true sa w.toNat k src 164, some .rights)
        else
          let r := formReq s s.cache.nextReq op org k 0 sa dla w .ash none s.now data be poison q ep
          (run (arrive s r), none)
    else (sendReq (leaveResv s op q) d op org k 0 .ash .ash none sa data be poison q ep, none)

/-- A management or other non-caching access whose refusal is reported to its requester (Table 2-11). -/
def ncAccess (s : State) (rq : NcReq) (op : ReqOp) (data : Line) (be : BitVec 64) (poison : Bool) : State :=
  match ncIssue s op .mgmt rq.rqk rq.sa data be poison rq.queue rq.epoch with
  | (s, none) => s
  | (s, bad) => emit s (.mgmtData rq.sa 0 (mgmtStatus bad) false)

end Sys2Proof.Machine
end

