-- ==== Sys2Proof/Machine/Expander.lean ====
section
/-!
DEFINITION. Expander requests and responses, the loss of an expander, and the commands of the home bench that follow its
reads, drains and trackers (03, R276, R311 to R317).
-/

namespace Sys2Proof.Machine

-- ===== reports of windows and links =====

/-- Sends a CTL message to a device. -/
def ctlSend (s : State) (d : DevId) (op : Byte) (body : List (BitVec 64)) : State :=
  let s := { s with peer := { s.peer with cseq := s.peer.cseq + 1 } }
  peerSend s d (.ctl op (devId s) d false body) none

/-- The other members of the formed domain. -/
def others (s : State) : List DevId :=
  ((bitsOf s.peer.members).map (fun n => (BitVec.ofNat 3 n : DevId))).filter (· != devId s)

/-- This device pushes its directory entry of a window to the members (R139). -/
def pushWindir (s : State) (w : WinId) : State :=
  let v := winOf s w
  (others s).foldl (fun s d => ctlSend s d 0x0C
    [w.setWidth 64, v.geo.base.setWidth 64, v.geo.limit.setWidth 64, BitVec.ofNat 64 (classCode v.cls),
     if v.state == .enabled then 1 else 0]) s

/-- The values of Table 10-7. -/
def xcode : XState → Nat
  | .empty => 0 | .training => 1 | .enum => 2 | .ready => 3 | .assay => 4 | .qualified => 5 | .unqualified => 6
  | .removing => 7 | .lost => 8 | .rejected => 9 | .disabled => 10

/-- A change of state of an expander link (R311, R507). -/
def setX (s : State) (x : XLink) (st : XState) (reason : Nat) : State :=
  let v := xlinkOf s x
  let s := setXlink s x { v with state := st, reason := BitVec.ofNat 8 reason }
  raise s (0x80 + x.toNat) (xPort s x) [(1, xcode st), (1, reason)]

-- ===== requests that wait =====

/-- The sector has arrived, or will not: the requests that wait for it take it (R71, R314). -/
def serveFill (s : State) (dla : DLA) (data : Line) (poison late : Bool) : State :=
  (fillWaiters s dla).foldl (fun s id =>
    let s := modReq (toPhase s id .data) id (fun r => { r with causePartner := r.causePartner || late })
    match reqOf s id with
    | some r =>
      let (d, p) := mergedRead s r data poison
      finish s r d p
    | none => s) s

/-- A line's entry in the write buffer, or the sector of the eviction queue, is gone: waiters are tried again. -/
def wakeLine (s : State) (p : Phase) (dla : DLA) : State := wake s (fun r => r.phase == p && lineOf r == dla.toNat / 64)

-- ===== exceedances (R156, R157) =====

/-- The response time of an expander request is measured (R154, R156, R476): true when it exceeds A. Exceedances count in seconds
aligned to device time (DESIGN CHOICE, log entry 114). -/
def measure (s : State) (x : XLink) (lat : Nat) (timeout : Bool) : State × Bool :=
  let a := (assayOf s x).a.toNat
  let late := timeout || (a ≠ 0 && a < lat)
  let s := histX s x lat timeout
  if !late then (s, false) else
  let sec := BitVec.ofNat 64 (s.now.toNat / 1000000000)
  let (s0, n, mx) := tget ((0 : BitVec 64), 0, 0) s.contract.excSec x.toNat
  let cur := if s0 == sec then (sec, n + 1, max mx lat) else (sec, 1, lat)
  ({ s with contract := { s.contract with exceed := tinc s.contract.exceed x.toNat
                                          excSec := tput (0, 0, 0) s.contract.excSec x.toNat cur } }, true)

-- ===== a lost expander (R316, Table 9-14) =====

/-- A drain that was on its way to the lost expander (Table 9-14). -/
def loseDrain (s : State) (b : Bench) (e : WEntry) : State :=
  match e.drain with
  | .fetching _ =>
    if (wayOfDla s e.dla).isSome then drainPlace s b e (wayOfDla s e.dla) 0 true
    else modW (discardLost s e.win b e.dla) b e.slot (fun e => { e with drain := .done })
  | .writing _ =>
    let s := match wayOfDla s e.dla with
      | some w =>
        let k := tagKey b (lsOfDla e.dla) w
        let t := tagAt s k
        let i : BitVec 64 := bit (secOfDla e.dla)
        if (t.valid &&& i) = 0 then discardLost s e.win b e.dla
        else makeOrphan (tagPut s k { t with dirty := t.dirty ||| i }) k
      | none => discardLost s e.win b e.dla
    modW s b e.slot (fun e => { e with drain := .done })
  | _ => s

/-- A sector of the eviction queue returns as an orphan, or is lost (Table 9-14). -/
def reinstall (s : State) (b : Bench) (e : Evict) : State :=
  let s := modBench s b (fun v => { v with evq := v.evq.filter (fun x => x.rid != e.rid) })
  let i : BitVec 64 := bit (secOfDla e.dla)
  let put := fun (s : State) (w : Nat) (t : TagRec) =>
    let k := tagKey b (lsOfDla e.dla) w
    let s := sectorWrite s e.dla w e.data e.poison
    makeOrphan (tagPut s k { t with valid := t.valid ||| i, dirty := t.dirty ||| i }) k
  match wayOfDla s e.dla with
  | some w => put s w (tagAt s (tagKey b (lsOfDla e.dla) w))
  | none =>
    match setRead s b (lsOfDla e.dla) with
    | (s, false) => s
    | (s, true) =>
      match chooseVictim 17 s b (lsOfDla e.dla) with
      | (s, some w) =>
        (match evictWay s (tagKey b (lsOfDla e.dla) w) with
         | (s, false) => s
         | (s, true) => put s w { TagRec.init with state := .valid, tag := tagOfDla e.dla, rank := 2 })
      | (s, none) =>
        let s := poisonAdd s e.sa
        let s := { s with rel := { s.rel with orphLost := s.rel.orphLost + 1 } }
        logRec s { LogRec.init with type := 0x0F, sev := 2, unit := 0, island := BitVec.ofNat 16 (clusterIsland b),
                                    addr := e.sa.setWidth 64, dla := e.dla.setWidth 64, bench := b.setWidth 16, detail := 1 }

/-- An expander link goes down without a managed removal (R316). -/
def loseExpander (s : State) (x : XLink) (reason : Nat) : State :=
  let mine := s.cache.xreqs.filter (fun r => r.xl == x)
  -- 1
  let s := { s with rel := { s.rel with lostSerial := tput 0 s.rel.lostSerial x.toNat (xlinkOf s x).serial } }
  let s := { s with cache := { s.cache with xreqs := s.cache.xreqs.filter (fun r => r.xl != x) } }
  -- 2
  let s := mine.foldl (fun s r => match r.purpose with
    | .fill .. => serveFill s r.dla 0 true true
    | _ => s) s
  -- 3
  let wins := (s.region.win.filter (fun p => p.2.state == .enabled && p.2.geo.xl == x)).map (·.1)
  let s := wins.foldl (fun s w =>
    let w := BitVec.ofNat 6 w
    let s := modWin s w (fun v => { v with state := .targetLost, lostGeo := some v.geo })
    pushWindir (raise s 0x183 164 [(2, w.toNat)]) w) s
  let s := mine.foldl (fun s r => match r.purpose with
    | .drainFetch b n | .drainWrite b n =>
      (match (wEntries s b).find? (fun e => e.slot == n) with
       | some e => loseDrain s b e
       | none => s)
    | .fill b _ =>
      (match fetchingEntry s b r.rid with
       | some e => loseDrain s b e
       | none => s)
    | _ => s) s
  -- 4
  let s := mine.foldl (fun s r => match r.purpose with
    | .evict b =>
      (match (benchOf s b).evq.find? (fun e => e.rid == r.rid) with
       | some e => wake (reinstall s b e) (fun q => q.phase == .evq && atBench b q)
       | none => s)
    | _ => s) s
  -- 5, 6
  let s := capChange s (.expanderLost x)
  let s := { s with contract := { s.contract with assaying := s.contract.assaying.filter (fun a => a.1 != x) } }
  run (setX s x .lost reason)

-- ===== expander responses =====

/-- A request that has left for an expander and is outstanding there. -/
def xreqOf (s : State) (x : XLink) (rid : Nat) : Option XReq :=
  s.cache.xreqs.find? (fun r => r.rid == rid && r.xl == x && r.sent)

/-- Adds a probe's result to the running assay (R154, R155). -/
def probeDone (s : State) (x : XLink) (lat : Nat) (bad : Bool) : State :=
  let a := assayOf s x
  let a := { a with samples := a.samples ++ [lat], failed := a.failed || bad || 100000 < lat }
  { s with contract := { s.contract with assay := tput AssayRec.init s.contract.assay x.toNat a } }

/-- An enabled window targets the link (R154). -/
def targeted (s : State) (x : XLink) : Bool := s.region.win.any (fun p => p.2.state == .enabled && p.2.geo.xl == x)

/-- A probe read at the next uniformly spread line of the expander's capacity (R154; log entry 13). -/
def probeRead (s : State) (x : XLink) : State :=
  let n := s.freeCount
  let bytes := (xlinkOf s x).capacity.toNat * 2 ^ 30
  let a := if bytes = 0 then 0 else ((Config.probeAddr n).toNat % bytes) / 64 * 64
  xsend (takeFree s) x false 0 0 (BitVec.ofNat 64 a) 0 (BitVec.allOnes 64) false .probe

/-- The load of a phase of an assay, in % of the link's bandwidth (R154). -/
def probeLoad (p : Nat) : Nat := [0, 25, 50, 75, 90].getD p 0

/-- The assay window in ns, and the phase of an assay that started at `t`. -/
def assayNs (s : State) : Nat := s.contract.window.toNat * 1000000
def probePhase (s : State) (t : Time) : Nat := min 4 (since s t * 5 / assayNs s)

/-- Probe reads due since the phase began, where each read and the write that stores its data back take 80 bytes of the link each
way (R143, R154). -/
def probesDue (s : State) (x : XLink) (t : Time) : Nat :=
  let p := probePhase s t
  probeLoad p * 29 * linkCap16 s .expander x.toNat * (since s t - p * assayNs s / 5) / (16 * 100 * 160)

def probing (s : State) (x : XLink) : Bool := s.cache.xreqs.any (fun r => r.xl == x && r.purpose == .probe)

/-- An ASSAY step of the link waits or runs. -/
def assayStep (s : State) (x : XLink) : Bool :=
  (waitingSteps s ++ s.cache.bench.filterMap (fun p => p.2.running.map (·.step))).any (fun t =>
    t.kind == .assay && t.cursor.toNat == x.toNat)

/-- Probes of a link that an enabled window targets run as ASSAY steps of bench B(8x) (R154). -/
def assayBySteps (s : State) (x : XLink) : State :=
  let b : Bench := BitVec.ofNat 8 (8 * x.toNat)
  if assayStep s x then s else modBench s b (fun v => { v with pending := v.pending ++ [deviceStep .assay b x.toNat 64 64] })

/-- The probes that follow the answer to a probe of the assay that started at `t`, where no enabled window targets the link: in the
first phase the next read; in a loaded one the write that stores the data back, and the reads that are due (R154; log entry 13). -/
def probeOn (s : State) (x : XLink) (t : Time) (r : XReq) (data : Line) : State :=
  let p := probePhase s t
  let a := assayOf s x
  let sent := if a.phase = p then a.sent else 0
  let s := if p = 0 || r.write then s else xsend s x true 0 0 r.dpa data (BitVec.allOnes 64) false .probe
  let n := max (probesDue s x t - sent) (if probing s x then 0 else 1)
  let s := { s with contract := { s.contract with
    assay := tput AssayRec.init s.contract.assay x.toNat { assayOf s x with phase := p, sent := sent + n } } }
  (List.range n).foldl (fun s _ => probeRead s x) s

/-- The probe of an assay has been answered: the next follow until the window ends (R154). -/
def nextProbe (s : State) (r : XReq) (data : Line) : State :=
  match s.contract.assaying.find? (fun a => a.1 == r.xl) with
  | none => s
  | some (x, t) =>
    if assayNs s ≤ since s t then s
    else if targeted s x then assayBySteps s x
    else probeOn s x t r data

/-- The one-sector fetch of a drain has come back (R82). -/
def drainFetched (s : State) (b : Bench) (e : WEntry) (data : Line) (poison : Bool) : State :=
  let way := wayOfDla s e.dla
  if poison then
    let s := match way with
      | some w => storeSector s e.dla w 0 true false
      | none => s
    modW s b e.slot (fun e => { e with drain := .done })
  else drainPlace s b e way (mergeLine data e.data e.be) e.poison

/-- DevLoad of an expander's response is counted at its link (Table 10-3). -/
def countLoad (s : State) (x : XLink) (load : BitVec 2) : State :=
  setXlink s x { xlinkOf s x with devload := tinc (xlinkOf s x).devload load.toNat }

/-- The request of an answer leaves the list, the answer is counted and its response time measured (R154, R156): true when
it exceeds A. DEDUCED (log 42): the answer to a probe is not compared, since A holds after the assay. -/
def xAnswered (s : State) (x : XLink) (r : XReq) (load : BitVec 2) : State × Bool :=
  let s := countLoad (countDev (xdrop s r.rid) 0x10C 0) x load
  if r.purpose == .probe then (histX s x (since s r.issued) false, false) else measure s x (since s r.issued) false

/-- A sector of a fill goes into its block, when the block is still there and the sector is not valid (R71). -/
def fillSector (s : State) (b : Bench) (way : Option (BitVec 4)) (r : XReq) (data : Line) (poison : Bool) : State :=
  match way with
  | some w =>
    let k := tagKey b (lsOfDla r.dla) w.toNat
    let t := tagAt s k
    let i : BitVec 64 := bit (secOfDla r.dla)
    if (t.state == .valid || t.state == .orphan) && t.tag == tagOfDla r.dla && (t.valid &&& i) = 0 then
      let s := sectorWrite s r.dla w.toNat data poison
      let s := if poison then poisonAdd s r.sa else s
      tagPut s k { t with valid := t.valid ||| i }
    else s
  | none => s

/-- Requests of a bench that wait in phase `p` have waited for a response that exceeded A (R156, R158). -/
def blamePartner (s : State) (b : Bench) (p : Phase) (late : Bool) : State :=
  if !late then s else
  setReqs s (mapIf (fun r => r.phase == p && atBench b r) (fun r => { r with causePartner := true }) s.cache.reqs)

/-- The bench that a request of the cache serves, and the phase in which requests wait for its answer: a write-back holds what waits
for room in the eviction queue, a drain what waits for the write buffer. -/
def blameFor (s : State) (q : XPurpose) (late : Bool) : State :=
  match q with
  | .evict b => blamePartner s b .evq late
  | .drainFetch b _ | .drainWrite b _ | .fill b _ => blamePartner s b .wbuf late
  | .probe => s

/-- What a read response does at the bench that asked. -/
def xRead (s : State) (x : XLink) (r : XReq) (data : Line) (poison late : Bool) (lat : Nat) : State :=
  match r.purpose with
  | .fill b way =>
    let s := serveFill (fillSector s b way r data poison) r.dla data poison late
    (match fetchingEntry s b r.rid with
     | some e => drainFetched s b e data poison
     | none => s)
  | .drainFetch b n =>
    (match (wEntries s b).find? (fun e => e.slot == n && e.drain == .fetching r.rid) with
     | some e => drainFetched s b e data poison
     | none => s)
  | .probe => nextProbe (probeDone s x lat poison) r data
  | _ => s

/-- What the acceptance of a write does at the bench that asked. -/
def xAccept (s : State) (x : XLink) (r : XReq) (lat : Nat) : State :=
  match r.purpose with
  | .evict b =>
    let s := if s.rel.cphase == .writeBack then
        { s with rel := { s.rel with resWritten := s.rel.resWritten + 1 } } else s
    wake (modBench s b (fun v => { v with evq := v.evq.filter (fun e => e.rid != r.rid) })) (fun q => q.phase == .evq && atBench b q)
  | .drainWrite b n => modW s b n (fun e => if e.drain == .writing r.rid then { e with drain := .done } else e)
  | .probe => nextProbe (probeDone s x lat false) r 0
  | _ => s

def doXRead (s : State) (x : XLink) (rid : Nat) (data : Line) (poison : Bool) (load : BitVec 2) : State :=
  match xreqOf s x rid with
  | none => s
  | some r =>
    if r.write then s else
    match xAnswered s x r load with
    | (t, late) =>
      let t := if poison then notePoison t 0 (xPort t x) r.sa else t
      run (xRead (blameFor t r.purpose late) x r (if poison then 0 else data) poison late (since s r.issued))

def doXAccept (s : State) (x : XLink) (rid : Nat) (load : BitVec 2) : State :=
  match xreqOf s x rid with
  | none => s
  | some r =>
    if !r.write then s else
    match xAnswered s x r load with
    | (t, late) => run (xAccept (blameFor t r.purpose late) x r (since s r.issued))

/-- A completion timeout is counted at its link (R314, R316): how many this second has had. -/
def xTimedOut (s : State) (x : XLink) (r : XReq) : State × Nat :=
  let s := blameFor (measure s x (since s r.issued) true).1 r.purpose true
  let s := raiseFirst s 0x0A3 (xPort s x) [(2, x.toNat)]
  let v := xlinkOf s x
  let sec := BitVec.ofNat 64 (s.now.toNat / 1000000000)
  let n := if v.tmSec == sec then v.timeouts + 1 else 1
  (setXlink s x { v with tmSec := sec, timeouts := n }, n)

/-- A read that timed out is answered with poison, or its drain goes on without the sector (R314, Table 9-14). -/
def xReadLost (s : State) (x : XLink) (r : XReq) (lat : Nat) : State :=
  let s := xdrop s r.rid
  match r.purpose with
  | .fill b _ =>
    let s := serveFill s r.dla 0 true true
    (match fetchingEntry s b r.rid with
     | some e => drainWrite s b e e.data e.be e.poison
     | none => s)
  | .drainFetch b k =>
    (match (wEntries s b).find? (fun e => e.slot == k && e.drain == .fetching r.rid) with
     | some e => drainWrite s b e e.data e.be e.poison
     | none => s)
  | .probe => nextProbe (probeDone s x lat true) { r with write := true } 0
  | _ => s

/-- A write that timed out is issued again (R314); one of an assay fails it (R155). -/
def xWriteAgain (s : State) (x : XLink) (r : XReq) : State :=
  let s := if r.purpose == .probe then probeDone s x (since s r.issued) true else s
  let go := !portHeld s (xPort s x)
  let s := { s with cache := { s.cache with
    xreqs := mapIf (fun q => q.rid == r.rid) (fun q => { q with issued := s.now, tries := q.tries + 1, sent := go }) s.cache.xreqs } }
  if go then emit s (xOut r) else s

def execExpanderReadResponse (x : XLink) (ans : XAnswer) (data : Line) (poison : Bool) (s : State) :
    Host.Outcome State Fault Refusal := act s (fun s => doXRead s x ans.rid data poison ans.load)

def execExpanderWriteAccept (x : XLink) (ans : XAnswer) (s : State) : Host.Outcome State Fault Refusal :=
  act s (fun s => doXAccept s x ans.rid ans.load)

-- ===== reads of HBM =====

/-- The set is unlocked (R66). -/
def unlockSet (s : State) (b : Bench) (ls : BitVec 15) : State :=
  { s with cache := { s.cache with setReads := s.cache.setReads.filter (· != setKey b ls) } }

/-- What waits at a set goes on when its lock is gone: requests of the set, and those that wait for a drain (R66). -/
def lockGone (s : State) (b : Bench) (ls : BitVec 15) : State :=
  wake s (fun r => atBench b r && (r.phase == .wbuf || (r.phase == .setHead && lsOfDla r.dla == ls)))

/-- A set head returns: the set is unlocked and every request that waits for it sees the outcome (R65, R66). -/
def doSetHead (s : State) (b : Bench) (ls : BitVec 15) : State :=
  if !s.cache.setReads.contains (setKey b ls) then s else
  match metaRead (unlockSet s b ls) b ls 0 with
  | (s, false) => s
  | (s, true) => run (lockGone s b ls)

def execSetHeadReturn (b : Bench) (ls : BitVec 15) (s : State) : Host.Outcome State Fault Refusal :=
  act s (fun s => doSetHead s b ls)

/-- Requester kind and host link or queue, the DETAIL of DATA_POISONED. -/
def whoDetail (r : Req) : Nat :=
  rqkCode r.rqk + (match r.org with
    | .host l _ _ => l.toNat
    | _ => if r.rqk == .management then 0xFFFF else r.queue.toNat) * 65536

/-- A request goes on with what the read of its sector gave (R255, Table 9-3). -/
def afterSector (s : State) (r : Req) (w : Nat) (d : SectorRes) : State :=
  let fault := fun (r : Req) => { r with causeFault := true }
  match d with
  | .data d =>
    let (d, p) := mergedRead s r d false
    finish (countBench s (benchOfDla r.dla) 0x004 (classQual r.cls)) r d p
  | .poison =>
    let (d, p) := mergedRead s r 0 true
    finish (modReq s r.id fault) (fault r) d p
  | .refetch => farRead (modReq s r.id fault) (fault r) (some w) [secOfDla r.dla]

/-- A sector read of the data array returns (R255). -/
def doSectorRead (s : State) (id : Nat) : State :=
  match reqOf s id with
  | none => s
  | some r =>
    if r.phase != .sector then s else
    match wayOfDla s r.dla with
    | none => run (toPhase s id .line)
    | some w =>
      if !((tagAt s (tagKey (benchOfDla r.dla) (lsOfDla r.dla) w)).valid.getLsbD (secOfDla r.dla)) then
        run (toPhase s id .line)
      else
        match sectorRead s r.dla w (whoDetail r) with
        | (t, d) => run (afterSector t r w d)

def execSectorReadReturn (id : Nat) (s : State) : Host.Outcome State Fault Refusal := act s (fun s => doSectorRead s id)

-- ===== drains, trackers, sweeps =====

/-- 250 ns after its allocation an entry starts to drain (R82). -/
def doDrainTimeout (s : State) (b : Bench) (slot : BitVec 6) : State :=
  match (wEntries s b).find? (fun e => e.slot == slot && e.drain == .fresh) with
  | some e => if since s e.alloc < 250 then s else run (startDrain s b slot)
  | none => s

def execWbufDrainTimeout (b : Bench) (slot : BitVec 6) (s : State) : Host.Outcome State Fault Refusal :=
  actIf (decide (slot.toNat ≤ 47)) s (fun s => doDrainTimeout s b slot)

/-- Every write of the entry has been accepted: the entry is free (R82, R83). -/
def doDrainComplete (s : State) (b : Bench) (slot : BitVec 6) : State :=
  match (wEntries s b).find? (fun e => e.slot == slot && e.drain == .done) with
  | some _ =>
    let s := setW s b ((wEntries s b).filter (fun e => !(e.slot == slot && e.drain == .done)))
    run (wake s (fun r => r.phase == .wbuf && atBench b r))
  | none => s

def execWbufDrainComplete (b : Bench) (slot : BitVec 6) (s : State) : Host.Outcome State Fault Refusal :=
  actIf (decide (slot.toNat ≤ 47)) s (fun s => doDrainComplete s b slot)

/-- The response of a request has left: by its host link, or by the peer egress it was queued at (R86). -/
def responseGone (s : State) (r : Req) : Bool :=
  match r.org with
  | .host .. => s.port.resp.any (fun v => v.req == some r.id && v.left)
  | .peer d g => !(s.peer.tx.any (fun t => match t.msg with
      | .rsp m => m.tag == g && t.dst == d
      | _ => false))
  | _ => true

/-- The port reports that the first bit of the request's response has left: the tracker is free and is given on (R86, R89). -/
def doTrackerRelease (s : State) (id : Nat) : State :=
  match reqOf s id with
  | none => s
  | some r =>
    if r.phase == .egress && responseGone s r then
      let s := { s with port := { s.port with resp := s.port.resp.filter (fun v => !(v.req == some id)) } }
      run (dropReq s id)
    else s

def execTrackerRelease (id : Nat) (s : State) : Host.Outcome State Fault Refusal := act s (fun s => doTrackerRelease s id)

/-- Blocks of a bench that hold a dirty sector (R80). -/
def dirtyBlocks (s : State) (b : Bench) : Nat :=
  (s.cache.tags.filter (fun p => p.1 / 524288 == b.toNat && p.2.dirty != 0)).length

/-- Dirty sectors of the rank-3 blocks of the 64 sets that a sweep from set `n` covers. -/
def sweepSectors (s : State) (b : Bench) (n : Nat) : Nat :=
  sumNat ((s.cache.tags.filter (fun p => p.1 / 524288 == b.toNat && sweepable p.2 &&
    ((p.1 / 16) % 32768 + 32768 - n) % 32768 < 64)).map (fun p => popCount p.2.dirty))

/-- R80: a bench over its threshold generates a SWEEP step from where it last stopped; R177: device work waits in a list of
eight steps for slack. -/
def doSweepStart (s : State) (b : Bench) : State :=
  let v := benchOf s b
  if !s.cache.sweepOn || v.sweeping || dirtyBlocks s b ≤ s.cache.sweepThreshold.toNat || 8 ≤ v.pending.length || !presented s
  then s
  else
    let at_ := v.sweepPos.toNat
    setBench s b { v with sweeping := true
                          pending := v.pending ++ [deviceStep .sweep b at_ 64 (min 1088 (64 + sweepSectors s b at_))] }

def execSweepStart (b : Bench) (s : State) : Host.Outcome State Fault Refusal := act s (fun s => doSweepStart s b)

end Sys2Proof.Machine
end

