-- ==== Sys2Proof/Machine/Front.lean ====
section
/-!
DEFINITION. The front of the dictionary engine: who writes an object, what R389 checks before the object's own checks, the
unlocks (R393, R428 to R430), and access errors (R424).
-/

namespace Sys2Proof.Machine

-- ===== accessors (Table 13-2) =====

/-- The identity of an accessor: fields that its transport does not carry are zero. -/
def normAcc (a : Accessor) : Accessor :=
  match a.transport with
  | .mailbox | .bar0 => { a with eid := 0 }
  | .mctpPcie => a
  | .i3c => { a with link := 0 }
  | .console => ⟨.console, 0, 0⟩

def classOfAcc (a : Accessor) : AClass :=
  match a.transport with
  | .mailbox | .mctpPcie | .bar0 => .s
  | .i3c => .o
  | .console => .c

/-- A right of an access attribute (R384): bits 0 and 1 class S, 2 and 3 class O, 4 and 5 class C. -/
def mayAccess (attr : Nat) (cl : AClass) (write : Bool) : Bool :=
  let base := match cl with
    | .s => 0 | .o => 2 | .c => 4
  attr.testBit (base + (if write then 1 else 0))

/-- The engine executes operations: not before stage FIRMWARE (Table 12-4). -/
def engineUp (s : State) : Bool := s.dev.stage != .power && s.dev.stage != .rom

/-- The boot ROM serves the recovery subset (R413). -/
def recovery (s : State) : Bool := s.dev.stage == .rom || (s.dev.stage == .halted && s.dev.haltCause == 0x10)

-- ===== access errors (R424, Table 14-6) =====

/-- Records an access error: `kind` of ACCERR_A, the host link, the offset, the BAR, the direction, length and enables. -/
def accessError (s : State) (kind : Nat) (link : HLink) (off bar : Nat) (write : Bool) (len fbe : Nat) : State :=
  let a : BitVec 32 := BitVec.ofNat 32 (kind * 2 ^ 29 + link.toNat * 2 ^ 26 + off % 2 ^ 26)
  let b : BitVec 17 := BitVec.ofNat 17 (bar * 2 ^ 15 + (if write then 2 ^ 14 else 0) + len % 1024 * 16 + fbe % 16)
  let first := s.reg.accCount == 0
  let s := { s with reg := { s.reg with
    accA := if first then a else s.reg.accA
    accB := if first then b else s.reg.accB
    accCount := if s.reg.accCount == BitVec.allOnes 32 then s.reg.accCount else s.reg.accCount + 1 } }
  raiseFirst s 0x3E3 164 [(4, s.reg.accA.toNat), (4, s.reg.accB.toNat)]

-- ===== unlocks =====

/-- The accessor's unlock, Henos or BAR0, taken by this write (R393, R429): whether it was armed. -/
def takeUnlock (s : State) (acc : Accessor) : State × Bool :=
  match acc.transport with
  | .bar0 =>
    let t := tget 0 s.reg.unlock acc.link.toNat
    ({ s with reg := { s.reg with unlock := tput 0 s.reg.unlock acc.link.toNat 0 } }, s.now < t)
  | _ =>
    ({ s with hen := { s.hen with armed := s.hen.armed.filter (fun a => a.1 != acc) } },
     s.hen.armed.any (fun a => a.1 == acc && s.now < a.2))

-- ===== answers =====

/-- A response frame (R387, Table 13-6). -/
def respFrame (f : Frame) (st : DStatus) (ty aux : Nat) (value : List Byte) : List Byte :=
  let body := [BitVec.ofNat 8 (statusCode st), f.op, BitVec.ofNat 8 ty, 0] ++ leBytes 4 aux ++ value
  let head : List Byte := [0xA7, 0x10, 0x02, 0] ++ leBytes 2 f.seq.toNat ++ leBytes 2 body.length ++ body
  head ++ leBytes 4 (crc32c head).toNat

/-- An operation is executed (0x78:0001, device event 0x10D). -/
def opCount (s : State) : State := countDev { s with hen := { s.hen with ops := s.hen.ops + 1 } } 0x10D 0

/-- A response is lost (R414). -/
def frameLost (s : State) (t : Nat) : State := { s with hen := { s.hen with tcount := tinc s.hen.tcount (t * 5 + 4) } }

/-- A response of the mailbox: a waiting command returns it (R405); lost where the member has gone down, or its function was reset
(R291, R415). -/
def mboxFrame (s : State) (acc : Accessor) (m : BitVec 2) (bytes : List Byte) : State :=
  let waits := tget (0 : BitVec 3) s.hen.mbox acc.link.toNat
  let s := { s with hen := { s.hen with mbox := tput 0 s.hen.mbox acc.link.toNat 0 } }
  if waits = 0 then (if memberGone s acc.link m then frameLost s 0 else emit s (.henos acc m bytes))
  else if waits = 5 || memberGone s acc.link ((waits - 1).setWidth 2) then frameLost s 0
  else mboxReply s acc.link ((waits - 1).setWidth 2) 0 bytes

/-- Hands a frame to its transport: over PCIe it leaves on the member on which the request arrived (R406), and an I3C controller
reads it by a private read after an in-band interrupt (R407). -/
def sendFrame (s : State) (acc : Accessor) (m : BitVec 2) (bytes : List Byte) : State :=
  match acc.transport with
  | .mailbox => mboxFrame s acc m bytes
  | .mctpPcie => if memberGone s acc.link m then frameLost s 1 else emit s (.henos acc m bytes)
  | .i3c => emit (emit { s with hen := { s.hen with i3cReady := s.hen.i3cReady ++ [bytes] } } (.henos acc 0 bytes)) .ibi
  | _ => emit s (.henos acc 0 bytes)

/-- Sends a response and keeps it, the last 8 of each accessor (R392). -/
def sendResp (s : State) (acc : Accessor) (f : Frame) (st : DStatus) (ty aux : Nat) (value : List Byte) : State :=
  let bytes := respFrame f st ty aux value
  let mine := ({ acc := acc, seq := f.seq, crc := f.crc, resp := bytes } : Kept) :: s.hen.kept.filter (fun k => k.acc == acc)
  let s := { s with hen := { s.hen with kept := mine.take 8 ++ s.hen.kept.filter (fun k => k.acc != acc) } }
  sendFrame s acc f.member bytes

/-- Answers a write whose action has ended (R391): to its frame, or to the accessor of a command. -/
def answerLate (s : State) (w : Option (Accessor × Option Frame)) (st : DStatus) (ty aux : Nat) : State :=
  match w with
  | some (acc, some f) => sendResp s acc f st ty aux []
  | some (acc, none) => status s acc st (leBytes 4 aux)
  | none => s

-- ===== the gate of a writable object =====

/-- What R389 needs to know of an object that a command writes: its access attribute, whether it is critical, guarded,
removed by the observation fuse, part of the recovery subset, and the BAR0 offset of its register, if it has one. -/
structure Gate where
  attr : Nat
  crit : Bool
  guarded : Bool
  fuse : Bool
  rom : Bool
  off : Option Nat
  deriving DecidableEq, Repr

/-- Access SOC/SOC, SOC/OC, SOC/SC, SOC/O, SOC/S. -/
def aSOC : Nat := 0x3F
def aOC : Nat := 0x3D
def aSC : Nat := 0x37
def aO : Nat := 0x1D
def aS : Nat := 0x17
def aRO : Nat := 0x15

def plainGate : Gate := ⟨aSOC, false, false, false, false, none⟩
def guardGate : Gate := { plainGate with guarded := true }
def critGate : Gate := { plainGate with crit := true }

/-- An answer of an operation: the state, the status and AUX. -/
abbrev Ans := State × DStatus × Nat

/-- Checks 3, 5 and 7 of R389 for a write; `armed` says the accessor's unlock was armed. -/
def gateCheck (s : State) (acc : Accessor) (g : Gate) (armed : Bool) : Option DStatus :=
  if g.fuse && s.obs.seam.fuse then some .noObject
  else if !engineUp s && !g.rom then some .noObject
  else if recovery s && !g.rom then some .noObject
  else if !mayAccess g.attr (classOfAcc acc) true then some .access
  else if g.crit && s.hen.lock && classOfAcc acc == .s then some .access
  else if g.guarded && !armed then some .locked
  else none

/-- The engine reaches this accessor: its transport is served in this stage (R413), and a BAR0 write has a register. -/
def served (s : State) (acc : Accessor) (g : Gate) : Bool :=
  (engineUp s && !recovery s || (recovery s && (acc.transport == .i3c || acc.transport == .console))) &&
  (acc.transport != .bar0 || g.off.isSome)

/-- A write by an accessor: the checks of R389, then the object's own checks and effect `f`; `note` records the status in
the LASTERR of the block (R427). -/
def front (s : State) (acc : Accessor) (g : Gate) (note : DStatus → State → State) (f : State → Ans) : State :=
  let acc := normAcc acc
  if !served s acc g then s else
  let s := opCount s
  let (s, armed) := takeUnlock s acc
  match gateCheck s acc g armed with
  | some e =>
    let s := if e == .locked && acc.transport == .bar0 then accessError s 4 acc.link (g.off.getD 0) 0 true 1 15 else s
    status (note e s) acc e []
  | none =>
    let (t, e, aux) := f s
    status (note e t) acc e (leBytes 4 aux)

/-- A write of a register with WL fields (R430): `changed` says that it changes one. Without the BAR0 unlock its WL fields
stay; `f` is told whether they take effect. A Henos write needs the Henos unlock for the whole object. -/
def frontWl (s : State) (acc : Accessor) (g : Gate) (note : DStatus → State → State) (changed : State → Bool)
    (f : Bool → State → Ans) : State :=
  let acc := normAcc acc
  let g := { g with guarded := acc.transport != .bar0 }
  if !served s acc g then s else
  let s := opCount s
  let (s, armed) := takeUnlock s acc
  match gateCheck s acc g armed with
  | some e => status (note e s) acc e []
  | none =>
    let (t, e, aux) := f armed s
    if acc.transport == .bar0 && !armed && changed s then
      status (note .locked (accessError t 4 acc.link (g.off.getD 0) 0 true 1 15)) acc .locked []
    else status (note e t) acc e (leBytes 4 aux)

/-- A write that is answered when its action ends; `f` gives a status only where nothing starts. -/
def frontLate (s : State) (acc : Accessor) (g : Gate) (f : State → State × Option (DStatus × Nat)) : State :=
  let acc := normAcc acc
  if !served s acc g then s else
  let s := opCount s
  let (s, armed) := takeUnlock s acc
  match gateCheck s acc g armed with
  | some e => status s acc e []
  | none =>
    match f s with
    | (t, some (e, aux)) => status t acc e (leBytes 4 aux)
    | (t, none) => t

/-- A write that may be answered when its action ends, of a block with a LASTERR. -/
def frontMark (s : State) (acc : Accessor) (g : Gate) (note : DStatus → State → State)
    (f : State → State × Option (DStatus × Nat)) : State :=
  let acc := normAcc acc
  if !served s acc g then s else
  let s := opCount s
  let (s, armed) := takeUnlock s acc
  match gateCheck s acc g armed with
  | some e =>
    let s := if e == .locked && acc.transport == .bar0 then accessError s 4 acc.link (g.off.getD 0) 0 true 1 15 else s
    status (note e s) acc e []
  | none =>
    match f s with
    | (t, some (e, aux)) => status (note e t) acc e (leBytes 4 aux)
    | (t, none) => t

/-- A write whose block has no LASTERR. -/
def noNote (_ : DStatus) (s : State) : State := s

end Sys2Proof.Machine
end

