-- ==== Sys2Proof/Machine/Assay.lean ====
section
/-!
DEFINITION. Assays of expanders and disqualification (R153 to R157).
-/

namespace Sys2Proof.Machine

/-- The formula of R155: the maximum times (1 + margin), rounded up to a multiple of 10 ns. -/
def assayMax (s : State) (mx : Nat) : Nat := (mx * (100 + s.contract.margin.toNat) + 999) / 1000 * 10

/-- The classes whose expander ceiling is at least `a` (R155). -/
def qualified (a : Nat) : BitVec 4 :=
  [LClass.slate, .ochre, .vermilion].foldl (fun m c => if a ≤ ceilingOf c then m ||| bit (classCode c) else m) 0

/-- Starts an assay: by haul steps of bench B(8x) while an enabled window targets the link, else by probes at once. -/
def assayRun (s : State) (x : XLink) : State :=
  let a := assayOf s x
  let s := { s with contract := { s.contract with
    assay := tput AssayRec.init s.contract.assay x.toNat { a with samples := [], failed := false, phase := 0, sent := 0 }
    assaying := s.contract.assaying.filter (fun p => p.1 != x) ++ [(x, s.now)] } }
  let s := setX s x .assay 0
  if targeted s x then assayBySteps s x else probeRead s x

/-- A write of a link number to 0x38:0032; a link that is not up has nothing to assay (log entry 22). -/
def assayWrite (s : State) (value : Nat) : Ans :=
  let x : XLink := BitVec.ofNat 5 value
  if 32 ≤ value then (s, .range, 0)
  else if !reachedReadyX s then (s, .quiesceRequired, 0)
  else match (xlinkOf s x).state with
    | .ready | .qualified | .unqualified => (assayRun s x, .ok, 0)
    | .assay => (s, .ok, 0)
    | _ => (s, .range, 0)
where
  reachedReadyX (s : State) : Bool :=
    match s.dev.stage with
    | .localReady | .memoryActive | .containment => true
    | _ => false

def execStartAssay (acc : Accessor) (x : XLink) (s : State) : Host.Outcome State Fault Refusal :=
  act s (fun s => front s acc plainGate noNote (fun s => assayWrite s x.toNat))

/-- The device's own assay of a link in READY. -/
def doAssayStart (s : State) (x : XLink) : State :=
  if (xlinkOf s x).state == .ready && (s.dev.stage == .localReady || presented s) then assayRun s x else s

def execAssayStart (x : XLink) (s : State) : Host.Outcome State Fault Refusal := act s (fun s => doAssayStart s x)

/-- Puts a number into a rising list. -/
def insNat (n : Nat) : List Nat → List Nat
  | [] => [n]
  | m :: l => if n ≤ m then n :: m :: l else m :: insNat n l

/-- The smallest of the samples that at least `n` in 10,000 of them do not exceed. -/
def percentile (l : List Nat) (n : Nat) : Nat := (l.foldr insNat []).getD ((l.length * n + 9999) / 10000 - 1) 0

/-- The result of an assay's samples (R155). -/
def assayResult (s : State) (a : AssayRec) : AssayRec :=
  let mx := maxNat a.samples
  { a with
    count := BitVec.ofNat 64 a.samples.length, sum := BitVec.ofNat 64 (sumNat a.samples), max := BitVec.ofNat 32 mx
    p99 := BitVec.ofNat 32 (percentile a.samples 9900), p9999 := BitVec.ofNat 32 (percentile a.samples 9999)
    a := BitVec.ofNat 32 (assayMax s mx), classes := if a.failed then 0 else qualified (assayMax s mx), time := s.now }

/-- The result of the assay of a link is recorded, reported, and decides the link's state (R155). A link that lost a class
is a capacity change (R165). -/
def assayEnd (s : State) (x : XLink) (a r : AssayRec) : State :=
  let s := { s with contract := { s.contract with
    assay := tput AssayRec.init s.contract.assay x.toNat r, assaying := s.contract.assaying.filter (fun p => p.1 != x) } }
  let s := raise s (if a.failed then 0x249 else 0x248) (xPort s x) [(2, x.toNat), (4, r.a.toNat), (1, r.classes.toNat)]
  let s := setX s x (if r.classes = 0 then .unqualified else .qualified) 0
  if (a.classes &&& ~~~r.classes) = 0 then s else capChange s (.expander x)

/-- The window has ended (R155). -/
def doAssayDone (s : State) (x : XLink) : State :=
  match s.contract.assaying.find? (fun p => p.1 == x) with
  | none => s
  | some (_, t) =>
    let a := assayOf s x
    if since s t < s.contract.window.toNat * 1000000 || a.samples.isEmpty || (xlinkOf s x).state != .assay then s
    else assayEnd s x a (assayResult s a)

def execAssayComplete (x : XLink) (s : State) : Host.Outcome State Fault Refusal := act s (fun s => doAssayDone s x)

/-- A link loses the classes that its largest response of the second no longer qualifies for (R157). -/
def disqualify (s : State) (x : XLink) (mx : Nat) : State :=
  let a := assayOf s x
  let am := assayMax s mx
  let cl := a.classes &&& qualified am
  let s := { s with contract := { s.contract with
    assay := tput AssayRec.init s.contract.assay x.toNat { a with a := BitVec.ofNat 32 am, classes := cl }
    excSec := tput (0, 0, 0) s.contract.excSec x.toNat (0, 0, 0) } }
  let s := raise s 0x24A (xPort s x) [(2, x.toNat), (4, am), (1, cl.toNat)]
  let s := if cl = 0 && (xlinkOf s x).state == .qualified then setX s x .unqualified 0 else s
  if cl = a.classes then s else capChange s (.expander x)

/-- More exceedances within one second than the threshold (R157). -/
def doDisqualify (s : State) (x : XLink) : State :=
  let e := tget ((0 : BitVec 64), 0, 0) s.contract.excSec x.toNat
  if e.2.1 ≤ s.contract.disq.toNat || e.1 != BitVec.ofNat 64 (s.now.toNat / 1000000000) then s else disqualify s x e.2.2

def execDisqualification (x : XLink) (s : State) : Host.Outcome State Fault Refusal := act s (fun s => doDisqualify s x)

end Sys2Proof.Machine
end

