-- ==== Sys2Proof/Machine/Contracts.lean ====
section
/-!
DEFINITION. The contract unit: the token bucket, admission and its checks, shares at a home, deletion and revocation (R137 to
R147, R164 to R169).
-/

namespace Sys2Proof.Machine

-- ===== the token bucket (R138) =====

/-- floor(RATE x 65,536 x t / 1,000). -/
def bucketGain (rate t : Nat) : Nat := rate * 65536 * t / 1000

def bucketStep (now : Time) (c : ContractS) : ContractS :=
  if !c.running then c else
  let t := now - c.ctr.admitted
  let g := bucketGain c.ctr.rate.toNat t.toNat - bucketGain c.ctr.rate.toNat c.lastT.toNat
  { c with rate16 := min (c.rate16 + g) (c.ctr.burst.toNat * 65536), lastT := t }

def doBucketUpdate (s : State) : State :=
  { s with contract := { s.contract with table := s.contract.table.map (fun p => (p.1, bucketStep s.now p.2)) } }

def execBucketUpdate (s : State) : Host.Outcome State Fault Refusal := act s doBucketUpdate

-- ===== refusals and their results (Tables 5-5, 5-6; R146) =====

/-- Why a check failed: the reason, the number of the resource, and the bench; for CONTENDED, the check that would fail. -/
abbrev Why := Nat × Nat × Nat
def noBench : Nat := 0xFFFF

/-- Table 5-6 -/
def reasonStatus (r : Nat) : DStatus := if r = 0 then .ok else if r = 1 || r = 2 || r = 5 then .range else .full

/-- The kind of resource that a reason names (Table 15-18). -/
def resourceKind (r : Nat) : Nat :=
  if r = 3 then 6 else if r = 4 then 1 else if r = 5 then 4 else if r = 6 || r = 10 then 2 else if r = 7 || r = 8 || r = 9 then 5
  else if r = 11 then 3 else 0

/-- The kind of resource of a refusal, and its bench: 0xFFFF unless the reason is TRACKERS, WBUF or BENCH (R146, Table 15-18). -/
def whyKind (y : Why) : Nat := resourceKind (if y.1 = 12 then y.2.2 else y.1)
def whyBench (y : Why) : Nat := if y.1 = 7 || y.1 = 8 || y.1 = 9 then y.2.2 else noBench

def setResult (s : State) (dev : Nat) (y : Why) : State :=
  { s with contract := { s.contract with
    result := (BitVec.ofNat 8 y.1, BitVec.ofNat 8 dev, BitVec.ofNat 8 (whyKind y), BitVec.ofNat 8 y.2.1, BitVec.ofNat 16 (whyBench y)) } }

/-- The admission was refused (R142 step 7). -/
def refused (s : State) (dev : Nat) (y : Why) : State :=
  raise (setResult s dev y) 0x241 164 [(1, y.1), (1, dev), (1, whyKind y), (1, y.2.1), (2, whyBench y)]

-- ===== checks at the origin (Table 5-4, 1 to 4) =====

def liveEntry (c : ContractS) : Bool := c.ctr.state == 1 || c.ctr.state == 2

def fieldsOk (s : State) (c : Contract) : Bool :=
  c.cls != .ash && 1 ≤ c.rate.toNat && 1 ≤ c.burst.toNat && c.burst.toNat ≤ 4096 && c.miss.toNat ≤ 256 && c.write.toNat ≤ 256 &&
  c.state == 0 && c.reason == 0 && c.admitted == 0 && hostUp s c.link && c.homemask != 0 &&
  (if standalone s then c.homemask == bit (devId s).toNat else (c.homemask &&& ~~~s.peer.members) == 0)

/-- Flits of a host link in the last 10 ms (R129, R144). -/
def recentFlits (s : State) (l : HLink) : Nat :=
  (s.snoop.flitLog.filter (fun f => f.1 == l && since s f.2 ≤ 10000000)).length

/-- Check 4 for the contracts `rates` of a link. -/
def check4 (s : State) (l : HLink) (rate : Nat) : Bool :=
  (80000000 * rate + 25600 * recentFlits s l) * 1600 ≤ s.contract.ceil.toNat * 29000000000 * linkCap16 s .host l.toNat

def linkRate (s : State) (l : HLink) : Nat :=
  sumNat ((s.contract.table.filter (fun p => liveEntry p.2 && p.2.ctr.link == l)).map (fun p => p.2.ctr.rate.toNat))

def freeEntry (s : State) : Option Nat :=
  (List.range 4096).find? (fun i => (tget ContractS.init s.contract.table i).ctr.state == 0)

def originCheck (s : State) (c : Contract) : Option Why :=
  if !fieldsOk s c then some (1, 0, noBench)
  else if s.contract.table.any (fun p => liveEntry p.2 && p.2.ctr.link == c.link && p.2.ctr.cls == c.cls && p.2.ctr.win == c.win)
  then some (2, 0, noBench)
  else if (freeEntry s).isNone then some (3, 0, noBench)
  else if !check4 s c.link (linkRate s c.link + c.rate.toNat) then some (4, c.link.toNat, noBench)
  else none

-- ===== checks at a home (Table 5-4, 5 to 11) =====

def classBit (s : State) (x : XLink) (c : LClass) : Bool := (assayOf s x).classes.getLsbD (classCode c)

def check5 (s : State) (c : Contract) (link : LClass) : Bool :=
  let v := winOf s c.win
  v.state == .enabled && !v.trap && lessStrict link v.cls == c.cls

def benchList : List Nat := List.range 256

def check7 (s : State) (l : List Contract) : Option Why :=
  let bad := fun full => 40 < poolNeed s l .vermilion full + poolNeed s l .ochre full
  (benchList.find? (fun b => bad (fullMiss s (BitVec.ofNat 8 b)))).map (fun b => (7, 0, b))

def check8 (s : State) (l : List Contract) : Option Why := if 8 < wbufNeed s l then some (8, 0, 0) else none

/-- Check 9; `clock` gives the clock of a cluster in MHz. -/
def check9 (s : State) (clock : Cluster → Nat) (l : List Contract) : Option Why :=
  (benchList.find? (fun b =>
    let b : Bench := BitVec.ofNat 8 b
    clock (clusterOf b) * unitB * 256 < 4 * demand s l (fullMiss s b))).map (fun b => (9, 0, b))

/-- Check 10 at link `x`. -/
def check10 (s : State) (l : List Contract) (x : XLink) : Option Why :=
  let na := (benchList.filter (fun b => fullMiss s (BitVec.ofNat 8 b))).length
  let need := sumNat ((l.filter (fun c => (winOf s c.win).geo.xl == x)).map (fun c =>
    lamD s c * (na * 256 + (256 - na) * c.miss.toNat + (if writesOn s c.win then c.write.toNat * 256 else 0))))
  if need * 128 ≤ s.contract.ceil.toNat * 29 * linkCap16 s .expander x.toNat * 840 * 65536 then none
  else some (10, x.toNat, noBench)

/-- Ports of the direct links to a device, in sixteenths (R144, check 11). -/
def peerCap16 (s : State) (d : DevId) : Nat :=
  sumNat ((List.range 14).map (fun l =>
    if (plinkOf s l).peer == some d && (plinkOf s l).checked then linkCap16 s .peer l else 0))

/-- Check 11 for origin `e`, over the shares with their origins. -/
def check11 (s : State) (l : List (DevId × Contract)) (e : DevId) : Option Why :=
  if e = devId s then none else
  let need := sumNat ((l.filter (fun p => p.1 == e)).map (fun p => lamD s p.2))
  if need * 128 ≤ s.contract.ceil.toNat * 29 * peerCap16 s e * 840 then none else some (11, e.toNat, noBench)

/-- Checks 7 to 11 over shares, for the links and origins they use. -/
def roomChecks (s : State) (l : List (DevId × Contract)) : Option Why :=
  let cs := l.map (·.2)
  let xs := (cs.map (fun c => (winOf s c.win).geo.xl)).eraseDups
  let es := (l.map (·.1)).eraseDups
  ((check7 s cs).or (check8 s cs)).or
    ((check9 s (clockOf s) cs).or ((xs.findSome? (check10 s cs)).or (es.findSome? (check11 s l))))

/-- The home checks against committed and tentative shares (R144), with CONTENDED under R145. -/
def homeCheck (s : State) (src : DevId) (c : Contract) (link : LClass) : Option Why :=
  if !check5 s c link then some (5, c.win.toNat, noBench)
  else if !classBit s (winOf s c.win).geo.xl c.cls then some (6, (winOf s c.win).geo.xl.toNat, noBench)
  else
    let all := s.contract.shares.map (fun h => (h.origin, h.ctr))
    let firm := (s.contract.shares.filter (fun h => h.state != .tentative)).map (fun h => (h.origin, h.ctr))
    match roomChecks s (all ++ [(src, c)]) with
    | none => none
    | some y => if (roomChecks s (firm ++ [(src, c)])).isNone then some (12, y.2.1, y.1) else some y

-- ===== shares at a home =====

/-- The benches take the pool sizes that the held shares need (R87, R142). -/
def setPools (s : State) : State :=
  let l := heldShares s
  benchList.foldl (fun s b =>
    let b : Bench := BitVec.ofNat 8 b
    let f := fullMiss s b
    modBench s b (fun v => { v with
      poolV := BitVec.ofNat 7 (poolNeed s l .vermilion f), poolO := BitVec.ofNat 7 (poolNeed s l .ochre f),
      wres := if l.any (fun c => c.cls == .vermilion || c.cls == .ochre) then BitVec.ofNat 4 (wbufNeed s l) else 0 })) s

def shareOf (s : State) (src : DevId) (i : CIdx) : Option Share :=
  s.contract.shares.find? (fun h => h.origin == src && h.entry == i)

def setShares (s : State) (l : List Share) : State := { s with contract := { s.contract with shares := l } }

def modShare (s : State) (src : DevId) (i : CIdx) (f : Share → Share) : State :=
  setShares s (mapIf (fun h => h.origin == src && h.entry == i) f s.contract.shares)

/-- A share is dropped or released: its reservations go back (R142, R147, R166). -/
def dropShare (s : State) (src : DevId) (i : CIdx) : State :=
  match shareOf s src i with
  | none => s
  | some h =>
    let s := setShares s (s.contract.shares.filter (fun h => !(h.origin == src && h.entry == i)))
    if h.state == .tentative then s else run (setPools s)

/-- More shared trackers are in use than the bench has left (R142 step 5). -/
def overShared (s : State) (b : Bench) : Bool := sharedSize s b < inPool s b .shared

/-- A CTL message SHARE: its step, the entry, and what the step carries. -/
def shareSend (s : State) (d : DevId) (step : Nat) (i : CIdx) (body : List (BitVec 64)) : State :=
  ctlSend s d 0x0D (BitVec.ofNat 64 step :: i.setWidth 64 :: body)

def contractBody (c : Contract) (link : LClass) : List (BitVec 64) :=
  [c.link.setWidth 64, BitVec.ofNat 64 (classCode c.cls), c.win.setWidth 64, c.homemask.setWidth 64, c.rate.setWidth 64,
   c.burst.setWidth 64, c.miss.setWidth 64, c.write.setWidth 64, BitVec.ofNat 64 (classCode link)]

def homes (s : State) (c : Contract) : List DevId :=
  ((bitsOf c.homemask).map (fun n => (BitVec.ofNat 3 n : DevId))).filter (· != devId s)

def covers (c : Contract) (d : DevId) : Bool := c.homemask.getLsbD d.toNat

-- ===== the origin's side =====

def stopBucket (s : State) (i : CIdx) : State :=
  let c := contractOf s i
  if !c.running then s else
  { setContract s i { c with running := false } with contract :=
    { (setContract s i { c with running := false }).contract with lastStop := some s.now } }

/-- The entry is free: its counters with it (DESIGN CHOICE, log entry 114). -/
def freeContract (s : State) (i : CIdx) : State := setContract s i ContractS.init

/-- The contract is admitted, or its shares are committed and being set aside: a pass may revoke it (R164, R166). -/
def revocable (c : ContractS) : Bool := (c.ctr.state == 2 && c.phase != .releasing) || c.phase == .committing

/-- Revocation of a contract at its origin (R166): bucket, state, event, and the releases to its other homes. An admission whose
shares are still being set aside ends with it, and its write completes with the reason's status (DESIGN CHOICE, log entry 113). -/
def originRevoke (s : State) (i : CIdx) (reason : Nat) (by_ : DevId) : State :=
  let c := contractOf s i
  if !revocable c then s else
  let s := stopBucket s i
  let v := contractOf s i
  let s := setContract s i { v with phase := .idle, by_ := none, ctr := { v.ctr with
    state := 3, reason := BitVec.ofNat 8 reason, admitted := if c.phase == .committing then c.started else v.ctr.admitted } }
  let s := raise s 0x242 164 [(2, i.toNat), (2, c.ctr.tag.toNat), (1, reason)]
  let s := ((homes s c.ctr).filter (· != by_)).foldl (fun s d => shareSend s d 6 i []) s
  let s := if by_ == devId s then s else dropShare s (devId s) i
  if c.phase == .committing then answerLate (setResult s by_.toNat (reason, 0, noBench)) c.by_ (reasonStatus reason) 8 0 else s

/-- A home revokes a share: its origin is told, and the share is released when the origin has answered (R166). -/
def homeRevoke (s : State) (h : Share) (reason : Nat) : State :=
  if h.origin == devId s then dropShare (originRevoke s h.entry reason (devId s)) h.origin h.entry
  else
    let s := modShare s h.origin h.entry (fun h => { h with state := .revoking, reason := BitVec.ofNat 8 reason })
    ctlSend s h.origin 0x0E [0, h.entry.setWidth 64, BitVec.ofNat 64 reason]

-- ===== the steps of an admission (R142) =====

/-- The next admission that waits takes its turn (R391); `go` is one admission. -/
def nextAdmission (s : State) (go : State → (Accessor × Option Frame) → Contract → State) : State :=
  match s.contract.waiting with
  | [] => s
  | (w, c) :: t => go { s with contract := { s.contract with waiting := t } } w c

/-- An admission is in progress at this origin. -/
def admitting (s : State) : Bool :=
  s.contract.table.any (fun p => p.2.phase == .proposing || p.2.phase == .committing)

/-- Every home has confirmed (R142 step 6); ADMITTED is the time of the commit (Table 5-3). -/
def admitDone (s : State) (i : CIdx) : State :=
  let c := contractOf s i
  let by_ := c.by_
  let s := setContract s i { c with
    ctr := { c.ctr with state := 2, admitted := c.started }, phase := .idle, running := true, by_ := none
    rate16 := c.ctr.burst.toNat * 65536, lastT := s.now - c.started }
  let s := raise (setResult s 0xFF (0, 0, noBench)) 0x240 164 [(2, i.toNat), (2, c.ctr.tag.toNat)]
  answerLate s by_ .ok 8 i.toNat

/-- A home's own share is set aside, or nothing is left to wait for: the home confirms. -/
def homeConfirm (s : State) (src : DevId) (i : CIdx) : State :=
  let s := modShare s src i (fun h => { h with state := .committed, setAside := [] })
  if src == devId s then
    let c := contractOf s i
    let m := c.confirmed ||| bit (devId s).toNat
    let s := setContract s i { c with confirmed := m }
    if m == c.ctr.homemask then admitDone s i else s
  else shareSend s src 4 i []

/-- A home commits a share: new pool sizes go to its benches, which set their reservations aside (R142 step 5). -/
def homeCommit (s : State) (src : DevId) (i : CIdx) (t : Time) : State :=
  match shareOf s src i with
  | none => s
  | some h =>
    if h.state != .tentative then s else
    let s := setPools (modShare s src i (fun h => { h with state := .settingAside, admitted := t, ctr := { h.ctr with admitted := t } }))
    let left := (benchList.map (fun b => (BitVec.ofNat 8 b : Bench))).filter (overShared s)
    if left.isEmpty then homeConfirm s src i else modShare s src i (fun h => { h with setAside := left })

/-- Every home has accepted: the origin sends the commit (R142 step 5). -/
def originCommit (s : State) (i : CIdx) : State :=
  let c := contractOf s i
  let s := setContract s i { c with phase := .committing, started := s.now }
  let s := (homes s c.ctr).foldl (fun s d => shareSend s d 3 i [s.now]) s
  if covers c.ctr (devId s) then homeCommit s (devId s) i s.now else s

/-- The admission fails after proposals were sent (R142 step 7). -/
def originAbort (s : State) (i : CIdx) (dev : Nat) (y : Why) : State :=
  let c := contractOf s i
  let s := (homes s c.ctr).foldl (fun s d => shareSend s d 5 i []) s
  let s := if covers c.ctr (devId s) then dropShare s (devId s) i else s
  let s := refused (freeContract s i) dev y
  answerLate s c.by_ (reasonStatus y.1) 8 0

/-- A home holds a share as tentative, or says why not (R142 step 4). -/
def homePropose (s : State) (src : DevId) (i : CIdx) (c : Contract) (link : LClass) : State × Option Why :=
  match homeCheck s src c link with
  | some y => (s, some y)
  | none =>
    (setShares s (s.contract.shares ++ [{ origin := src, entry := i, ctr := c, linkClass := link, state := .tentative,
                                          admitted := 0, reason := 0, setAside := [] }]), none)

/-- A home of a pending contract has accepted. -/
def accepted (s : State) (i : CIdx) (d : DevId) : State :=
  let c := contractOf s i
  let m := c.answered ||| bit d.toNat
  let s := setContract s i { c with answered := m }
  if m == c.ctr.homemask then originCommit s i else s

/-- The routes an admission needs (R142 step 3): the lowest home without one. -/
def noRoute (s : State) (c : Contract) : Option DevId :=
  (homes s c).find? (fun d => tget (Route.unreachable) s.peer.routes d.toNat == .unreachable)

/-- Steps 2 to 4 of an admission. -/
def admitOne (s : State) (w : Accessor × Option Frame) (c : Contract) : State :=
  if !presented s then answerLate s (some w) .quiesceRequired 8 0 else
  match originCheck s c with
  | some y => answerLate (refused s 0xFF y) (some w) (reasonStatus y.1) 8 0
  | none =>
    match noRoute s c, freeEntry s with
    | some d, _ => answerLate (refused s d.toNat (13, 0, noBench)) (some w) .full 8 0
    | none, none => s
    | none, some n =>
      let i : CIdx := BitVec.ofNat 12 n
      let link := (hlinkOf s c.link).cls
      let s := setContract s i { ContractS.init with
        ctr := { c with state := 1 }, phase := .proposing, started := s.now, by_ := some w }
      let s := (homes s c).foldl (fun s d => shareSend s d 1 i (contractBody c link)) s
      if covers c (devId s) then
        match homePropose s (devId s) i c link with
        | (s, none) => accepted s i (devId s)
        | (s, some y) => originAbort s i (devId s).toNat y
      else s

/-- Admissions that wait take their turns until one has to wait for its homes. -/
def admitLoop : Nat → State → State
  | 0, s => s
  | n + 1, s => if admitting s || s.contract.waiting.isEmpty then s else admitLoop n (nextAdmission s admitOne)

def settleAdmissions (s : State) : State := admitLoop s.contract.waiting.length s

/-- A write of a proposed record to 0x38:0011. -/
def admitWrite (s : State) (w : Accessor × Option Frame) (c : Contract) : State :=
  settleAdmissions { s with contract := { s.contract with waiting := s.contract.waiting ++ [(w, c)] } }

def execContractAdmit (acc : Accessor) (ctr : Contract) (s : State) : Host.Outcome State Fault Refusal :=
  act s (fun s => frontLate s acc plainGate (fun s => (admitWrite s (normAcc acc, none) ctr, none)))

-- ===== messages between contract units =====

/-- A peer is heard only as a member of the domain (R24, R325). -/
def fromMember (s : State) (d : DevId) : Bool := d == devId s || s.peer.members.getLsbD d.toNat

def doProposal (s : State) (src : DevId) (i : CIdx) (c : Contract) (link : LClass) : State :=
  if !fromMember s src || src == devId s || (shareOf s src i).isSome then s
  else if !presented s then shareSend s src 2 i [13, 0, 0xFFFF]   -- DESIGN CHOICE, log entry 114
  else match homePropose s src i c link with
    | (s, none) => shareSend s src 2 i [0, 0, 0xFFFF]
    | (s, some y) => shareSend s src 2 i [BitVec.ofNat 64 y.1, BitVec.ofNat 64 y.2.1, BitVec.ofNat 64 y.2.2]

def execShareProposal (src : DevId) (entry : CIdx) (ctr : Contract) (linkClass : LClass) (s : State) :
    Host.Outcome State Fault Refusal := act s (fun s => doProposal (ctlIn s src) src entry ctr linkClass)

/-- A home's answer reaches the origin. -/
def doAccept (s : State) (src : DevId) (i : CIdx) (reason res : Byte) (bench : BitVec 16) : State :=
  let c := contractOf s i
  if c.phase != .proposing || !covers c.ctr src || c.answered.getLsbD src.toNat || src == devId s then s
  else if reason = 0 then accepted s i src
  else settleAdmissions (originAbort s i src.toNat (reason.toNat, res.toNat, bench.toNat))

def execShareAccept (src : DevId) (entry : CIdx) (reason resource : Byte) (bench : BitVec 16) (s : State) :
    Host.Outcome State Fault Refusal := act s (fun s => doAccept (ctlIn s src) src entry reason resource bench)

def execShareCommit (src : DevId) (entry : CIdx) (admitted : Time) (s : State) : Host.Outcome State Fault Refusal :=
  act s (fun s => if src == devId s then s else homeCommit (ctlIn s src) src entry admitted)

/-- A bench confirms that its reservations are set aside. -/
def doSetAside (s : State) (b : Bench) (src : DevId) (i : CIdx) : State :=
  match shareOf s src i with
  | none => s
  | some h =>
    if h.state != .settingAside || !h.setAside.contains b || overShared s b then s else
    let left := h.setAside.filter (· != b)
    if left.isEmpty then settleAdmissions (homeConfirm s src i) else modShare s src i (fun h => { h with setAside := left })

def execSetAsideComplete (b : Bench) (src : DevId) (entry : CIdx) (s : State) : Host.Outcome State Fault Refusal :=
  act s (fun s => doSetAside s b src entry)

/-- Every home has confirmed a deletion, or has had 1 ms to (R147 step 4). -/
def deleteDone (s : State) (i : CIdx) : State :=
  let c := contractOf s i
  let s := raise (freeContract s i) 0x242 164 [(2, i.toNat), (2, c.ctr.tag.toNat), (1, 0x12)]
  answerLate s c.by_ .ok 3 0

/-- A home's confirmation reaches the origin: of a set-aside, or of a release. -/
def doConfirm (s : State) (src : DevId) (i : CIdx) : State :=
  let c := contractOf s i
  if !covers c.ctr src || src == devId s then s else
  let m := c.confirmed ||| bit src.toNat
  match c.phase with
  | .committing =>
    let s := setContract s i { c with confirmed := m }
    if m == c.ctr.homemask then settleAdmissions (admitDone s i) else s
  | .releasing =>
    let s := setContract s i { c with confirmed := m }
    if m == c.ctr.homemask then deleteDone s i else s
  | _ => s

def execShareConfirm (src : DevId) (entry : CIdx) (s : State) : Host.Outcome State Fault Refusal :=
  act s (fun s => doConfirm (ctlIn s src) src entry)

/-- An abort drops a tentative share. -/
def doAbort (s : State) (src : DevId) (i : CIdx) : State :=
  match shareOf s src i with
  | some h => if h.state == .tentative && src != devId s then dropShare s src i else s
  | none => s

def execShareAbort (src : DevId) (entry : CIdx) (s : State) : Host.Outcome State Fault Refusal := act s (fun s => doAbort (ctlIn s src) src entry)

/-- A home has not answered within 1 ms: the lowest-numbered such home is recorded (R142 step 7). -/
def doAdmitTimeout (s : State) (i : CIdx) (dev : DevId) : State :=
  let c := contractOf s i
  if c.phase != .proposing || since s c.started < 1000000 || !covers c.ctr dev || c.answered.getLsbD dev.toNat then s else
  let low := ((bitsOf (c.ctr.homemask &&& ~~~c.answered)).head?).getD dev.toNat
  settleAdmissions (originAbort s i low (13, 0, noBench))

def execAdmissionTimeout (entry : CIdx) (dev : DevId) (s : State) : Host.Outcome State Fault Refusal :=
  act s (fun s => doAdmitTimeout s entry dev)

-- ===== deletion (R147) =====

/-- A write of an entry index to 0x38:0012: what it answers at once, if anything. -/
def deleteWrite (s : State) (w : Accessor × Option Frame) (value : Nat) : State × Option (DStatus × Nat) :=
  let i : CIdx := BitVec.ofNat 12 value
  let c := contractOf s i
  if 4096 ≤ value then (s, some (.range, 0))
  else if c.ctr.state == 3 then (freeContract s i, some (.ok, 0))
  else if c.ctr.state != 2 || c.phase == .releasing then (s, some (.range, 0))
  else
    let s := stopBucket s i
    let c := contractOf s i
    let s := setContract s i { c with
      phase := .releasing, started := s.now, by_ := some w, confirmed := c.ctr.homemask &&& bit (devId s).toNat }
    let s := (homes s c.ctr).foldl (fun s d => shareSend s d 6 i []) s
    let s := dropShare s (devId s) i
    ((if (homes s c.ctr).isEmpty then deleteDone s i else s), none)

def execContractDelete (acc : Accessor) (entry : CIdx) (s : State) : Host.Outcome State Fault Refusal :=
  act s (fun s => frontLate s acc plainGate (fun s => deleteWrite s (normAcc acc, none) entry.toNat))

/-- A release reaches a home, which confirms. -/
def doShareRelease (s : State) (src : DevId) (i : CIdx) : State :=
  if src == devId s || !fromMember s src then s else shareSend (dropShare s src i) src 4 i []

def execShareRelease (src : DevId) (entry : CIdx) (s : State) : Host.Outcome State Fault Refusal :=
  act s (fun s => doShareRelease (ctlIn s src) src entry)

def doDeleteTimeout (s : State) (i : CIdx) : State :=
  let c := contractOf s i
  if c.phase == .releasing && 1000000 ≤ since s c.started then deleteDone s i else s

def execDeleteTimeout (entry : CIdx) (s : State) : Host.Outcome State Fault Refusal := act s (fun s => doDeleteTimeout s entry)

-- ===== parameters (R169) =====

def setParam (s : State) (item v : Nat) : Option State :=
  let c := s.contract
  match item with
  | 2 => if 1 ≤ v && v ≤ 256 then some { s with contract := { c with spread := BitVec.ofNat 9 v } } else none
  | 3 => if 50 ≤ v && v ≤ 90 then some { s with contract := { c with ceil := BitVec.ofNat 7 v } } else none
  | 4 => if 10 ≤ v && v ≤ 100 then some { s with contract := { c with margin := BitVec.ofNat 7 v } } else none
  | 5 => if 500 ≤ v && v ≤ 60000 then some { s with contract := { c with window := BitVec.ofNat 16 v } } else none
  | 6 => if 1 ≤ v && v ≤ 65535 then some { s with contract := { c with disq := BitVec.ofNat 16 v } } else none
  | _ => none

def paramWrite (s : State) (item v : Nat) : Ans :=
  if item < 2 || 6 < item then (s, .noObject, 0) else
  match setParam s item v with
  | some s => (capChange s .param, .ok, 0)
  | none => (s, .range, 0)

def execContractParamWrite (acc : Accessor) (item : BitVec 16) (value : BitVec 32) (s : State) :
    Host.Outcome State Fault Refusal :=
  act s (fun s => front s acc plainGate noNote (fun s => paramWrite s item.toNat value.toNat))

-- ===== revocation (R164 to R167) =====

/-- Committed shares, with their origins. -/
def committedShares (s : State) : List Share :=
  s.contract.shares.filter (fun h => h.state == .committed || h.state == .settingAside)

/-- A failed check of a pass: its reason and which shares use the resource. -/
abbrev Failing := Nat × (Share → Bool)

def onLink (s : State) (x : XLink) (h : Share) : Bool := (winOf s h.ctr.win).geo.xl == x

/-- Check 5 for a committed share; a window that is disabled keeps its contracts (R56, R168). -/
def fail5 (s : State) (l : List Share) : Option Failing :=
  let bad := fun (h : Share) => (winOf s h.ctr.win).state == .enabled && !check5 s h.ctr h.linkClass
  if l.any bad then some (5, bad) else none

def fail6 (s : State) (l : List Share) : Option Failing :=
  let bad := fun (h : Share) => (winOf s h.ctr.win).state == .enabled && !classBit s (winOf s h.ctr.win).geo.xl h.ctr.cls
  if l.any bad then some (6, bad) else none

def failRoom (s : State) (l : List Share) : Option Failing :=
  match roomChecks s (l.map (fun h => (h.origin, h.ctr))) with
  | none => none
  | some (10, x, _) => some (10, onLink s (BitVec.ofNat 5 x))
  | some (11, e, _) => some (11, fun h => h.origin.toNat == e)
  | some (r, _, _) => some (r, fun h => r = 9 || h.ctr.cls == .vermilion || h.ctr.cls == .ochre)

/-- The failing check that a capacity change brings up. -/
def failing (s : State) (cause : PassCause) : Option Failing :=
  let l := committedShares s
  match cause with
  | .hostLink _ | .linkClass _ => none
  | .expander _ | .benches | .peerLinks _ => (fail6 s l).or (failRoom s l)
  | .expanderLost x => if l.any (onLink s x) then some (0x10, onLink s x) else none
  | .window _ | .param => ((fail5 s l).or (fail6 s l)).or (failRoom s l)
  | .thermal c mhz =>
    if mhz.toNat < 1200 then (if l.isEmpty then none else some (0x11, fun _ => true))
    else
      match check9 s (fun k => if k = c then mhz.toNat else clockOf s k) (l.map (·.ctr)) with
      | some _ => some (0x11, fun _ => true)
      | none => none

/-- `a` is revoked before `b` (R166). -/
def revokedFirst (a b : Share) : Bool :=
  if a.ctr.cls != b.ctr.cls then classCode a.ctr.cls < classCode b.ctr.cls
  else if a.admitted != b.admitted then b.admitted < a.admitted
  else if a.origin != b.origin then b.origin < a.origin
  else false

def firstOf (l : List Share) : Option Share :=
  match l with
  | [] => none
  | h :: t => some (t.foldl (fun a b => if revokedFirst b a then b else a) h)

/-- The contracts of this origin that `p` names, as a pass orders them. -/
def ownShares (s : State) (p : Contract → Bool) : List Share :=
  (s.contract.table.filter (fun e => revocable e.2 && p e.2.ctr)).map (fun e =>
    { origin := devId s, entry := BitVec.ofNat 12 e.1, ctr := e.2.ctr, linkClass := .ash, state := .committed,
      admitted := if e.2.phase == .committing then e.2.started else e.2.ctr.admitted, reason := 0, setAside := [] })

/-- Revokes until the check passes. -/
def passLoop (cause : PassCause) : Nat → State → State
  | 0, s => s
  | n + 1, s =>
    match failing s cause with
    | none => s
    | some (reason, uses) =>
      match firstOf ((committedShares s).filter uses) with
      | none => s
      | some h => passLoop cause n (homeRevoke s h reason)

/-- A pass over the contracts of a host link of this device (check 4): the origin revokes. -/
def linkLoop (l : HLink) : Nat → State → State
  | 0, s => s
  | n + 1, s =>
    if check4 s l (linkRate s l) then s else
    match firstOf (ownShares s (fun c => c.link == l)) with
    | none => s
    | some h => linkLoop l n (dropShare (originRevoke s h.entry 4 (devId s)) h.origin h.entry)

/-- A contract of the link whose class is not the eligible class of its link and window any more at some home (R293, check
5); a window that is not enabled keeps its contracts (R56). -/
def overClass (s : State) (l : HLink) (c : Contract) : Bool :=
  c.link == l && (bitsOf c.homemask).any (fun n =>
    let e := dirEntry s (BitVec.ofNat 3 n) c.win.toNat
    e.enabled && lessStrict (hlinkOf s l).cls e.cls != c.cls)

/-- A pass after a change of a host link's class: the origin revokes with reason WINDOW. -/
def classLoop (l : HLink) : Nat → State → State
  | 0, s => s
  | n + 1, s =>
    match firstOf (ownShares s (overClass s l)) with
    | none => s
    | some h => classLoop l n (dropShare (originRevoke s h.entry 5 (devId s)) h.origin h.entry)

/-- Check 4 again on every host link of this device, lowest link first (R164, a changed parameter). -/
def linksLoop (s : State) : State :=
  [0, 1, 2, 3, 4, 5, 6, 7].foldl (fun s l => linkLoop (BitVec.ofNat 3 l) (s.contract.table.length + 1) s) s

/-- A capacity change has been dealt with; thermal control waits for its own (R167). -/
def passOne (s : State) (cause : PassCause) : State :=
  match cause with
  | .hostLink l => linkLoop l (s.contract.table.length + 1) s
  | .linkClass l => classLoop l (s.contract.table.length + 1) s
  | .param => passLoop cause ((linksLoop s).contract.shares.length + 1) (linksLoop s)
  | _ => passLoop cause (s.contract.shares.length + 1) s

/-- The contract unit takes the oldest capacity change (R145, R166). -/
def doPass (s : State) : State :=
  match s.contract.passes with
  | [] => s
  | p :: t => settleAdmissions <| setPoolsIf (passOne { s with contract := { s.contract with passes := t } } p)
where
  setPoolsIf (s : State) : State := if s.contract.shares.isEmpty then s else run (setPools s)

def execRevocationPass (s : State) : Host.Outcome State Fault Refusal := act s doPass

/-- A revoke reaches the origin, which answers the home. -/
def doRevoke (s : State) (src : DevId) (i : CIdx) (reason : Byte) : State :=
  let c := contractOf s i
  if src == devId s || !fromMember s src || !covers c.ctr src then s
  else settleAdmissions (ctlSend (originRevoke s i reason.toNat src) src 0x0E [1, i.setWidth 64])

def execRevoke (src : DevId) (entry : CIdx) (reason : Byte) (s : State) : Host.Outcome State Fault Refusal :=
  act s (fun s => doRevoke (ctlIn s src) src entry reason)

/-- The origin has answered: the home releases the share. -/
def doRevokeAnswer (s : State) (src : DevId) (i : CIdx) : State :=
  match shareOf s src i with
  | some h => if h.state == .revoking then dropShare s src i else s
  | none => s

def execRevokeAnswer (src : DevId) (entry : CIdx) (s : State) : Host.Outcome State Fault Refusal :=
  act s (fun s => doRevokeAnswer (ctlIn s src) src entry)

/-- 10 µs after the last bucket of a pass stopped. -/
def doGraceEnd (s : State) : State :=
  match s.contract.lastStop with
  | some t => if 10000 ≤ since s t then { s with contract := { s.contract with lastStop := none } } else s
  | none => s

def execRevocationGraceEnd (s : State) : Host.Outcome State Fault Refusal := act s doGraceEnd

end Sys2Proof.Machine
end

