-- ==== Sys2Proof/Machine/Host.lean ====
section
/-!
DEFINITION. Commands of the host links: requests, answers to back-invalidates, responses that leave, and the accesses of
non-caching requesters (04, R295).
-/

namespace Sys2Proof.Machine

-- ===== snoop write-backs and responses =====

/-- The snoop-table entry that a message of a host link answers (R114, R335). -/
def tableEntry (s : State) (l : HLink) (sa : SA) : Option SnoopTab :=
  s.snoop.table.find? (fun e => e.link == l && e.sent && e.hs == (hlinkOf s l).hsock && lineSa e.sa == lineSa sa)

/-- A snoop outstanding toward the socket of a host link for a line, on whichever of its links (R113, R335). -/
def socketEntry (s : State) (l : HLink) (sa : SA) : Option SnoopTab :=
  s.snoop.table.find? (fun e => e.hs == (hlinkOf s l).hsock && lineSa e.sa == lineSa sa)

/-- The snoop that a message with the home's snoop tag answers. -/
def snoopOf (s : State) (hs : HostSock) (tag : BitVec 16) : Option Snoop :=
  s.snoop.snoops.find? (fun v => v.hs == hs && BitVec.ofNat 16 v.id == tag)

/-- The window whose policy a snoop write-back takes: the one that holds the address, draining or not, else the retained one. -/
def snoopWin (s : State) (dla : DLA) : Option WinId :=
  match s.region.win.find? (fun p => p.2.state != .disabled && inSpan p.2.geo dla) with
  | some p => some (BitVec.ofNat 6 p.1)
  | none => (retainedAt s dla).map (·.1)

/-- A write of a socket whose snoop has completed by timeout is a new request (R115); the port has completed it. -/
def lateWrite (s : State) (hs : HostSock) (sa : SA) (data : Line) (be : BitVec 64) (poison : Bool) : State :=
  match homeOf s sa with
  | none => s
  | some (d, dla) =>
    match windowAt s dla with
    | none => s
    | some w =>
      if d != devId s then s
      else if !presented s then
        (if s.dev.stage == .containment then { s with rel := { s.rel with resDiscarded := s.rel.resDiscarded + 1 } } else s)
      else
      let op : ReqOp := if be == BitVec.allOnes 64 then .memWr .i else .memWrPtl .i
      run (arrive s (formReq s s.cache.nextReq op .gone .hostSocket hs sa dla w .ash none s.now data be poison 0 0))

/-- A snoop write-back is performed at the home (R113). -/
def snoopWbHome (s : State) (v : Snoop) (data : Line) (be : BitVec 64) (poison : Bool) : State :=
  match snoopWin s v.dla with
  | none => s
  | some w =>
    let b := benchOfDla v.dla
    let full := be == BitVec.allOnes 64
    let r := formReq s s.cache.nextReq (if full then .memWr .i else .memWrPtl .i) .mgmt .hostSocket v.hs v.sa v.dla w .ash none
      s.now data be poison 0 0
    let s := { s with snoop := { s.snoop with snoops := mapIf (fun x => x.id == v.id) (fun x => { x with wrote := true }) s.snoop.snoops } }
    if lostWin s w && (wayOfDla s v.dla).isNone then discardLost s w b v.dla
    else
      let s := match wFresh s v.dla with
        | some e => placeMerge s b e data be poison
        | none => placeNew s r ((freeSlot s b ((List.range 16).map (· + 32))).getD 47) data be poison
      performed s r full poison

/-- A RSP or DATA message of the attachment device that answers a snoop (R335). -/
def snoopMsg (s : State) (e : SnoopTab) (op : RspOp) (data : Line) (be : BitVec 64) (poison : Bool) : PeerRsp :=
  { src := devId s, dst := e.home, via := none, resent := false, op := op, tag := e.tag, rsq := 0, hs := e.hs, sa := e.sa, cls := .ash,
    status := .ok, mismatch := false, hit := false, causeFault := false, causePartner := false, causeCoherence := false,
    rqc := false, devload := 0, dsl := 0xFFF, poison := poison, data := data, be := be }

/-- A message that answers a snoop reaches the home (R112, R113, R115). -/
def homeBirsp (s : State) (hs : HostSock) (tag : BitVec 16) (r : BIRsp) : State :=
  match snoopOf s hs tag with
  | some v => run (applyRsp s v r)
  | none => violation s hs true

/-- A BIConflict reaches the home: the acknowledgement follows the completions already sent (R114). -/
def conflictAck (s : State) (l : HLink) (hs : HostSock) (sa : SA) : State :=
  let m : HostMsg := ⟨l, snoopMember s l sa, 0, 0, false⟩
  pushResp s { portResp s m .conflictAck false sa with hs := hs }

/-- Answers a BIRsp or BIConflict that no snoop-table entry matches (R114 to R116). A second BIRsp to a snoop that was
answered is discarded; a BIConflict is counted, and is no violation since a snoop was outstanding (log entry 17). -/
def strayRsp (s : State) (hs : HostSock) (sa : SA) (conflict : Bool) : State :=
  match s.snoop.past.find? (fun p => p.1 == hs && lineSa p.2.1 == lineSa sa) with
  | some (_, _, true) => violation s hs true
  | some (_, _, false) => if conflict then violation s hs true else s
  | none => violation s hs false

/-- A response to the snoop of a line is noted (R115, R116). -/
def answered (s : State) (hs : HostSock) (sa : SA) : State :=
  { s with snoop := { s.snoop with past := (hs, sa, false) :: s.snoop.past.filter (fun p => !(p.1 == hs && p.2.1 == sa)) } }

def doBirsp (s : State) (l : HLink) (m : BitVec 2) (sa : SA) (r : BIRsp) : State :=
  if !memberUp s l m then s else
  let hs := (hlinkOf s l).hsock
  let s := countFlit s l
  match tableEntry s l sa with
  | none => strayRsp s hs sa false
  | some e =>
    let s := answered (tableFree s e) hs e.sa
    if e.home = devId s then homeBirsp s hs e.tag r
    else peerSend s e.home (.rsp (snoopMsg s e (.birsp r) 0 0 false)) none

def doBiconflict (s : State) (l : HLink) (m : BitVec 2) (sa : SA) : State :=
  if !memberUp s l m then s else
  let hs := (hlinkOf s l).hsock
  match tableEntry s l sa with
  | none => conflictAck (strayRsp s hs sa true) l hs sa
  | some e =>
    if e.home = devId s then conflictAck s l hs sa
    else peerSend s e.home (.rsp (snoopMsg s e .biConflict 0 0 false)) none

/-- A host write: a snoop write-back when the socket has a snoop outstanding for the line (R113, R335), else a request. -/
def hostWrite (s : State) (m : HostMsg) (op : ReqOp) (data : Line) (be : BitVec 64) (poison : Bool) : State :=
  let s := if poison && memberUp s m.link m.member && presented s then
      notePoison s 1 ((memberPort s m.link m.member).getD 0) (refusedSa s m) else s
  match (saOfMsg s m).bind (socketEntry s m.link) with
  | none => hostRequest s m op data be poison
  | some e =>
    if !memberUp s m.link m.member || !(presented s || s.dev.stage == .containment) then s else
    let hs := (hlinkOf s m.link).hsock
    -- the write's own completion, at the port
    let s := pushResp s (portResp s m (.cmp .cmp) false e.sa)
    if e.home = devId s then
      match snoopOf s hs e.tag with
      | some v => snoopWbHome s v data be poison
      | none => lateWrite s hs e.sa data be poison
    else peerSend s e.home (.rsp (snoopMsg s e (.snoopWb (be == BitVec.allOnes 64)) data be poison)) none

-- ===== responses that leave (R132, R294) =====

/-- What must leave before a response may: a BIConflictAck follows every response queued for its socket (R114). -/
def mayLeave (s : State) (r : Resp) : Bool :=
  match r.kind with
  | .conflictAck => !(s.port.resp.any (fun x => x.id < r.id && x.link == r.link && x.hs == r.hs && !x.left))
  | _ => true

/-- The egress sends: in L0, or in a grace window for a response that an urgent flit carries (R305); not while its island's PLL
has no lock (R373). -/
def sending (s : State) (p : Nat) (r : Resp) : Bool :=
  !s.clk.unlocked.contains p &&
  (match (linkOf s p).state with
   | .l0 => true
   | .grace => r.inFlit
   | _ => false)

/-- A response that carries data leaves on DRS, another on NDR. -/
def onDrs (r : Resp) : Bool := match r.kind with
  | .memData _ => true
  | _ => false

/-- Within a channel the earliest deadline goes first, then what has none, oldest first (R150). -/
def egressBefore (a b : Resp) : Bool :=
  match a.deadline, b.deadline with
  | some x, some y => x < y || (x == y && a.id < b.id)
  | some _, none => true
  | none, some _ => false
  | none, none => a.tin < b.tin || (a.tin == b.tin && a.id < b.id)

/-- No other response of the channel that could leave now goes before this one (R150). -/
def egressFirst (s : State) (p : Nat) (r : Resp) : Bool :=
  !(s.port.resp.any (fun x => x.link == r.link && x.member == r.member && onDrs x == onDrs r && !x.left && mayLeave s x &&
    sending s p x && egressBefore x r))

def dropResp (s : State) (id : Nat) : State :=
  { s with port := { s.port with resp := s.port.resp.filter (fun x => x.id != id) } }

/-- DevLoad as a response leaves, when its tracker is released (R296); the home of a peer-homed request has sent its own. -/
def leavingLoad (s : State) (r : Resp) : BitVec 2 :=
  match r.req.bind (reqOf s) with
  | some q => if (hlinkOf s r.link).telem then devload s q else 0
  | none => r.devload

/-- The first bit of a response leaves on the member on which the request entered. -/
def doHostEgress (s : State) (id : Nat) : State :=
  match s.port.resp.find? (fun x => x.id == id) with
  | none => s
  | some r =>
    match memberPort s r.link r.member with
    | none => s
    | some p =>
      if r.left || !mayLeave s r || !memberUp s r.link r.member || !sending s p r || !egressFirst s p r then s else
      let s := countDev s 0x106 (1 + r.link.toNat)
      let s := account s r p
      let r := { r with devload := leavingLoad s r }
      let s := match r.kind with
        | .conflictAck => emit s (.conflictAck r.link r.member r.sa)
        | _ => emit s (.resp r)
      match r.req with
      | none => dropResp s id
      | some _ => { s with port := { s.port with resp := mapIf (fun x => x.id == id) (fun x => { x with left := true }) s.port.resp } }

-- ===== the commands =====

def execMemRd (m : HostMsg) (mv : MetaValue) (s : State) : Host.Outcome State Fault Refusal :=
  act s (fun s => hostRequest s m (.memRd mv) 0 0 false)

def execMemRdData (m : HostMsg) (s : State) : Host.Outcome State Fault Refusal :=
  act s (fun s => hostRequest s m .memRdData 0 0 false)

/-- MetaValue S is a violation, answered at the ingress port (Table 4-3); MemInvNT is handled as MemInv. -/
def doMemInv (s : State) (m : HostMsg) (mv : MetaValue) : State :=
  match mv with
  | .s =>
    if !memberUp s m.link m.member then s else
    pushResp (violation s (hlinkOf s m.link).hsock false) (portResp s m (.cmp .cmp) false (refusedSa s m))
  | mv => hostRequest s m (.memInv mv) 0 0 false

def execMemInv (m : HostMsg) (mv : MetaValue) (_nt : Bool) (s : State) : Host.Outcome State Fault Refusal :=
  act s (fun s => doMemInv s m mv)

def execMemSpecRd (m : HostMsg) (s : State) : Host.Outcome State Fault Refusal :=
  act s (fun s => hostRequest s m .memSpecRd 0 0 false)

def execMemClnEvct (m : HostMsg) (s : State) : Host.Outcome State Fault Refusal :=
  act s (fun s => hostRequest s m .memClnEvct 0 0 false)

def execMemWr (m : HostMsg) (mv : MetaValue) (data : Line) (poison : Bool) (s : State) : Host.Outcome State Fault Refusal :=
  act s (fun s => hostWrite s m (.memWr mv) data (BitVec.allOnes 64) poison)

def execMemWrPtl (m : HostMsg) (mv : MetaValue) (data : Line) (be : BitVec 64) (poison : Bool) (s : State) :
    Host.Outcome State Fault Refusal :=
  act s (fun s => hostWrite s m (.memWrPtl mv) data be poison)

/-- R295 -/
def doUnsupported (s : State) (m : HostMsg) (read : Bool) : State :=
  if !memberUp s m.link m.member then s else
  portAnswer (violation s (hlinkOf s m.link).hsock false) m (if read then .memRd .i else .memWr .i) (refusedSa s m)

def execUnsupportedHostOpcode (m : HostMsg) (read : Bool) (s : State) : Host.Outcome State Fault Refusal :=
  act s (fun s => doUnsupported s m read)

def execBirsp (link : HLink) (member : BitVec 2) (sa : SA) (rsp : BIRsp) (s : State) : Host.Outcome State Fault Refusal :=
  act s (fun s => doBirsp s link member sa rsp)

/-- Without a snoop outstanding the write is a new request that leaves the socket without a copy (R115; log entry 18). -/
def execSnoopWriteBack (m : HostMsg) (data : Line) (be : BitVec 64) (poison : Bool) (s : State) :
    Host.Outcome State Fault Refusal :=
  act s (fun s => hostWrite s m (if be = BitVec.allOnes 64 then .memWr .i else .memWrPtl .i) data be poison)

def execBiconflict (link : HLink) (member : BitVec 2) (sa : SA) (s : State) : Host.Outcome State Fault Refusal :=
  act s (fun s => doBiconflict s link member sa)

def doBisnpTimeout (s : State) (id : Nat) : State :=
  match s.snoop.snoops.find? (fun v => v.id == id) with
  | some v => if since s v.issued < v.timeout.toNat * 1000 then s else run (snoopTimeout s v)
  | none => s

def execBisnpTimeout (id : Nat) (s : State) : Host.Outcome State Fault Refusal := act s (fun s => doBisnpTimeout s id)

/-- A hold has ended: a request whose back-invalidate waited behind it goes on, and so does one that waits for an eligible
way of its snoop-filter set (R117, R122). -/
def doHoldExpiry (s : State) (id : Nat) : State :=
  match reqOf s id with
  | some r =>
    if r.phase == .hold && !held s r.dla then run (toPhase s id .line)
    else if r.phase == .line then run s
    else s
  | none => s

def execHoldExpiry (id : Nat) (s : State) : Host.Outcome State Fault Refusal := act s (fun s => doHoldExpiry s id)

/-- The check of one millisecond (R123); a threshold of 0 disables the event. -/
def doEvictionRate (s : State) : State :=
  let n := (s.snoop.evictions - s.snoop.evictMs).toNat
  let t := s.snoop.evictThreshold.toNat
  let s := { s with snoop := { s.snoop with evictMs := s.snoop.evictions } }
  if t ≠ 0 ∧ t < n then raise s 0x203 164 [] else s

def execEvictionRateCheck (s : State) : Host.Outcome State Fault Refusal := act s doEvictionRate

def execNoncachingRead (rq : NcReq) (s : State) : Host.Outcome State Fault Refusal :=
  act s (fun s => ncAccess s rq .ncRead 0 0 false)

def execNoncachingWrite (rq : NcReq) (data : Line) (be : BitVec 64) (poison : Bool) (s : State) :
    Host.Outcome State Fault Refusal :=
  act s (fun s => ncAccess s rq (if be = BitVec.allOnes 64 then .ncWrite else .ncWritePtl) data be poison)

def execHostResponseEgress (id : Nat) (s : State) : Host.Outcome State Fault Refusal := act s (fun s => doHostEgress s id)

end Sys2Proof.Machine
end

