-- ==== Sys2Proof/Machine/Windows.lean ====
section
/-!
DEFINITION. Region windows: their registers, enable and drain (R37 to R58, R280), marks and the mark trap (R45 to R51).
-/

namespace Sys2Proof.Machine

-- ===== the register block =====

def winNote (w : WinId) (e : DStatus) (s : State) : State := modWin s w (fun v => { v with lasterr := e })

/-- The gate of window register `off` (Table 2-3, Table 15-5). -/
def winGate (w : WinId) (off : Nat) (crit : Bool) : Gate :=
  { plainGate with crit := crit, off := some (0x10000 + w.toNat * 64 + off) }

/-- WIN_CTL, WIN_TGT and WIN_ATTR as they read. -/
def winCtl (v : Win) : BitVec 32 :=
  BitVec.ofNat 32 ((if v.flush then 2 else 0) + (if v.enable then 1 else 0))
def winTgt (v : Win) : BitVec 32 := BitVec.ofNat 32 (v.geo.xl.toNat * 2 ^ 15 + v.geo.toffset.toNat)
def winAttr (v : Win) : BitVec 32 :=
  BitVec.ofNat 32 (b2n v.trap * 2 ^ 15 + b2n v.s * 2 ^ 14 + b2n v.u * 2 ^ 13 + b2n v.x * 2 ^ 12 + b2n v.w * 2 ^ 11 +
    b2n v.r * 2 ^ 10 + classCode v.cls * 2 ^ 8 + v.insert.toNat * 64 + v.span.toNat * 16 + v.geo.policy.toNat)

def wstateCode : WState → Nat
  | .disabled => 0 | .draining => 1 | .enabled => 2 | .targetLost => 3

/-- An admitted contract names the window (Table 2-8). -/
def contracted (s : State) (w : WinId) : Bool := s.contract.table.any (fun p => p.2.ctr.state == 2 && p.2.ctr.win == w)

def winStat (s : State) (w : WinId) : BitVec 32 :=
  let v := winOf s w
  BitVec.ofNat 32 (statusCode v.lasterr * 2 ^ 28 + (if v.state == .disabled then 0 else v.segshift.toNat) * 2 ^ 16 +
    b2n (contracted s w) * 8 + wstateCode v.state)

-- ===== marks (R45 to R51) =====

/-- A mark segment that holds an address of the span (R45). -/
def segIn (v : Win) (n : Nat) : Bool := 30 ≤ v.segshift.toNat && n < segCount v

/-- The benches at which held writes of a segment wait. -/
def heldBenches (s : State) (w : WinId) (seg : BitVec 6) : List Bench :=
  ((s.cache.reqs.filter (fun r => r.trap && r.win == w && r.seg == seg)).map (fun r => benchOfDla r.dla)).eraseDups

/-- Island 164 releases a segment (R49): dirty is set, pending cleared, and the release leaves for the benches. -/
def releaseSeg (s : State) (w : WinId) (seg : BitVec 6) : State :=
  let bs := heldBenches s w seg
  let m : BitVec 64 := bit seg.toNat
  let s := modWin s w (fun v => { v with
    drt := if segIn v seg.toNat then v.drt ||| m else v.drt
    pnd := v.pnd &&& ~~~m
    pndAt := tput 0 v.pndAt seg.toNat 0 })
  { s with region := { s.region with releases := s.region.releases ++ bs.map (fun b => ⟨b, w, seg, none⟩) } }

/-- Releases every pending segment of a window (R49 OP 0b10, R50). -/
def releasePending (s : State) (w : WinId) : State :=
  (bitsOf (winOf s w).pnd).foldl (fun s n => releaseSeg s w (BitVec.ofNat 6 n)) s

/-- The mark request is the oldest CTL transfer of its island to island 164, which has its clock (R15, R19). -/
def markNext (s : State) (m : MarkReq) : Bool :=
  m.ahead == 0 && s.region.markReqs.find? (fun x => x.island == m.island) == some m && !s.clk.unlocked.contains 164

/-- A mark request reaches island 164 (R48). -/
def doMarkRequest (s : State) (id : Nat) : State :=
  match takeFirst (fun m => m.req == id) s.region.markReqs with
  | none => s
  | some (m, rest) =>
    if !markNext s m then s else
    let s := { s with region := { s.region with markReqs := rest } }
    let v := winOf s m.win
    if v.drt.getLsbD m.seg.toNat || !v.trap || v.state != .enabled then
      match reqOf s id with
      | some r => { s with region := { s.region with releases := s.region.releases ++ [⟨benchOfDla r.dla, m.win, m.seg, some id⟩] } }
      | none => s
    else if v.pnd.getLsbD m.seg.toNat then s
    else
      let s := modWin s m.win (fun v => { v with pnd := v.pnd ||| bit m.seg.toNat, pndAt := tput 0 v.pndAt m.seg.toNat s.now })
      raise s (0x100 + m.win.toNat) 164 [(2, m.seg.toNat), (8, m.sa.toNat)]

def execMarkRequest (id : Nat) (s : State) : Host.Outcome State Fault Refusal := act s (fun s => doMarkRequest s id)

/-- 10 ms after the pending bit was set the Goraskey releases the segment itself (R49). -/
def doMarkTimeout (s : State) (w : WinId) (seg : BitVec 6) : State :=
  let v := winOf s w
  if v.pnd.getLsbD seg.toNat && 10000000 ≤ since s (tget 0 v.pndAt seg.toNat) then
    raise (releaseSeg s w seg) 0x182 164 [(2, w.toNat), (2, seg.toNat)]
  else s

def execMarkTimeout (w : WinId) (seg : BitVec 6) (s : State) : Host.Outcome State Fault Refusal :=
  act s (fun s => doMarkTimeout s w seg)

/-- The held writes of a segment at a bench, or the single one a release names. -/
def heldWrite (b : Bench) (w : WinId) (seg : BitVec 6) (one : Option Nat) (r : Req) : Bool :=
  r.trap && r.win == w && r.seg == seg && atBench b r &&
  (match one with
   | some id => r.id == id
   | none => true)

/-- A held write is free: it waits no longer for a release. -/
def unhold (s : State) (r : Req) : Req :=
  { r with
    trap := false
    phase := if r.phase == .trapped then .line else r.phase
    phaseSince := s.now
    waited := if r.phase == .trapped then r.waited + since s r.phaseSince else r.waited }

/-- Held writes enter their lines' order, in the order they reached the bench. -/
def freeHeld (s : State) (p : Req → Bool) : State :=
  let held := s.cache.reqs.filter (fun r => p r && r.phase == .trapped)
  setReqs s (mapIf p (unhold s) (s.cache.reqs.filter (fun r => !(p r && r.phase == .trapped))) ++ held.map (unhold s))

/-- The release is the oldest CTL transfer from island 164 to its cluster, which has its clock (R15, R19). -/
def releaseNext (s : State) (x : Release) : Bool :=
  s.region.releases.find? (fun y => clusterIsland y.bench == clusterIsland x.bench) == some x &&
  !s.clk.unlocked.contains (clusterIsland x.bench)

/-- A release arrives at a bench (R49). -/
def doMarkRelease (s : State) (b : Bench) (w : WinId) (seg : BitVec 6) : State :=
  match takeFirst (fun x => x.bench == b && x.win == w && x.seg == seg) s.region.releases with
  | none => s
  | some (x, rest) =>
    if !releaseNext s x then s else
    run (freeHeld { s with region := { s.region with releases := rest } } (heldWrite b w seg x.one))

def execMarkRelease (b : Bench) (w : WinId) (seg : BitVec 6) (s : State) : Host.Outcome State Fault Refusal :=
  act s (fun s => doMarkRelease s b w seg)

/-- WIN_MCMD (Table 2-12). -/
def mcmdWrite (s : State) (w : WinId) (value : BitVec 32) : Ans :=
  let seg : BitVec 6 := value.setWidth 6
  let s := modWin s w (fun v => { v with mcmd := value &&& 0x33F })
  let s := match (value.toNat / 256) % 4 with
    | 1 => releaseSeg s w seg
    | 2 => releasePending s w
    | 3 => releasePending (modWin s w (fun v =>
        { v with drt := if 30 ≤ v.segshift.toNat then v.drt ||| (BitVec.allOnes 64 >>> (64 - segCount v)) else v.drt })) w
    | _ => s
  (s, .ok, 0)

def mcmdFront (s : State) (acc : Accessor) (w : WinId) (value : BitVec 32) : State :=
  front s acc (winGate w 0x18 false) (winNote w) (fun s => mcmdWrite s w value)

def execSetDirtyReleaseSegment (acc : Accessor) (w : WinId) (seg : BitVec 6) (s : State) : Host.Outcome State Fault Refusal :=
  act s (fun s => mcmdFront s acc w (0x100 ||| seg.setWidth 32))

def execSetDirtyReleasePending (acc : Accessor) (w : WinId) (s : State) : Host.Outcome State Fault Refusal :=
  act s (fun s => mcmdFront s acc w 0x200)

def execSetDirtyAllSegments (acc : Accessor) (w : WinId) (s : State) : Host.Outcome State Fault Refusal :=
  act s (fun s => mcmdFront s acc w 0x300)

/-- The accesses of the mask's segments that passed their mark check and have not been performed (R47): every one of them, or
the marking writes. -/
def olderMarks (s : State) (w : WinId) (mask : BitVec 64) (drt : Bool) : List Nat :=
  (s.cache.reqs.filter (fun r => r.win == w && !r.trap && (!drt || marking r.op) && !unmarked r.op && mask.getLsbD r.seg.toNat &&
    r.phase != .egress)).map (·.id)

/-- A clear of marks completes at once, or when the older accesses have been performed (R47; log entry 21). -/
def clearMarks (s : State) (by_ : Accessor × Option Frame) (w : WinId) (ids : List Nat) (drt : Bool) :
    State × Option (DStatus × Nat) :=
  if ids.isEmpty then (s, some (.ok, 0))
  else ({ s with hen := { s.hen with clears := s.hen.clears ++ [⟨w, drt, ids, by_⟩] } }, none)

/-- A clear of dirty bits: later marking writes see the cleared bits (R47). -/
def drtWrite (s : State) (by_ : Accessor × Option Frame) (w : WinId) (mask : BitVec 64) : State × Option (DStatus × Nat) :=
  clearMarks (modWin s w (fun v => { v with drt := v.drt &&& ~~~mask })) by_ w (olderMarks s w mask true) true

/-- A clear of accessed bits (R47). -/
def accWrite (s : State) (by_ : Accessor × Option Frame) (w : WinId) (mask : BitVec 64) : State × Option (DStatus × Nat) :=
  clearMarks (modWin s w (fun v => { v with acc := v.acc &&& ~~~mask })) by_ w (olderMarks s w mask false) false

/-- The accesses a clear waits for have been performed. -/
def clearDone (s : State) (c : MarkClear) : Bool :=
  c.ids.all (fun i => !(s.cache.reqs.any (fun r => r.id == i && r.phase != .egress)))

/-- Clears whose older accesses have been performed complete, at the end of a management cycle (R47; log entry 21). -/
def finishClears (s : State) : State :=
  (s.hen.clears.filter (clearDone s)).foldl (fun s c => answerLate (winNote c.win .ok s) (some c.by_) .ok 5 0)
    { s with hen := { s.hen with clears := s.hen.clears.filter (fun c => !clearDone s c) } }

def execWinDrtClear (acc : Accessor) (w : WinId) (mask : BitVec 64) (s : State) : Host.Outcome State Fault Refusal :=
  act s (fun s => frontMark s acc (winGate w 0x28 false) (winNote w) (fun s => drtWrite s (normAcc acc, none) w mask))

def execWinAccClear (acc : Accessor) (w : WinId) (mask : BitVec 64) (s : State) : Host.Outcome State Fault Refusal :=
  act s (fun s => frontMark s acc (winGate w 0x20 false) (winNote w) (fun s => accWrite s (normAcc acc, none) w mask))

-- ===== enable (R39, R45, R55, R280) =====

/-- Two spans of granules share one. -/
def meet (a b c d : Nat) : Bool := a ≤ d && c ≤ b

/-- The spans of two geometries on their expander links share a granule. -/
def meetX (g h : Geometry) : Bool :=
  g.xl == h.xl && meet g.toffset.toNat (g.toffset.toNat + (g.limit.toNat - g.base.toNat))
    h.toffset.toNat (h.toffset.toNat + (h.limit.toNat - h.base.toNat))

def meetD (g h : Geometry) : Bool := meet g.base.toNat g.limit.toNat h.base.toNat h.limit.toNat

/-- The windows beside `w` that are enabled, draining or target lost. -/
def otherWins (s : State) (w : WinId) : List Win :=
  (s.region.win.filter (fun p => p.1 != w.toNat && p.2.state != .disabled)).map (·.2)

/-- The checks of R39, in order: the status of the first that fails. -/
def enableChecks (s : State) (w : WinId) : Option DStatus :=
  let v := winOf s w
  let g := v.geo
  let x := xlinkOf s g.xl
  if (otherWins s w).any (fun o => meetD g o.geo) then some .range
  else if g.limit < g.base then some .range
  else if x.capacity.toNat ≤ g.toffset.toNat + (g.limit.toNat - g.base.toNat) then some .range
  else if (otherWins s w).any (fun o => meetX g o.geo) then some .range
  else if !xlUp s g.xl then some .range
  else if v.trap && v.cls != .ash then some .range
  else if s.region.win.any (fun p => p.1 != w.toNat && p.2.state == .disabled && !p.2.lastFlush &&
      (match p.2.retained with
       | some h => meetD g h || meetX g h
       | none => false)) then some .quiesceRequired
  else if v.state == .draining then some .quiesceRequired
  else none

/-- The orphans whose address a geometry's span holds. -/
def orphansIn (s : State) (g : Geometry) : List Nat :=
  s.cache.orphans.filter (fun k => inSpan g (dlaOfBlk (blkOfKey s k) 0))

/-- SEGSHIFT of a span (R45). -/
def segShiftOf (g : Geometry) : Nat :=
  ((List.range 10).find? (fun i => g.limit.toNat + 1 - g.base.toNat ≤ 64 * 2 ^ i)).getD 9 + 30

/-- What an enable that passed every check does. -/
def enableWin (s : State) (w : WinId) : State :=
  let g := (winOf s w).geo
  let orph := orphansIn s g
  let s := modWin s w (fun v => { v with
    enable := true, state := .enabled, segshift := BitVec.ofNat 6 (segShiftOf g), acc := 0, drt := 0, pnd := 0, pndAt := [],
    retained := some g, lostGeo := none, flushNext := none })
  let s := { s with cache := { s.cache with bench := s.cache.bench.map (fun p =>
    (p.1, { p.2 with scan := tput 0 p.2.scan w.toNat 0, demoted := p.2.demoted &&& ~~~(bit w.toNat) })) } }
  let s := if orph.isEmpty then s else
    raise (orph.foldl (fun s k => tagPut s k { tagAt s k with state := .valid }) s) 0x31B 164 [(2, w.toNat)]
  pushWindir (capChange s (.window w)) w

/-- The checks of an enable: R55, then R280 where the span holds an orphan, then R39. -/
def enableStatus (s : State) (w : WinId) : DStatus :=
  let v := winOf s w
  if !v.lastFlush && v.retained.isSome && v.retained != some v.geo then .quiesceRequired
  else if (orphansIn s v.geo).isEmpty then (enableChecks s w).getD .ok
  else if v.lostGeo == some v.geo && (xlinkOf s v.geo.xl).serial == tget 0 s.rel.lostSerial v.geo.xl.toNat &&
      (enableChecks s w).isNone then .ok
  else .quiesceRequired

def tryEnable (s : State) (w : WinId) : State × DStatus :=
  match enableStatus s w with
  | .ok => (enableWin s w, .ok)
  | e => (s, e)

/-- The device has reached LOCAL_READY (R39). -/
def reachedReady (s : State) : Bool :=
  match s.dev.stage with
  | .localReady | .memoryActive | .containment => true
  | _ => false

/-- A write of WIN_CTL with ENABLE = 1. ENABLE is 1 already in an enabled window and one in target lost. -/
def ctlEnable (s : State) (w : WinId) (flush : Bool) : Ans :=
  if !reachedReady s then (s, .quiesceRequired, 0)
  else match (winOf s w).state with
    | .enabled | .targetLost => (modWin s w (fun v => { v with flush := flush }), .ok, 0)
    | _ =>
      match tryEnable s w with
      | (s, .ok) => (modWin s w (fun v => { v with flush := flush }), .ok, 0)
      | (s, e) => (s, e, 0)

/-- A write of WIN_CTL with ENABLE = 0 (R54): an enabled or target-lost window drains. In a disabled or draining window it only
clears ENABLE; so a live write before LOCAL_READY is accepted, and it keeps a window whose image shows ENABLE = 1 from being
enabled at the boot (DESIGN CHOICE, log entry 107). -/
def ctlDisable (s : State) (w : WinId) (flush : Bool) : Ans :=
  match (winOf s w).state with
  | .enabled | .targetLost =>
    let s := releasePending s w
    let s := modWin s w (fun v => { v with
      enable := false, flush := flush, state := .draining, flushNext := if flush then some (v.geo.base.toNat * 2 ^ 18) else none })
    (pushWindir s w, .ok, 0)
  | _ => (modWin s w (fun v => { v with enable := false, flush := flush }), .ok, 0)

def ctlWrite (s : State) (w : WinId) (value : BitVec 32) : Ans :=
  if value.getLsbD 0 then ctlEnable s w (value.getLsbD 1) else ctlDisable s w (value.getLsbD 1)

def execWinEnable (acc : Accessor) (w : WinId) (flush : Bool) (s : State) : Host.Outcome State Fault Refusal :=
  act s (fun s => front s acc (winGate w 0 true) (winNote w) (fun s => ctlEnable s w flush))

def execWinDisable (acc : Accessor) (w : WinId) (flush : Bool) (s : State) : Host.Outcome State Fault Refusal :=
  act s (fun s => front s acc (winGate w 0 true) (winNote w) (fun s => ctlDisable s w flush))

-- ===== the end of a drain (R54) =====

/-- The request is an examination of a set or block, which matches no window. -/
def isExam (r : Req) : Bool := match r.org with
  | .exam .. => true
  | _ => false

/-- A request, or a running job step that has issued an access, matched the window and has not completed (R54, R57). -/
def winBusy (s : State) (w : WinId) : Bool :=
  s.cache.reqs.any (fun r => r.win == w && !isExam r) ||
  s.cache.bench.any (fun p => p.2.running.any (fun r => r.wins.getLsbD w.toNat))

/-- What a flush drain has still to write back, invalidate or back-invalidate in the span. -/
def flushLeft (s : State) (g : Geometry) : Bool :=
  s.cache.tags.any (fun p => p.2.state == .valid && inSpan g (dlaOfBlk (blkOfKey s p.1) 0)) ||
  s.snoop.entries.any (fun p => inSpan g (dlaOfKey (BitVec.ofNat 8 (p.1 / 262144)) p.2.tag ((p.1 / 16) % 16384))) ||
  s.cache.bench.any (fun p => p.2.wbuf.any (fun e => inSpan g e.dla) || p.2.evq.any (fun e => inSpan g e.dla))

/-- The drain completes when no request that matched the window is left, and a flush drain has nothing left to do. -/
def doWindowDrained (s : State) (w : WinId) : State :=
  let v := winOf s w
  if v.state != .draining || winBusy s w || (v.flushNext.isSome && flushLeft s v.geo) then s else
  let s := modWin s w (fun v => { v with state := .disabled, segshift := 0, lastFlush := v.flushNext.isSome, flushNext := none })
  raise s (0x140 + w.toNat) 164 []

def execWindowDrainComplete (w : WinId) (s : State) : Host.Outcome State Fault Refusal := act s (fun s => doWindowDrained s w)

-- ===== geometry and attributes (R52, R53) =====

/-- The geometry after a write of WIN_BASE, WIN_LIMIT or WIN_TGT; reserved bits are ignored. -/
def geoWith (g : Geometry) (reg : Nat) (value : BitVec 32) : Geometry :=
  match reg with
  | 0 => { g with base := value.setWidth 15 }
  | 1 => { g with limit := value.setWidth 15 }
  | _ => { g with xl := (value >>> 15).setWidth 5, toffset := value.setWidth 15 }

def geoWrite (s : State) (w : WinId) (reg : Nat) (value : BitVec 32) : Ans :=
  let v := winOf s w
  let g := geoWith v.geo reg value
  if v.state != .disabled && g != v.geo then (s, .quiesceRequired, 0)
  else (modWin s w (fun v => { v with geo := g }), .ok, 0)

def execWinGeometryWrite (acc : Accessor) (w : WinId) (reg : BitVec 2) (value : BitVec 32) (s : State) :
    Host.Outcome State Fault Refusal :=
  actIf (decide (reg.toNat ≤ 2)) s
    (fun s => front s acc (winGate w (4 + 4 * reg.toNat) true) (winNote w) (fun s => geoWrite s w reg.toNat value))

def attrWrite (s : State) (w : WinId) (a : BitVec 32) : Ans :=
  let v := winOf s w
  let cls := classOf ((a >>> 8).setWidth 2)
  let trap := a.getLsbD 15
  if v.state != .disabled && a.setWidth 2 != v.geo.policy then (s, .quiesceRequired, 0)
  else if v.state != .disabled && trap && cls != .ash then (s, .range, 0)
  else
    let s := modWin s w (fun v => { v with
      geo := { v.geo with policy := a.setWidth 2 }, r := a.getLsbD 10, w := a.getLsbD 11, x := a.getLsbD 12, u := a.getLsbD 13,
      s := a.getLsbD 14, trap := trap, cls := cls, insert := (a >>> 6).setWidth 2, span := (a >>> 4).setWidth 2 })
    let s := if v.trap && !trap then releasePending s w else s
    let s := if classCode cls < classCode v.cls then capChange s (.window w) else s
    (if cls != v.cls then pushWindir s w else s, .ok, 0)

def execWinAttrWrite (acc : Accessor) (w : WinId) (value : BitVec 32) (s : State) : Host.Outcome State Fault Refusal :=
  act s (fun s => front s acc (winGate w 16 true) (winNote w) (fun s => attrWrite s w value))

end Sys2Proof.Machine
end

