-- ==== Sys2Proof/Machine/Media.lean ====
section
/-!
DEFINITION. The data array as software and scrub see it: scrubbing, the error log's acknowledgement, flip masks, row remaps
and the retirement of stacks (R257 to R271).
-/

namespace Sys2Proof.Machine

-- ===== scrub (R257 to R259) =====

/-- The scrub period in ns. -/
def scrubNs (s : State) : Nat := s.rel.scrubPeriod.toNat * 3600000000000

/-- Sets due in the current pass of a bench (R259). -/
def scrubDue (s : State) (b : Bench) : Nat :=
  min 32768 (32768 * since s (benchOf s b).scrubStart / scrubNs s)

/-- R259 -/
def scrubLag (s : State) (b : Bench) : Nat := scrubDue s b - (benchOf s b).scrubDone.toNat

/-- The schedule of a bench (R257): a new pass after a whole period, one SCRUB step for the next set that is due, E-0x306 at a
lag of more than 4,096 sets. -/
def doScrubSchedule (s : State) (b : Bench) : State :=
  if !s.rel.scrubOn || !presented s then s else
  let v := benchOf s b
  let s := if v.scrubDone.toNat = 32768 && scrubNs s ≤ since s v.scrubStart then
      setBench s b { v with scrubPass := v.scrubPass + 1, scrubStart := v.scrubStart + BitVec.ofNat 64 (scrubNs s),
                            scrubNext := 0, scrubDone := 0, scrubRaised := false }
    else s
  let s := if 4096 < scrubLag s b && !(benchOf s b).scrubRaised then
      raise (modBench s b (fun v => { v with scrubRaised := true })) 0x306 (clusterIsland b) [(2, b.toNat)]
    else s
  let v := benchOf s b
  if 0 < scrubLag s b && v.scrubNext == v.scrubDone.setWidth 15 && v.pending.length < 8 then
    let st := { deviceStep .scrub b v.scrubNext.toNat 1024 1024 with jobseq := v.scrubPass.setWidth 16 }
    setBench s b { v with scrubNext := v.scrubNext + 1, pending := v.pending ++ [st] }
  else s

def execScrubSchedule (b : Bench) (s : State) : Host.Outcome State Fault Refusal := act s (fun s => doScrubSchedule s b)

/-- Puts every bench's schedule at its current position, or at a new pass. -/
def scrubRestart (s : State) (new : Bool) : State :=
  (List.range 256).foldl (fun s n =>
    let b : Bench := BitVec.ofNat 8 n
    modBench s b (fun v =>
      if new then { v with scrubPass := v.scrubPass + 1, scrubStart := s.now, scrubNext := 0, scrubDone := 0, scrubRaised := false }
      else { v with scrubStart := s.now - BitVec.ofNat 64 (v.scrubDone.toNat * scrubNs s / 32768) })) s

/-- R259: 0 stops scrub on every bench, 1 restarts it with a new pass. -/
def scrubEnableOp (s : State) (value : Nat) : Ans :=
  if 2 ≤ value then (s, .range, 0)
  else if value = 0 then
    let s := { s with rel := { s.rel with scrubOn := false } }
    ({ s with cache := { s.cache with bench := s.cache.bench.map (fun p => (p.1, { p.2 with
        pending := p.2.pending.filter (fun t => t.kind != .scrub) })) } }, .ok, 0)
  else (scrubRestart { s with rel := { s.rel with scrubOn := true } } true, .ok, 0)

def scrubPeriodOp (s : State) (value : Nat) : Ans :=
  if 1 ≤ value ∧ value ≤ 168 then
    (scrubRestart { s with rel := { s.rel with scrubPeriod := BitVec.ofNat 8 value } } false, .ok, 0)
  else (s, .range, 0)

def execScrubEnableWrite (acc : Accessor) (value : BitVec 8) (s : State) : Host.Outcome State Fault Refusal :=
  act s (fun s => front s acc plainGate noNote (fun s => scrubEnableOp s value.toNat))

def execScrubPeriodWrite (acc : Accessor) (value : BitVec 8) (s : State) : Host.Outcome State Fault Refusal :=
  act s (fun s => front s acc plainGate noNote (fun s => scrubPeriodOp s value.toNat))

-- ===== remap commands =====

/-- The metadata slot that a codeword address of a metadata row is (R250). -/
def metaSlot (cw : Nat) : Nat := (((rowOf cw - 65536) * 32 + cw % 32) * 16 + (cw / 2 ^ 22) % 16) % 5

/-- The codeword at `cw` is written into column `col` of the spare row, and its old place is used no more; the write may match
the flip mask (R266, R268). -/
def putMoved (s : State) (st cw spare : Nat) (data : Line) (poison hit : Bool) (tgt : Nat) (dla : DLA) : State :=
  let s := { s with rel := { s.rel with array := tput Codeword.init s.rel.array (physCw s st cw) Codeword.init } }
  cwWrite s st ((cw / 2 ^ 22) * 2 ^ 22 + spare * 32 + cw % 32) data poison hit tgt dla

/-- A metadata codeword of the row moves, read through its code: false when it led to containment (R268). -/
def moveMeta (s : State) (st cw spare : Nat) (b : Bench) (ls : BitVec 15) : State × Bool :=
  let m := metaSlot cw
  match metaRead s b ls m with
  | (s, false) => (s, false)
  | (s, true) => (putMoved s st cw spare 0 false (metaHit s b ls m) 1 (dlaOfBlk (blkOf b ls 0) 0), true)

/-- A data codeword of the row moves: corrected, or as poison, which is counted and logged as DATA_POISONED (R268; DESIGN CHOICE,
log entry 110). -/
def moveData (s : State) (st cw spare : Nat) (b : Bench) (ls : BitVec 15) : State :=
  let c := cwOf s (physCw s st cw)
  let w := ((cw / 2 ^ 22) % 16) ^^^ ((ls.toNat / 32) % 16)
  let sec := (rowOf cw % 2) * 32 + cw % 32
  let t := tagAt s (tagKey b ls w)
  let present := t.state == .valid || t.state == .orphan
  let dla := dlaOfBlk (blkOf b ls t.tag) sec
  let r := cwRec s b ls w cw c dla false
  let r := if present then r else { r with addr := 0, dla := 0, flags := r.flags ||| 16 }
  let hit := dataHit s st (if present then some dla else none)
  match decode c with
  | .clean => putMoved s st cw spare (payload c) false hit 0 dla
  | .poison => putMoved (outcomeCount s st 2) st cw spare 0 true hit 0 dla
  | .uncorrectable =>
    let s := putMoved s st cw spare 0 true hit 0 dla
    let s := logRec (outcomeCount s st 2) { r with type := 3, sev := 2, unit := 0, detail := BitVec.ofNat 64 (rqkCode .deviceWork) }
    if present && t.valid.getLsbD sec then
      raise (poisonAdd s (saOf s dla)) 0x302 (144 + st) [(8, (saOf s dla).toNat), (8, dla.toNat)]
    else s
  | o => putMoved (noteCorrected s b r o false 0) st cw spare (payload c) false hit 0 dla

/-- A codeword of the row moves to the spare row (R268): false at an uncorrectable metadata codeword. -/
def moveCw (s : State) (st l spare col : Nat) : State × Bool :=
  let cw := (l / 32) * 32 + col
  let isMeta : Bool := 65536 ≤ rowOf cw
  let (b, ls) := ((rowSets st cw)[if isMeta then col else 0]?).getD (stackBench st 0, 0)
  if isMeta then moveMeta s st cw spare b ls else (moveData s st cw spare b ls, true)

/-- Every codeword of the row has moved: the mapping is entered, and the locks are released (R268). -/
def remapDone (s : State) (st : Stack) (run : RemapRun) : State :=
  let n := st.toNat
  let cw := run.cw.toNat
  let s := { s with rel := { s.rel with
    remap := tput 0 s.rel.remap (rowKey n cw) run.spare
    lastRemap := (.ok, st, run.cw, run.spare) } }
  let s := persistChange s
  let s := logRec s { LogRec.init with
    type := 6, sev := 4, unit := 0, island := BitVec.ofNat 16 (144 + n), loc := BitVec.ofNat 32 cw, stack := st.setWidth 8,
    flags := 16, detail := run.spare.setWidth 64 ||| (if run.auto then bit 63 else 0) }
  let s := raise s 0x304 (144 + n) [(1, n), (4, cw), (4, run.spare.toNat)]
  let s := if 512 - sparesUsed s n cw = s.rel.reserve.toNat then raise s 0x305 (144 + n) [(1, n), (4, cw)] else s
  -- what has waited for the remap is excused (R159)
  let s := setReqs s (mapIf (fun r => (r.phase == .setHead || r.phase == .wbuf) &&
      run.sets.contains (setKey (benchOfDla r.dla) (lsOfDla r.dla))) (fun r => { r with causeFault := true }) s.cache.reqs)
  Sys2Proof.Machine.run (wake s (fun r => r.phase == .setHead && !s.cache.setReads.contains (setKey (benchOfDla r.dla) (lsOfDla r.dla))))

/-- A write of 0x50:0030 in its turn: the remap starts, or the write tells why it cannot; an address outside the rows of Table 9-1
is RANGE. -/
def remapNow (s : State) (st cw : Nat) : Ans :=
  if 8 ≤ st || 2 ^ 31 ≤ cw then (s, .range, 0) else
  match remapStart s st cw false with
  | (s, .ok) => (s, .ok, 0)
  | (s, e) => ({ s with rel := { s.rel with lastRemap := (e, BitVec.ofNat 3 st, BitVec.ofNat 31 cw, 0) } }, e, 0)

/-- A write of 0x50:0030 waits while a remap that another write started runs (R391), or one of its own stack. -/
def remapHeld (s : State) (st : Nat) : Bool := s.rel.remapRun.any (fun p => !p.2.auto || p.1 == st)

/-- The writes of 0x50:0030 that need not wait any more are executed, in arrival order, and answered. -/
def remapAsksLoop : Nat → State → State
  | 0, s => s
  | n + 1, s =>
    match s.rel.remapAsks with
    | [] => s
    | a :: rest =>
      if remapHeld s a.stack then s else
      let (t, e, aux) := remapNow { s with rel := { s.rel with remapAsks := rest } } a.stack a.cw
      remapAsksLoop n (answerLate t (some a.by_) e 8 aux)

def settleRemaps (s : State) : State := remapAsksLoop s.rel.remapAsks.length s

/-- The row has been read, corrected and written (R268). -/
def doRemapComplete (s : State) (st : Stack) : State :=
  match s.rel.remapRun.find? (fun p => p.1 == st.toNat) with
  | none => s
  | some (_, run) =>
    let n := st.toNat
    let s := { s with rel := { s.rel with remapRun := tput ⟨0, 0, false, []⟩ s.rel.remapRun n ⟨0, 0, false, []⟩ } }
    match (List.range 32).foldl (fun (a : State × Bool) col =>
        if a.2 then moveCw a.1 n run.cw.toNat run.spare.toNat col else a) (s, true) with
    | (s, false) => settleRemaps s
    | (s, true) => settleRemaps (nextRemap (remapDone s st run) n)

def execRowRemapComplete (st : Stack) (s : State) : Host.Outcome State Fault Refusal := act s (fun s => doRemapComplete s st)

/-- A write of 0x50:0030: it is answered when its remap has started, now or after the one that runs (R391). -/
def remapWrite (s : State) (w : Accessor × Option Frame) (st cw : Nat) : State × Option (DStatus × Nat) :=
  if remapHeld s st || !s.rel.remapAsks.isEmpty then
    ({ s with rel := { s.rel with remapAsks := s.rel.remapAsks ++ [⟨st, cw, w⟩] } }, none)
  else
    let (t, e, aux) := remapNow s st cw
    (t, some (e, aux))

def execRowRemap (acc : Accessor) (st : Stack) (cw : BitVec 32) (s : State) : Host.Outcome State Fault Refusal :=
  act s (fun s => frontLate s acc plainGate (fun s => remapWrite s (normAcc acc, none) st.toNat cw.toNat))

-- ===== the log (R264) =====

def logAckOp (s : State) (seq : BitVec 32) : Ans := ({ s with rel := { s.rel with logAck := seq } }, .ok, 0)

def execLogAcknowledge (acc : Accessor) (seq : BitVec 32) (s : State) : Host.Outcome State Fault Refusal :=
  act s (fun s => front s acc plainGate noNote (fun s => logAckOp s seq))

-- ===== flip masks (R266, R267) =====

def setFlip (s : State) (st : Nat) (f : HbcFlip) : State :=
  { s with rel := { s.rel with flip := tput HbcFlip.init s.rel.flip st f } }
def flipNote (st : Nat) (e : DStatus) (s : State) : State := setFlip s st { flipOf s st with lasterr := e }
def flipGate (st off : Nat) : Gate := { plainGate with off := some (0x20000 + st * 0x100 + off) }

/-- A write of HBC_FLIP_CTL: a disarm takes effect first; while armed the selection stays (R266). -/
def flipCtlWrite (st : Nat) (wl : Bool) (s : State) (value : BitVec 32) : Ans :=
  let arm := value.getLsbD 0
  let f := flipOf s st
  let f := if wl && !arm then { f with arm := false } else f
  let msel : BitVec 3 := (value >>> 9).setWidth 3
  let same := f.msel == msel && f.match_ == value.getLsbD 2 && f.meta_ == value.getLsbD 1
  let clr := fun (f : HbcFlip) => if value.getLsbD 8 then { f with done := false } else f
  if f.arm then (setFlip s st (clr f), if same then .ok else .quiesceRequired, 0)
  else if 4 < msel.toNat then (if wl && !arm then setFlip s st f else s, .range, 0)
  else
    let f := { clr f with msel := msel, match_ := value.getLsbD 2, meta_ := value.getLsbD 1 }
    (setFlip s st (if wl then { f with arm := arm } else f), .ok, 0)

/-- A write of the line that MATCH compares, or of the mask (R266). -/
def flipDlaWrite (st : Nat) (s : State) (value : BitVec 64) : Ans :=
  let v : BitVec 45 := (value.setWidth 45 >>> 6) <<< 6
  let f := flipOf s st
  if f.arm && f.dla != v then (s, .quiesceRequired, 0) else (setFlip s st { f with dla := v }, .ok, 0)
def flipMaskWrite (st : Nat) (s : State) (value : BitVec 560) : Ans :=
  let f := flipOf s st
  if f.arm && f.mask != value then (s, .quiesceRequired, 0) else (setFlip s st { f with mask := value }, .ok, 0)

def flipFront (s : State) (acc : Accessor) (st : Nat) (value : BitVec 32) : State :=
  frontWl s acc (flipGate st 0) (flipNote st) (fun s => (flipOf s st).arm != value.getLsbD 0)
    (fun wl s => flipCtlWrite st wl s value)

/-- The rows are writes of HBC_FLIP_CTL with ARM 1 and with ARM 0. -/
def execHbcFlipArm (acc : Accessor) (st : Stack) (value : BitVec 32) (s : State) : Host.Outcome State Fault Refusal :=
  act s (fun s => flipFront s acc st.toNat (value ||| 1))
def execHbcFlipDisarm (acc : Accessor) (st : Stack) (value : BitVec 32) (s : State) : Host.Outcome State Fault Refusal :=
  act s (fun s => flipFront s acc st.toNat (value &&& ~~~1))

def bflipNote (b : Bench) (e : DStatus) (s : State) : State := modBench s b (fun v => { v with flipErr := e })
def bflipGate (b : Bench) (off : Nat) : Gate := { plainGate with off := some (0x21000 + b.toNat * 0x20 + off) }

def bflipCtlWrite (b : Bench) (wl : Bool) (s : State) (value : BitVec 32) : Ans :=
  let arm := value.getLsbD 0
  let v := benchOf s b
  let v := if wl && !arm then { v with flipArm := false } else v
  let tgt : BitVec 2 := (value >>> 16).setWidth 2
  let clr := fun (v : BenchS) => if value.getLsbD 8 then { v with flipDone := false } else v
  if v.flipArm then (setBench s b (clr v), if v.flipTgt == tgt then .ok else .quiesceRequired, 0)
  else if 1 < tgt.toNat then (if wl && !arm then setBench s b v else s, .range, 0)
  else
    let v := { clr v with flipTgt := tgt }
    (setBench s b (if wl then { v with flipArm := arm } else v), .ok, 0)

def bflipMaskWrite (b : Bench) (s : State) (value : BitVec 153) : Ans :=
  let v := benchOf s b
  if v.flipArm && v.flipMask != value then (s, .quiesceRequired, 0) else (setBench s b { v with flipMask := value }, .ok, 0)

def bflipFront (s : State) (acc : Accessor) (b : Bench) (value : BitVec 32) : State :=
  frontWl s acc (bflipGate b 0) (bflipNote b) (fun s => (benchOf s b).flipArm != value.getLsbD 0)
    (fun wl s => bflipCtlWrite b wl s value)

def execBflipArm (acc : Accessor) (b : Bench) (value : BitVec 32) (s : State) : Host.Outcome State Fault Refusal :=
  act s (fun s => bflipFront s acc b (value ||| 1))
def execBflipDisarm (acc : Accessor) (b : Bench) (value : BitVec 32) (s : State) : Host.Outcome State Fault Refusal :=
  act s (fun s => bflipFront s acc b (value &&& ~~~1))

-- ===== the retirement of a stack (R271) =====

/-- The blocks of a stack's benches: keys of the tag table. -/
def stackKeys (s : State) (st : Stack) (p : BState → Bool) : List Nat :=
  (s.cache.tags.filter (fun e => stackOf (benchOfKey e.1) == st && p e.2.state)).map (·.1)

def stackRetireWrite (s : State) (value : Nat) : Ans :=
  if 8 ≤ value then (s, .range, 0) else
  let st : Stack := BitVec.ofNat 3 value
  if !(stackKeys s st (· == .orphan)).isEmpty then (s, .quiesceRequired, 0)
  else if s.rel.retired.getLsbD value || s.rel.retiring.contains st then (s, .ok, 0)
  else (capChange { s with rel := { s.rel with retiring := s.rel.retiring ++ [st] } } .benches, .ok, 0)

def execStackRetire (acc : Accessor) (st : Stack) (s : State) : Host.Outcome State Fault Refusal :=
  act s (fun s => front s acc guardGate noNote (fun s => stackRetireWrite s st.toNat))

/-- Every block has been cleaned and invalidated: every way of the stack's sets becomes retired (R271). -/
def doStackRetired (s : State) (st : Stack) : State :=
  if !s.rel.retiring.contains st || !(stackKeys s st (fun b => b == .valid || b == .orphan)).isEmpty then s else
  let m : BitVec 8 := bit st.toNat
  let t := dropRecords s (s.cache.resident.filter (fun k => stackOf (benchOfKey k) == st))
  if !stood s t then t else
  let s := { t with
    rel := { t.rel with retiring := t.rel.retiring.filter (· != st), retired := t.rel.retired ||| m,
                        retiredMask := t.rel.retiredMask ||| m }
    hen := { t.hen with pending := t.hen.pending.filter (fun e => !(e.group == 0x50 && e.item == 0x35)) } }
  raise (persistChange s) 0x30A (144 + st.toNat) [(1, st.toNat)]

def execStackRetireComplete (st : Stack) (s : State) : Host.Outcome State Fault Refusal := act s (fun s => doStackRetired s st)

end Sys2Proof.Machine
end

