-- ==== Sys2Proof/Machine/Maint.lean ====
section
/-!
DEFINITION. Maintenance of the cache by range and by set and way, the cache control block, and what one examination of a
block or set does for the background haul steps (R80, R90 to R99, R271).
-/

namespace Sys2Proof.Machine

-- ===== background steps and where they are =====

/-- Every step record of the device, wherever it is. -/
def allSteps (s : State) : List StepRec :=
  waitingSteps s ++ s.cache.bench.flatMap (fun p => (p.2.running.map (·.step)).toList)

/-- The request is an examination for steps of kind `k` and purpose `p`. -/
def examFor (k : StepKind) (p : Nat) (r : Req) : Bool := match r.org with
  | .exam _ k' p' _ => k' == k && p' == p
  | _ => false

/-- A step of a purpose is somewhere, or an examination it has sent is not answered. -/
def stepOut (s : State) (k : StepKind) (p : Nat) : Bool :=
  (allSteps s).any (fun t => t.kind == k && t.queue.toNat == p) || s.cache.reqs.any (examFor k p)

/-- The smallest element of a list. -/
def minNat : List Nat → Option Nat
  | [] => none
  | x :: l => some (match minNat l with
    | some y => min x y
    | none => x)

/-- The benches a purpose covers. -/
def pBench (p : Nat) (b : Bench) : Bool := p < 8 || (stackOf b).toNat = p - 8
/-- The states of a block that a purpose acts on. -/
def pState (p : Nat) (t : BState) : Bool := t == .valid || (t == .orphan && p ≤ 3)

/-- The first block from `lo` to `hi` on which a purpose has something to do. -/
def nextBlk (s : State) (p lo hi : Nat) : Option Nat :=
  minNat ((s.cache.tags.filter (fun e => pState p e.2.state && pBench p (benchOfKey e.1))).map
    (fun e => (blkOfKey s e.1).toNat) |>.filter (fun n => lo ≤ n && n ≤ hi))

-- ===== the feed of background steps =====

/-- Puts a step into the pending list of the home bench of its first block (R177, R179). -/
def feedStep (s : State) (k : StepKind) (p blk cursor remain est : Nat) : State :=
  let b := benchOfBlk (BitVec.ofNat 33 blk)
  let v := benchOf s b
  if 8 ≤ v.pending.length then s
  else setBench s b { v with
    pending := v.pending ++ [{ deviceStep k b cursor remain est with queue := BitVec.ofNat 13 p }] }

/-- The running range operation stands at block `upto`: the absent blocks before it are processed. -/
def rangePass (s : State) (k : RangeKind) (next upto last : Nat) : State :=
  { s with cache := { s.cache with
      mOp := some (.range k upto last), mProg := s.cache.mProg + BitVec.ofNat 64 (upto - next) } }

/-- The next RANGE step of the running range operation; absent blocks are passed over. -/
def feedMaint (s : State) : State :=
  match s.cache.mOp with
  | some (.range k next last) =>
    let p := maintPurpose k
    if stepOut s .range p then s else
    let upto := (nextBlk s p next last).getD (last + 1)
    let s := rangePass s k next upto last
    if last < upto then s else feedStep s .range p upto upto (min 16 (last + 1 - upto)) 32
  | _ => s

/-- The next RANGE step of a pass over the whole cache or a stack. -/
def feedPass (s : State) (p : Nat) : State :=
  if stepOut s .range p then s else
  match nextBlk s p (if p = pCacheClean then s.cache.passNext else 0) (2 ^ 33 - 1) with
  | some n => feedStep s .range p n n 16 32
  | none => s

/-- The device-local lines that the snoop filter tracks. -/
def trackedLines (s : State) : List DLA :=
  s.snoop.entries.map (fun p => dlaOfKey (BitVec.ofNat 8 (p.1 / 262144)) p.2.tag ((p.1 / 16) % 16384))

/-- The blocks of a span that a flush drain has still to process: cached, or tracked by the snoop filter (R54). -/
def flushBlks (s : State) (g : Geometry) : List Nat :=
  (s.cache.tags.filter (fun p => p.2.state == .valid && inSpan g (dlaOfBlk (blkOfKey s p.1) 0))).map
    (fun p => (blkOfKey s p.1).toNat) ++
  (trackedLines s).filterMap (fun d => if inSpan g d then some (blkOfDla d).toNat else none)

/-- Tracked lines of the blocks [n, n + m): each adds 1 to the estimate of a DRAIN step (Table 6-1). -/
def trackedIn (s : State) (n m : Nat) : Nat :=
  ((trackedLines s).filter (fun d => n ≤ (blkOfDla d).toNat && (blkOfDla d).toNat < n + m)).length

/-- The next DRAIN step of a flush drain: at most 16 blocks, all of them of the window's span (R54). Its cursor is an address. -/
def feedFlush (s : State) (w : Nat) (v : Win) : State :=
  match v.state, v.flushNext with
  | .draining, some _ =>
    if winBusy s (BitVec.ofNat 6 w) || stepOut s .drain w then s else
    (match minNat (flushBlks s v.geo) with
     | some n =>
       let m := min 16 ((v.geo.limit.toNat + 1) * 2 ^ 18 - n)
       modWin (feedStep s .drain w n (n * 4096) m (min 4095 (32 + trackedIn s n m))) (BitVec.ofNat 6 w)
         (fun v => { v with flushNext := some n })
     | none => s)
  | _, _ => s

/-- Generates the steps that are due (R171, R177): range maintenance, cache clean, invalidate-all, stacks, flush drains. -/
def feed (s : State) : State :=
  if !presented s then s else
  let s := feedMaint s
  let s := if s.cache.cstate == .cleaning then feedPass s pCacheClean else s
  let s := if s.cache.cstate == .invalidating then feedPass s pInvalidateAll else s
  let s := s.rel.retiring.foldl (fun s st => feedPass s (pStack st)) s
  s.region.win.foldl (fun s p => feedFlush s p.1 p.2) s

-- ===== the maintenance block (Tables 3-6 to 3-9) =====

def mNote (e : DStatus) (s : State) : State := { s with cache := { s.cache with mLasterr := e } }
def mGate (off : Nat) : Gate := { plainGate with off := some (0x2000 + off) }

/-- R92: a write that would start an operation while one runs. -/
def mBusy (s : State) : Ans := ({ s with cache := { s.cache with mRefused := true } }, .full, 0)

/-- A range operation begins at the first block of its span. -/
def beginRange (s : State) (k : RangeKind) : State :=
  feed { s with cache := { s.cache with
    mOp := some (.range k (s.cache.mbase.toNat / 4096) (s.cache.mlim.toNat / 4096)), mProg := 0 } }

/-- R90 -/
def startRange (s : State) (k : RangeKind) : Ans :=
  if s.cache.mOp.isSome then mBusy s
  else if s.cache.mlim.toNat < s.cache.mbase.toNat then (s, .range, 0)
  else (beginRange s k, .ok, 0)

def mswBench (s : State) : Bench := (s.cache.msw >>> 19).setWidth 8
def mswSet (s : State) : BitVec 15 := (s.cache.msw >>> 4).setWidth 15
def mswKey (s : State) : Nat := tagKey (mswBench s) (mswSet s) (s.cache.msw.toNat % 16)

/-- R93, R95. A disable way that finds the list full is refused at the write with FULL: nothing starts, so there is neither DONE
nor E-0x1C1 (DESIGN CHOICE, log entry 108). -/
def startSetWay (s : State) (k : SwKind) : Ans :=
  if s.cache.mOp.isSome then mBusy s
  else if (tagAt s (mswKey s)).state == .orphan then (s, .range, 0)
  else if k == .disable && (tagAt s (mswKey s)).state != .retired && 16384 ≤ s.cache.retiredList.length then (s, .full, 0)
  else ({ s with cache := { s.cache with mOp := some (.setWay k .ok) } }, .ok, 0)

/-- A write of BCH_MAINT. -/
def maintWrite (s : State) (value : BitVec 32) : Ans :=
  match value.toNat % 8 with
  | 0 => (s, .ok, 0)
  | 1 => startRange s .clean
  | 2 => startRange s .cleanInvalidate
  | _ => (s, .range, 0)

/-- A write of BCH_MAINTX, whose OP is a WL field. -/
def maintxWrite (wl : Bool) (s : State) (value : BitVec 32) : Ans :=
  if !wl then (s, .ok, 0) else
  match value.toNat % 8 with
  | 0 => (s, .ok, 0)
  | 1 => startRange s .invalidate
  | 2 => startSetWay s .cleanInvalidate
  | 3 => startSetWay s .disable
  | 4 => startSetWay s .enable
  | _ => (s, .range, 0)

def maintFront (s : State) (acc : Accessor) (value : BitVec 32) : State :=
  front s acc (mGate 0) mNote (fun s => maintWrite s value)
def maintxFront (s : State) (acc : Accessor) (value : BitVec 32) : State :=
  frontWl s acc (mGate 4) mNote (fun _ => value.toNat % 8 != 0) (fun wl s => maintxWrite wl s value)

def execMaintClean (acc : Accessor) (s : State) : Host.Outcome State Fault Refusal := act s (fun s => maintFront s acc 1)
def execMaintCleanInvalidate (acc : Accessor) (s : State) : Host.Outcome State Fault Refusal :=
  act s (fun s => maintFront s acc 2)
def execMaintInvalidate (acc : Accessor) (s : State) : Host.Outcome State Fault Refusal := act s (fun s => maintxFront s acc 1)
def execCleanInvalidateWay (acc : Accessor) (s : State) : Host.Outcome State Fault Refusal :=
  act s (fun s => maintxFront s acc 2)
def execDisableWay (acc : Accessor) (s : State) : Host.Outcome State Fault Refusal := act s (fun s => maintxFront s acc 3)
def execEnableWay (acc : Accessor) (s : State) : Host.Outcome State Fault Refusal := act s (fun s => maintxFront s acc 4)

/-- R96; reserved bits are ignored. -/
def maintParamOp (s : State) (reg : Nat) (value : BitVec 64) : Ans :=
  if s.cache.mOp.isSome then (s, .quiesceRequired, 0)
  else
    let dla : BitVec 45 := (value.setWidth 45 >>> 12) <<< 12
    match reg with
    | 0 => ({ s with cache := { s.cache with mbase := dla } }, .ok, 0)
    | 1 => ({ s with cache := { s.cache with mlim := dla } }, .ok, 0)
    | _ => ({ s with cache := { s.cache with msw := value.setWidth 27 } }, .ok, 0)

def execMaintParamWrite (acc : Accessor) (reg : BitVec 2) (value : BitVec 64) (s : State) : Host.Outcome State Fault Refusal :=
  actIf (decide (reg.toNat ≤ 2)) s (fun s =>
    front s acc (mGate (if reg = 0 then 0x08 else if reg = 1 then 0x10 else 0x18)) mNote (fun s => maintParamOp s reg.toNat value))

-- ===== the ends of operations (R92, R93) =====

/-- A range operation ends when every block has been processed, or containment has ended it (R92). -/
def doRangeDone (s : State) : State :=
  match s.cache.mOp with
  | some (.range k next last) =>
    let p := maintPurpose k
    if stepOut s .range p then s else
    let left := (nextBlk s p next last).isSome
    let stopped : Bool := !presented s && next ≤ last
    if left && !stopped then s else
    let prog := if stopped then s.cache.mProg else s.cache.mProg + BitVec.ofNat 64 (last + 1 - next)
    let s := { s with cache := { s.cache with mOp := none, mDone := true, mProg := prog } }
    raise s 0x1C0 164 [(1, p + 1), (8, prog.toNat), (1, statusCode s.cache.mLasterr), (1, if stopped then 1 else 0)]
  | _ => s

def execRangeOperationComplete (s : State) : Host.Outcome State Fault Refusal := act s doRangeDone

/-- Clean-invalidate way or disable way on a way that is neither retired nor an orphan, its record read (R93); none: the
eviction queue has no room for the rest of its dirty sectors. -/
def setWayBlock (s : State) (k : SwKind) (key : Nat) : State × Option DStatus :=
  let t := tagAt s key
  if t.state == .valid && unwritable s key then (makeOrphan s key, some .range)
  else match (if t.state == .valid && t.dirty != 0 then cleanBlock s key else (s, true)) with
    | (s, false) => (s, none)
    | (s, true) =>
      if k == .disable then
        let s := dropBlock s key .retired
        (capChange (persistChange { s with cache := { s.cache with
          retiredList := s.cache.retiredList ++ [s.cache.msw] } }) .benches, some .ok)
      else (dropBlock s key .invalid, some .ok)

/-- What a set-and-way operation does once its set has been read (R93, R95); none: it goes on later. A way of a retired stack is
retired already and takes no list entry. -/
def setWayAct (s : State) (k : SwKind) (key : Nat) : State × Option DStatus :=
  let t := tagAt s key
  match k with
  | .enable =>
    if t.state != .retired then (s, some .ok)
    else
      let s := tagPut s key TagRec.init
      (persistChange { s with cache := { s.cache with retiredList := s.cache.retiredList.filter (· != s.cache.msw) } }, some .ok)
  | _ =>
    if t.state == .retired || (k != .disable && t.state != .valid) then (s, some .ok)
    else if t.state == .orphan then (s, some .range)
    else setWayBlock s k key

/-- The work of a set-and-way operation: it waits for the set's lock; the set and the way's record are read through their checks
(R64, R66). -/
def setWayWork (s : State) (k : SwKind) : State × Option DStatus :=
  let b := mswBench s
  if setLocked s b (mswSet s) then (s, none) else
  match setRead s b (mswSet s) with
  | (s, false) => (s, none)
  | (s, true) =>
    match recRead s b (mswSet s) (s.cache.msw.toNat % 16) with
    | (s, false) => (s, none)
    | (s, true) => setWayAct s k (mswKey s)

def swCode : SwKind → Nat
  | .cleanInvalidate => 2 | .disable => 3 | .enable => 4

/-- The end of a set-and-way operation (R93). The status it completes with, RANGE among them, stands in BCH_MSTAT.LASTERR from
here on, over that of the write that started it (DESIGN CHOICE, log entry 108). -/
def setWayEnd (s : State) (k : SwKind) (e : DStatus) : State :=
  let b := mswBench s
  let ls := mswSet s
  let s := { s with cache := { s.cache with mOp := none, mDone := true, mLasterr := e } }
  let s := raise s 0x1C1 164 [(2, b.toNat), (2, ls.toNat), (1, s.cache.msw.toNat % 16), (1, swCode k), (1, statusCode e)]
  let gone := (List.range 16).all (fun w => (tagAt s (tagKey b ls w)).state == .retired)
  run (if k == .disable && gone then raise s 0x1C4 164 [(2, b.toNat), (2, ls.toNat)] else s)

/-- A set-and-way operation is performed and completes (R93). -/
def doSetWayDone (s : State) : State :=
  match s.cache.mOp with
  | some (.setWay k _) =>
    (match setWayWork s k with
     | (t, none) => t
     | (t, some e) => setWayEnd t k e)
  | _ => s

def execSetAndWayComplete (s : State) : Host.Outcome State Fault Refusal := act s doSetWayDone

-- ===== the cache control block (R97 to R99) =====

def cNote (e : DStatus) (s : State) : State := { s with cache := { s.cache with cLasterr := e } }
def cacheGate (off : Nat) : Gate := { plainGate with off := some (0x1000 + off) }

def cstateCode : CState → Nat
  | .enabled => 0 | .cleaning => 1 | .bypass => 2 | .invalidating => 3

/-- A change of the cache's state raises E-0x1C2, whose payload is the new state in one byte (DESIGN CHOICE, log entry 108: no
rule names the payload). -/
def setCache (s : State) (c : CState) : State :=
  raise { s with cache := { s.cache with cstate := c } } 0x1C2 164 [(1, cstateCode c)]

/-- A write of CACHE_CTL, whose fields are WL. INVALL acts only with ENABLE = 1 in bypass; written otherwise it is ignored and
the write completes with OK (DESIGN CHOICE, log entry 108). -/
def cacheCtlWrite (wl : Bool) (s : State) (value : BitVec 32) : Ans :=
  if !wl then (s, .ok, 0)
  else if !value.getLsbD 0 then
    match s.cache.cstate with
    | .enabled =>
      let s := setCache { s with cache := { s.cache with enable := false, passNext := 0 } } .cleaning
      (feed (capChange s .benches), .ok, 0)
    | .invalidating => (s, .quiesceRequired, 0)
    | _ => (s, .ok, 0)
  else
    match s.cache.cstate with
    | .cleaning => (setCache { s with cache := { s.cache with enable := true } } .enabled, .ok, 0)
    | .bypass =>
      let s := { s with cache := { s.cache with enable := true } }
      if value.getLsbD 1 then (feed (setCache s .invalidating), .ok, 0)
      else
        let s := setCache s .enabled
        if s.cache.bypw = 0 then (s, .ok, 0)
        else (raise { s with cache := { s.cache with stale := true } } 0x1C3 164 [(8, s.cache.bypw.toNat)], .ok, 0)
    | _ => (s, .ok, 0)

def cacheFront (s : State) (acc : Accessor) (value : BitVec 32) : State :=
  frontWl s acc (cacheGate 0) cNote (fun s => s.cache.enable != value.getLsbD 0 || value.getLsbD 1)
    (fun wl s => cacheCtlWrite wl s value)

def execCacheDisable (acc : Accessor) (s : State) : Host.Outcome State Fault Refusal := act s (fun s => cacheFront s acc 0)
def execCacheEnable (acc : Accessor) (s : State) : Host.Outcome State Fault Refusal := act s (fun s => cacheFront s acc 1)
def execInvalidateAll (acc : Accessor) (s : State) : Host.Outcome State Fault Refusal := act s (fun s => cacheFront s acc 3)

/-- The whole-cache clean has nothing left to do. -/
def doCacheCleaned (s : State) : State :=
  if s.cache.cstate != .cleaning || stepOut s .range pCacheClean ||
      (nextBlk s pCacheClean s.cache.passNext (2 ^ 33 - 1)).isSome then s
  else run (setCache s .bypass)

def execCacheCleanComplete (s : State) : Host.Outcome State Fault Refusal := act s doCacheCleaned

/-- Every block but the orphans is invalid: the tag cache is emptied and the cache is enabled (R64, R99). -/
def doInvalidatedAll (s : State) : State :=
  if s.cache.cstate != .invalidating || stepOut s .range pInvalidateAll ||
      (nextBlk s pInvalidateAll 0 (2 ^ 33 - 1)).isSome then s
  else
    let t := dropRecords s s.cache.resident
    if stood s t then run (setCache { t with cache := { t.cache with bypw := 0, stale := false } } .enabled) else t

def execInvalidateAllComplete (s : State) : Host.Outcome State Fault Refusal := act s doInvalidatedAll

end Sys2Proof.Machine
end

