-- ==== Sys2Proof/Machine/JobStep.lean ====
section
/-!
DEFINITION. The haul operations of a JOB step: loads, arriving lines, the engine's write buffer, and the stores of every
opcode (R173, R205, R211, R212, R219 to R226, R234, R237).
-/

namespace Sys2Proof.Machine

/-- The requester kind of a job's accesses (R195). -/
def jobKind (s : State) (q : QueueId) : RqKind := if (queueOf s q).ctx.priv then .supervisorQueue else .userQueue

-- ===== check values (R237, R241) =====

def polyOf (d : Desc) : BitVec 2 := d.subop.setWidth 2
def polyMask (p : BitVec 2) : BitVec 64 := BitVec.allOnes 64 >>> (64 - crcWidth p)

/-- The fold bytes of R241. -/
def foldBytes (d : Desc) : List Byte :=
  match (d.subop.toNat / 4) % 4 with
  | 1 => leBytes 8 (d.a.toNat / 2 ^ d.opx.toNat)
  | 2 => leBytes 8 d.b.toNat
  | _ => []

/-- The running value of a CHECK before its first job byte (R237). -/
def foldedValue (d : Desc) : BitVec 64 := crcRun (polyOf d) (d.v1 &&& polyMask (polyOf d)) (foldBytes d)

-- ===== accesses of a step =====

/-- Where a line is served: home device, bench and expander, to decide whether a job spans (R211). -/
def placeOf (s : State) (sa : SA) : Option (DevId × Bench × Option XLink) :=
  (homeOf s sa).map (fun h => (h.1, benchOfDla h.2,
    if h.1 = devId s then (windowAt s h.2).map (fun w => (winOf s w).geo.xl) else none))

/-- Notes the place of an access; two distinct ones decide. -/
def notePlace (s : State) (q : QueueId) (j : JobSeq) (sa : SA) : State :=
  match placeOf s sa with
  | none => s
  | some p => modJob s q j (fun x =>
      if x.homes.contains p || 2 ≤ x.homes.length then x else { x with homes := x.homes ++ [p] })

/-- The window of this device that holds a line. -/
def lineWin (s : State) (sa : SA) : Option WinId :=
  match homeOf s sa with
  | some (d, dla) => if d = devId s then windowAt s dla else none
  | none => none

/-- A running step has issued an access that matches a window of this device: the window's drain waits for it (R54, R57). -/
def noteWindow (s : State) (b : Bench) (sa : SA) : State :=
  match lineWin s sa with
  | some w => modRun s b (fun r => { r with wins := r.wins ||| bit w.toNat })
  | none => s

/-- Issues one line access of the step that runs on `b`; a refusal at this device is a failed part (R43, R211). -/
def issueAcc (s : State) (b : Bench) (off : Nat) (op : ReqOp) (sa : SA) (data : Line) (be : BitVec 64) (poison : Bool) : State :=
  match runOf s b with
  | none => s
  | some r =>
    let q := r.step.queue
    let s := notePlace s q r.step.jobseq sa
    let s := modRun s b (fun r => if storing op then { r with stores := r.stores + 1 } else { r with loads := r.loads ++ [sa] })
    let s := noteWindow s b sa
    match ncIssue s op (.step b off) (jobKind s q) sa data be poison q r.step.epoch with
    | (s, none) => s
    | (s, some e) => stepAnswer s op sa b 0 (some e)

/-- Offsets of the line that holds the byte at job offset `off` of a range at `start`: the line's address. -/
def lineAtOff (start off : Nat) : Nat := (start + off) / 64 * 64

-- ===== the engine's write buffer (R219, R212) =====

/-- The bytes of a destination line that the step covers. -/
def wantBe (d : Desc) (t : StepRec) (line : Nat) : BitVec 64 :=
  let lo := max line (dstOf d + t.cursor.toNat)
  let hi := min (line + 64) (dstOf d + stepEnd t)
  beRange (lo - line) (hi - lo)

/-- Merges bytes into the entry of a destination line. -/
def ewbMerge (l : List EEntry) (line off : Nat) (data : Line) (be : BitVec 64) (poison : Bool) : List EEntry :=
  let sa : SA := BitVec.ofNat 48 line
  match l.find? (fun e => e.sa == sa) with
  | some _ => mapIf (fun e => e.sa == sa) (fun e =>
      { e with data := mergeLine e.data data be, be := e.be ||| be, poison := e.poison || poison, off := min e.off off }) l
  | none => l ++ [{ sa := sa, data := data &&& beMask be, be := be, poison := poison, off := off }]

/-- Bytes of a source line, moved to a destination line. -/
def shiftLine (l : Line) (src dst : Nat) : Line := if src ≤ dst then l <<< (8 * (dst - src)) else l >>> (8 * (src - dst))

/-- A source line of a COPY or MIGRATE has come back: its bytes enter the write buffer, or fail with the destination lines
they would have filled (R212). -/
def copyAccept (s : State) (b : Bench) (d : Desc) (r : Run) (g : Got) : State :=
  let a := d.a.toNat
  let dst := d.b.toNat
  let (lo, hi) := lineOffs a g.sa.toNat r.step.cursor.toNat (stepEnd r.step)
  let put := fun (l : List EEntry) (line : Nat) =>
    let x := max lo (line - dst)
    let y := min hi (line + 64 - dst)
    ewbMerge l line x (shiftLine g.data (a + x - g.sa.toNat) (dst + x - line)) (beRange (dst + x - line) (y - x)) g.bad.isSome
  let first := lineAtOff dst lo
  let last := lineAtOff dst (hi - 1)
  let s := modRun s b (fun r => { r with ewb := (if first = last then put r.ewb first else put (put r.ewb first) last) })
  match g.bad with
  | none => s
  | some e =>
    let f := first - dst
    stepFail s b f (min (last + 64 - dst) d.len.toNat - f) e

/-- The copy unit of a destination line: its aligned 256-byte span (R225). -/
def unitOf (sa : SA) : SA := sa >>> 8

/-- Bytes of a copy unit that have arrived and not been stored. -/
def unitBytes (r : Run) (u : SA) : Nat :=
  sumNat ((r.ewb.filter (fun e => unitOf e.sa == u)).map (fun e => popCount e.be))

/-- Bytes of a copy unit that the step covers. -/
def unitWant (d : Desc) (t : StepRec) (u : SA) : Nat :=
  min (u.toNat * 256 + 256) (dstOf d + stepEnd t) - max (u.toNat * 256) (dstOf d + t.cursor.toNat)

/-- No further line will arrive. -/
def loaded (r : Run) : Bool := r.loads.isEmpty && r.got.isEmpty && (r.stop || stepEnd r.step ≤ r.next)

/-- An entry whose store may be issued (R219, R225): the buffer drains, or is full, or its bytes have all arrived and its unit
has passed the threshold. -/
def storable (s : State) (d : Desc) (r : Run) (e : EEntry) : Bool :=
  loaded r || r.drain || 16 ≤ r.ewb.length ||
  (e.be == wantBe d r.step e.sa.toNat &&
    (r.units.contains (unitOf e.sa) ||
     min s.job.threshold.toNat (unitWant d r.step (unitOf e.sa)) ≤ unitBytes r (unitOf e.sa)))

/-- Issues the store of an entry: a line of poison, a whole line, or the bytes under their enables. -/
def ewbStore (s : State) (b : Bench) (e : EEntry) : State :=
  let s := modRun s b (fun r => { r with
    ewb := r.ewb.filter (fun x => x.sa != e.sa)
    drain := r.drain && r.ewb.any (fun x => x.sa != e.sa)
    units := if r.units.contains (unitOf e.sa) then r.units else r.units ++ [unitOf e.sa] })
  let s := countDev s 0x104 0
  if e.poison then issueAcc s b e.off .ncWrite e.sa 0 (BitVec.allOnes 64) true
  else issueAcc s b e.off (if e.be = BitVec.allOnes 64 then .ncWrite else .ncWritePtl) e.sa e.data e.be false

-- ===== one haul operation of each opcode =====

/-- Takes the oldest returned line off the list. -/
def popGot (s : State) (b : Bench) : State := modRun s b (fun r => { r with got := r.got.tail })

/-- The destination stores of all the job's bytes among [lo, hi) have been performed (R226). -/
def migrated (x : Job) (lo hi : Nat) : Bool :=
  uncovered x.stored lo hi = 0 && x.refused.all (fun p => p.2 ≤ lo || hi ≤ p.1)

/-- The sectors of a block that lie wholly inside the source range of a job. -/
def wholeSectors (d : Desc) (blk : Nat) : BitVec 64 :=
  (List.range 64).foldl (fun m i =>
    if d.a.toNat ≤ blk + 64 * i ∧ blk + 64 * i + 64 ≤ d.a.toNat + d.len.toNat then m ||| bit i else m) 0

/-- The release of a source line, and the invalidation of the source block that ends with it, each once every destination store
of the job's bytes there has been performed (R226); a line or block that two steps share is done by the later one. -/
def migrateLine (s : State) (b : Bench) (d : Desc) (x : Job) (at_ line : Nat) (ends : Bool) : State :=
  let span := fun (base n : Nat) => (base - d.a.toNat, min d.len.toNat (base + n - d.a.toNat))
  let (lo, hi) := span line 64
  let s := if d.subop.getLsbD 0 && migrated x lo hi then
      issueAcc s b at_ .migrateRelease (BitVec.ofNat 48 line) 0 0 false else s
  let blk := line / 4096 * 4096
  let (lo, hi) := span blk 4096
  if d.subop.getLsbD 1 && ends && migrated x lo hi && wholeSectors d blk != 0 then
    issueAcc s b at_ (.invalidateBlock (wholeSectors d blk)) (BitVec.ofNat 48 line) 0 0 false
  else s

/-- After the stores of a MIGRATE step have been answered: its range is noted, and its source lines are gone through, one for
each operation (R226). -/
def migrateTail (s : State) (b : Bench) (d : Desc) (r : Run) : State :=
  let upto := min r.next (stepEnd r.step)
  if upto ≤ r.done then s else
  let q := r.step.queue
  let j := r.step.jobseq
  let s := if r.done = r.step.cursor.toNat then
      modJob s q j (fun x => { x with stored := x.stored ++ [(r.step.cursor.toNat, upto)] }) else s
  let line := lineAtOff d.a.toNat r.done
  let next := min upto (line + 64 - d.a.toNat)
  let s := modRun s b (fun r => { r with done := next })
  match jobOf s q j with
  | some x => migrateLine s b d x r.done line ((line + 64) % 4096 = 0 || next = upto)
  | none => s

/-- A line of a window whose POLICY is uncached (R219). -/
def uncachedLine (s : State) (line : Nat) : Bool :=
  match lineWin s (BitVec.ofNat 48 line) with
  | some w => (winOf s w).geo.policy == 3
  | none => false

/-- The load of a source line. Bytes that one of the engine's own pending stores holds whole are forwarded from it; one that
holds a part of them drains first (R85); before an access to an uncached window the whole buffer drains (R219). -/
def copyLoad (s : State) (b : Bench) (d : Desc) (r : Run) : State :=
  let line := lineAtOff d.a.toNat r.next
  let hi := min (stepEnd r.step) (line + 64 - d.a.toNat)
  let m := beRange (d.a.toNat + r.next - line) (hi - r.next)
  let go := fun (s : State) => modRun s b (fun r => { r with next := hi })
  let load := issueAcc (go s) b r.next .ncRead (BitVec.ofNat 48 line) 0 (BitVec.allOnes 64) false
  match r.ewb.find? (fun e => e.sa.toNat == line), r.ewb with
  | some e, _ =>
    if e.poison || (m &&& ~~~e.be) = 0 then
      modRun (go s) b (fun r => { r with got := r.got ++ [⟨e.sa, e.data, if e.poison then some .poisoned else none⟩] })
    else if (m &&& e.be) != 0 then ewbStore s b e
    else load
  | none, e :: _ => if uncachedLine s line then ewbStore s b e else load
  | none, [] => if uncachedLine s line && r.stores != 0 then s else load

/-- COPY and MIGRATE (R225, R226). -/
def copyOp (s : State) (b : Bench) (d : Desc) (r : Run) : State :=
  match r.got with
  | g :: _ => if r.step.cursor.toNat < r.done then popGot s b else copyAccept (popGot s b) b d r g
  | [] =>
    match r.ewb.find? (storable s d r) with
    | some e => ewbStore s b e
    | none =>
      if !r.stop && r.next < stepEnd r.step then
        if 15 ≤ r.loads.length + r.ewb.length then s else copyLoad s b d r
      else if d.opcode = opMigrate && r.loads.isEmpty && r.stores = 0 && r.ewb.isEmpty then migrateTail s b d r
      else s

/-- V1 repeated over a line: the byte at address a takes byte a mod 8 (R205). -/
def patternLine (v : BitVec 64) : Line :=
  let w : Line := v.setWidth 512
  let w := w ||| (w <<< 64)
  let w := w ||| (w <<< 128)
  w ||| (w <<< 256)

/-- The next destination line of a FILL enters the engine's write buffer. -/
def fillTake (d : Desc) (r : Run) : Run :=
  if r.stop || stepEnd r.step ≤ r.next then r else
  let line := lineAtOff d.a.toNat r.next
  let upto := min (stepEnd r.step) (line + 64 - d.a.toNat)
  { r with next := upto
           ewb := ewbMerge r.ewb line r.next (patternLine d.v1) (beRange (d.a.toNat + r.next - line) (upto - r.next)) false }

/-- Lines enter the write buffer of a FILL until it is full or the step's range is used up. -/
def fillBuffer (d : Desc) : Nat → Run → Run
  | 0, r => r
  | n + 1, r => if 16 ≤ r.ewb.length then r else fillBuffer d n (fillTake d r)

/-- FILL (R205): its lines gather in the engine's write buffer, which drains when it is full and at the end of the step (R219);
one operation issues one store. -/
def fillOp (s : State) (b : Bench) (d : Desc) (r : Run) : State :=
  let f := fillBuffer d 16 r
  match f.ewb with
  | [] => s
  | e :: _ => ewbStore (modRun s b (fun r => { r with next := f.next, ewb := f.ewb })) b e

def engineOf (s : State) (e : Nat) : EngineS := tget EngineS.init s.job.engines e
def setEngine (s : State) (e : Nat) (v : EngineS) : State :=
  { s with job := { s.job with engines := tput EngineS.init s.job.engines e v } }

/-- CHECK: the engine consumes lines in ascending order, of each the bytes of the range (R234, R237). -/
def checkOp (s : State) (b : Bench) (d : Desc) (r : Run) : State :=
  if r.parity then s else
  let line := lineAtOff d.a.toNat r.done
  match r.got.find? (fun g => g.sa.toNat == line), r.engine with
  | some g, some e =>
    let (lo, hi) := lineOffs d.a.toNat line r.done (stepEnd r.step)
    let s := modRun s b (fun r => { r with done := hi, got := r.got.filter (fun x => x.sa != g.sa) })
    (match g.bad with
     | some st => stepFail s b lo (hi - lo) st
     | none =>
       let v := engineOf s e.toNat
       let bytes := ((lineBytes g.data).drop (d.a.toNat + lo - line)).take (hi - lo)
       let s := setEngine s e.toNat { v with value := crcRun (polyOf d) v.value bytes, cursor := BitVec.ofNat 64 (d.a.toNat + hi) }
       { s with job := { s.job with ckBytes := s.job.ckBytes + BitVec.ofNat 64 (hi - lo) } })
  | _, _ =>
    if r.stop || stepEnd r.step ≤ r.next || 32 ≤ r.loads.length + r.got.length then s else
    let at_ := lineAtOff d.a.toNat r.next
    let s := modRun s b (fun r => { r with next := min (stepEnd r.step) (at_ + 64 - d.a.toNat) })
    issueAcc s b r.next .ncRead (BitVec.ofNat 48 at_) 0 (BitVec.allOnes 64) false

/-- FLUSH and PREFETCH: one access for each line of the range (R205). -/
def rangeJobOp (s : State) (b : Bench) (d : Desc) (r : Run) : State :=
  match r.got with
  | g :: _ =>
    let (lo, hi) := lineOffs d.a.toNat g.sa.toNat r.step.cursor.toNat (stepEnd r.step)
    (match g.bad with
     | some st => stepFail (popGot s b) b lo (hi - lo) st
     | none => popGot s b)
  | [] =>
    if r.stop || stepEnd r.step ≤ r.next then s else
    let line := lineAtOff d.a.toNat r.next
    let blk := line / 4096 * 4096
    let whole : Bool := d.a.toNat ≤ blk && blk + 4096 ≤ d.a.toNat + d.len.toNat
    let op : ReqOp := if d.opcode = opFlush then .flushLine (d.subop.getLsbD 0 && whole) else .prefetchLine (d.subop.setWidth 2)
    let s := modRun s b (fun r => { r with next := min (stepEnd r.step) (line + 64 - d.a.toNat) })
    issueAcc s b r.next op (BitVec.ofNat 48 line) 0 (BitVec.allOnes 64) false

/-- The request of an ATOMIC, RESERVE or CONDSTORE at its home bench; the offset is in 4-byte units of the line. -/
def singleReq (d : Desc) : ReqOp :=
  let off : BitVec 4 := BitVec.ofNat 4 (d.a.toNat % 64 / 4)
  let size8 := d.subop.getLsbD 2
  if d.opcode = opAtomic then .atomic (d.subop.setWidth 2) size8 off d.v1 d.v2
  else if d.opcode = opReserve then .reserve size8 off
  else .condstore size8 off d.v1

/-- ATOMIC, RESERVE and CONDSTORE: one line access (R221, R222, R224). -/
def singleOp (s : State) (b : Bench) (d : Desc) (r : Run) : State :=
  match r.got with
  | g :: _ =>
    let s := popGot s b
    let q := r.step.queue
    let j := r.step.jobseq
    (match g.bad with
     | some .reservationLost => modJob s q j (fun x => { x with resLost := true })
     | some e => stepFail s b 0 (opSize d) e
     | none => modJob s q j (fun x => { x with
         result := if d.opcode = opCondstore then 0 else lineField g.data 0 8 }))
  | [] =>
    if r.stop || 1 ≤ r.next then s else
    let s := modRun s b (fun r => { r with next := 1 })
    issueAcc s b 0 (singleReq d) (BitVec.ofNat 48 (d.a.toNat / 64 * 64)) 0 (BitVec.allOnes 64) false

/-- One haul operation of a JOB step whose descriptor is `d`. -/
def jobOp (s : State) (b : Bench) (d : Desc) (r : Run) : State :=
  if isCopy d then copyOp s b d r
  else if d.opcode = opFill then fillOp s b d r
  else if d.opcode = opCheck then checkOp s b d r
  else if d.opcode = opFlush || d.opcode = opPrefetch then rangeJobOp s b d r
  else singleOp s b d r

/-- The step has nothing left to issue, accept or wait for (R172, R218). -/
def jobStepDone (d : Desc) (r : Run) : Bool :=
  (r.stop || stepEnd r.step ≤ r.next) && r.loads.isEmpty && r.stores == 0 && r.ewb.isEmpty &&
  (r.got.isEmpty || (d.opcode == opCheck && r.parity)) &&
  (d.opcode != opMigrate || d.subop == 0 || min r.next (stepEnd r.step) ≤ r.done)

end Sys2Proof.Machine
end

