-- ==== Sys2Proof/Machine/Haul.lean ====
section
/-!
DEFINITION. Haul steps: slack, the deques, the operations of running steps, stealing, and the release of JOB steps (06).
-/

namespace Sys2Proof.Machine

-- ===== slack (R176, R177) =====

/-- The pipeline capacity C by which the account of a bench is kept: that of the clock at the start of the microsecond (R176). -/
def slackCap (s : State) (b : Bench) : Nat := (tget (1500 : BitVec 12) s.clk.usClock (clusterOf b).toNat).toNat / 2

/-- K stays between -8,192 and 4 C. -/
def clampK (s : State) (b : Bench) (k : Int) : Int := max (-8192) (min (4 * (slackCap s b : Int)) k)
def creditK (s : State) (b : Bench) (d : Int) : State := modBench s b (fun v => { v with k := clampK s b (v.k + d) })

/-- The gain of a bench over the microsecond that ends: floor(C - reserve - used), never below 0. -/
def slackGain (s : State) (b : Bench) : Nat :=
  slackCap s b - ceilDiv (2 * demand s (heldShares s) (fullMiss s b)) (unitB * 256) - (benchOf s b).used

/-- Room in a deque (R178): 64 entries, of which job work may use 56. -/
def hasRoom (s : State) (b : Bench) (k : StepKind) : Bool :=
  let l := (benchOf s b).deque
  l.length < 64 && (k != .job || (l.filter (fun t => t.kind == .job)).length < 56)

/-- R179: a SWEEP or SCRUB step of a bench that is far behind is queued at the head. -/
def urgent (s : State) (t : StepRec) : Bool :=
  (t.kind == .sweep && 2 * s.cache.sweepThreshold.toNat < dirtyBlocks s t.owner) ||
  (t.kind == .scrub && 512 < scrubLag s t.owner)

def pushStep (s : State) (b : Bench) (t : StepRec) (head : Bool) : State :=
  modBench s b (fun v => { v with deque := if head then t :: v.deque else v.deque ++ [t] })

/-- A bench grants slack to a step and queues it: it has room and K > 0 (R177, R179). -/
def grant (s : State) (b : Bench) (t : StepRec) : State × Bool :=
  if hasRoom s b t.kind && 0 < (benchOf s b).k then
    (pushStep (creditK s b (-(t.estimate.toNat : Int))) b t (urgent s t), true)
  else (countBench s b 0x01C 0, false)

/-- Steps that wait at a bench for slack, oldest first. -/
def grantPending : Nat → State → Bench → State
  | 0, s, _ => s
  | n + 1, s, b =>
    match (benchOf s b).pending with
    | [] => s
    | t :: rest =>
      if hasRoom s b t.kind && 0 < (benchOf s b).k then
        grantPending n (grant (modBench s b (fun v => { v with pending := rest })) b t).1 b
      else s

/-- A bench is idle: an empty deque, no running step, and K > 0 (R183). -/
def idleBench (s : State) (b : Bench) : Bool :=
  let v := benchOf s b
  v.deque.isEmpty && v.running.isNone && 0 < v.k

def clusterIdle (s : State) (c : Nat) : Bool := (List.range 16).any (fun i => idleBench s (BitVec.ofNat 8 (c * 16 + i)))

/-- Stealing across clusters by cluster `c` goes on: one of its benches is idle, and some cluster has published 16 steps or more
(R186). -/
def stealGoes (s : State) (c : Nat) : Bool := s.job.published.any (fun e => 16 ≤ e.2) && clusterIdle s c

/-- Notes which clusters are drained (R185): the time since which every deque of the cluster is empty; all ones: not. Stealing
across clusters stops where R186 says. -/
def noteDrained (s : State) : State :=
  let full := (s.cache.bench.filter (fun p => !p.2.deque.isEmpty)).map (fun p => p.1 / 16)
  { s with job := { s.job with
      stealing := s.job.stealing.filter (stealGoes s)
      drainedSince := (List.range 16).foldl (fun t c =>
        let old : Time := tget 0 t c
        if full.contains c then tput 0 t c (BitVec.allOnes 64)
        else if old == BitVec.allOnes 64 then tput 0 t c s.now else t) s.job.drainedSince } }

/-- Every bench is credited with what it gained in the microsecond that ends, and starts the next (R176). -/
def creditSlack (s : State) : State :=
  (List.range 256).foldl (fun s n =>
    let b : Bench := BitVec.ofNat 8 n
    modBench (creditK s b (slackGain s b)) b (fun v => { v with used := 0 })) s

/-- Steps that wait for slack are queued where there is room and slack (R177). -/
def grantAll (s : State) : State :=
  (s.cache.bench.map (fun p => (BitVec.ofNat 8 p.1 : Bench))).foldl (fun s b => grantPending 9 s b) s

/-- The end of a microsecond at every bench. -/
def doSlack (s : State) : State :=
  if !presented s then s
  else
    let s := noteDrained (grantAll (feed (creditSlack s)))
    { s with clk := { s.clk with usClock := s.clk.clock } }

def execSlackUpdate (s : State) : Host.Outcome State Fault Refusal := act s doSlack

-- ===== one operation of device work (R173) =====

/-- A step that runs on `b` sends an examination to the bench that owns the set or block at `dla`: an Ash request there (R151,
R173, Table 3-5). -/
def sendExam (s : State) (b : Bench) (k : StepKind) (p n : Nat) (dla : DLA) : State :=
  let r := formReq s s.cache.nextReq .migrateRelease (.exam b k p n) .deviceWork 0 (saOf s dla) dla 0 .ash none s.now 0
    (BitVec.allOnes 64) false 0 0
  run (arrive s { r with policy := 0, hit := true })

/-- The line that stands for a set of a bench. -/
def setLine (b : Bench) (n : Nat) : DLA := dlaOfBlk (blkOf b (BitVec.ofNat 15 n) 0) 0

/-- The next line from line index `n` (block times 64 plus sector) to `hi` that a flush drain has to flush. -/
def drainLine (s : State) (n hi : Nat) : Option Nat :=
  let cached := (s.cache.tags.filter (fun p => p.2.state == .valid)).flatMap (fun p =>
    let blk := (blkOfKey s p.1).toNat
    if blk * 64 + 63 < n || hi ≤ blk * 64 then [] else (bitsOf p.2.valid).map (fun i => blk * 64 + i))
  minNat ((cached ++ (trackedLines s).map (fun (d : DLA) => d.toNat / 64)).filter (fun x => n ≤ x && x < hi))

/-- The next block from `n` to `hi` that is valid and holds no sector. -/
def drainEmpty (s : State) (n hi : Nat) : Option Nat :=
  minNat (((s.cache.tags.filter (fun p => p.2.state == .valid && p.2.valid == 0)).map (fun p => (blkOfKey s p.1).toNat)).filter
    (fun x => n ≤ x && x < hi))

/-- Sends the flush of one line of a draining window to its home bench, this device (R54). -/
def drainIssue (s : State) (b : Bench) (w : WinId) (line : Nat) : State :=
  let dla : DLA := BitVec.ofNat 45 (line * 64)
  run (arrive s (formReq s s.cache.nextReq (.flushLine true) (.flush b) .deviceWork 0 (saOf s dla) dla w .ash none s.now 0
    (BitVec.allOnes 64) false 0 0))

/-- The running range operation of purpose `p` stands past block `upto - 1`; the blocks before `absent` are absent and so
processed. -/
def rangeAdvance (s : State) (p absent upto : Nat) : State :=
  let s := if p = pCacheClean then { s with cache := { s.cache with passNext := upto } } else s
  match s.cache.mOp with
  | some (.range k next last) =>
    if maintPurpose k = p && next < upto then
      { s with cache := { s.cache with
          mOp := some (.range k upto last), mProg := s.cache.mProg + BitVec.ofNat 64 (absent - next) } }
    else s
  | _ => s

/-- Advances a step record by units. -/
def stepBy (t : StepRec) (n : Nat) : StepRec :=
  { t with cursor := t.cursor + BitVec.ofNat 64 n, remain := t.remain - BitVec.ofNat 32 n }

/-- The DRAIN step stands at byte address `a` of its blocks, which end at block `hi`. -/
def drainAt (t : StepRec) (a hi : Nat) : StepRec :=
  { t with cursor := BitVec.ofNat 64 a, remain := BitVec.ofNat 32 (hi - a / 4096) }

/-- One operation of a DRAIN step on `b`: the flush of its next line, else the examination of its next empty block. -/
def drainOp (s : State) (b : Bench) (t : StepRec) : State × StepRec :=
  let at_ := t.cursor.toNat
  let hi := at_ / 4096 + t.remain.toNat
  match drainLine s (at_ / 64) (hi * 64), drainEmpty s (at_ / 4096) hi with
  | some n, some e =>
    if e * 64 < n then (sendExam s b .drain t.queue.toNat e (dlaOfBlk (BitVec.ofNat 33 e) 0), drainAt t ((e + 1) * 4096) hi)
    else (drainIssue s b (BitVec.ofNat 6 t.queue.toNat) n, drainAt t ((n + 1) * 64) hi)
  | some n, none => (drainIssue s b (BitVec.ofNat 6 t.queue.toNat) n, drainAt t ((n + 1) * 64) hi)
  | none, some e => (sendExam s b .drain t.queue.toNat e (dlaOfBlk (BitVec.ofNat 33 e) 0), drainAt t ((e + 1) * 4096) hi)
  | none, none => (s, drainAt t (hi * 4096) hi)

/-- One operation of a RANGE step on `b`: the examination of its next present block (R91). -/
def rangeOp (s : State) (b : Bench) (t : StepRec) : State × StepRec :=
  let p := t.queue.toNat
  let cur := t.cursor.toNat
  let hi := cur + t.remain.toNat
  match nextBlk s p cur (hi - 1) with
  | none => (rangeAdvance s p hi hi, { t with cursor := BitVec.ofNat 64 hi, remain := 0 })
  | some n => (sendExam (rangeAdvance s p n (n + 1)) b .range p n (dlaOfBlk (BitVec.ofNat 33 n) 0), stepBy t (n + 1 - cur))

/-- One operation of a step of device work on `b` (Table 6-1): the state, and what is left of the step. -/
def unitOp (s : State) (b : Bench) (t : StepRec) : State × StepRec :=
  let cur := t.cursor.toNat
  match t.kind with
  | .sweep =>
    (modBench (sendExam s b .sweep 0 cur (setLine t.owner cur)) t.owner (fun v => { v with sweepPos := BitVec.ofNat 15 (cur + 1) }),
      stepBy t 1)
  | .scrub => (sendExam s b .scrub t.jobseq.toNat cur (setLine t.owner cur), { t with remain := 0 })
  | .range => rangeOp s b t
  | .drain => drainOp s b t
  | .assay =>
    let x : XLink := BitVec.ofNat 5 cur
    if (xlinkOf s x).state == .assay then (probeRead s x, { t with remain := t.remain - 1 }) else (s, { t with remain := 0 })
  | .job => (s, t)

/-- A haul operation counts as one, and as one in a device floor slot where it takes one (Table 17-3). -/
def countHaul (s : State) (b : Bench) (floor : Bool) : State :=
  let s := countBench s b 0x01A 0
  if floor then countBench s b 0x01B 0 else s

/-- A haul operation of the step that runs on a bench has been made; those in device floor slots are charged to no account, and
the first starts the 2 µs (R172, R177). -/
def countOp (s : State) (b : Bench) (floor : Bool) : State :=
  countHaul (modRun s b (fun v => { v with
    ops := if floor then v.ops else v.ops + 1, started := some (v.started.getD s.now) })) b floor

/-- One haul operation of the running step of a bench; `floor` says it takes a device floor slot (R174, R177). False: the
step has to wait. -/
def haulOp (s : State) (b : Bench) (floor : Bool) : State × Bool :=
  match runOf s b with
  | none => (s, false)
  | some r =>
    match r.step.kind with
    | .job =>
      (match jobOf s r.step.queue r.step.jobseq with
       | none => (s, false)
       | some x =>
         let t := jobOp s b x.d r
         if runOf t b == some r then (s, false) else (countOp t b floor, true))
    | _ =>
      if r.stop || r.step.remain = 0 then (s, false)
      else
        let (t, c) := unitOp s b r.step
        (countOp (modRun t b (fun v => { v with step := c })) b floor, true)

-- ===== starting a step (R178, R233, R244) =====

/-- Check-value engines of a cluster (R232). -/
def clusterEngines (c : Nat) : List Nat := [2 * c, 2 * c + 1]
def freeEngine (s : State) (c : Nat) : Option Nat :=
  (clusterEngines c).find? (fun e => (engineOf s e).service && (engineOf s e).busy.isNone)
def anyEngine (s : State) (c : Nat) : Bool := (clusterEngines c).any (fun e => (engineOf s e).service)

/-- The job of a JOB step is a CHECK. -/
def isCheck (s : State) (t : StepRec) : Bool :=
  t.kind == .job && (match jobOf s t.queue t.jobseq with
    | some x => x.d.opcode == opCheck
    | none => false)

def mkRun (t : StepRec) (e : Option Nat) : Run :=
  { step := t, started := none, ops := 0, loads := [], stores := 0, next := t.cursor.toNat, done := t.cursor.toNat, stop := false,
    engine := e.map (BitVec.ofNat 5 ·), got := [], ewb := [], units := [], parity := false, drain := false, wins := 0 }

/-- A JOB step of an earlier epoch of its queue (R189). -/
def stale (s : State) (t : StepRec) : Bool := t.kind == .job && t.epoch != (queueOf s t.queue).epoch

/-- Changes the job of a step. -/
def setLive (s : State) (t : StepRec) (f : Job → Job) : State := modJob s t.queue t.jobseq f

/-- R244: the step moves to the tail of the deque of the lowest bench of the next cluster with an engine in service; while that
deque has no room, or no engine of the device is in service, it waits where it is. -/
def moveCheck (s : State) (b : Bench) (t : StepRec) : State :=
  let c := b.toNat / 16
  match ((List.range 16).map (fun i => (c + 1 + i) % 16)).find? (anyEngine s) with
  | none => s
  | some d =>
    let dst : Bench := BitVec.ofNat 8 (d * 16)
    if !hasRoom s dst .job then s else
    let s := modBench s b (fun v => { v with deque := v.deque.tail })
    let s := creditK (creditK s b t.estimate.toNat) dst (-(t.estimate.toNat : Int))
    pushStep s dst t false

/-- The CURSOR of a step as an address (Table 6-2): a JOB step's is a job offset in the model. -/
def cursorAddr (s : State) (t : StepRec) : BitVec 64 :=
  match t.kind, jobOf s t.queue t.jobseq with
  | .job, some x => x.d.a + t.cursor
  | _, _ => t.cursor

/-- The bench takes the step at the head of its deque. -/
def takeStep (s : State) (b : Bench) (t : StepRec) (e : Option Nat) : State :=
  let s := modBench s b (fun v => { v with deque := v.deque.tail, running := some (mkRun t e), ckWait := none })
  match e with
  | some n => setEngine s n { engineOf s n with busy := some (b, t.queue, t.jobseq), value := t.checkval, cursor := cursorAddr s t }
  | none => s

/-- A CHECK step at the head waits for an engine: each wait counts once (R233, Table 8-4). -/
def waitEngine (s : State) (b : Bench) (t : StepRec) : State :=
  if (benchOf s b).ckWait == some t then s
  else modBench { s with job := { s.job with ckWait := s.job.ckWait + 1 } } b (fun v => { v with ckWait := some t })

def doStepStart (s : State) (b : Bench) : State :=
  if !presented s || (runOf s b).isSome then s else
  match (benchOf s b).deque with
  | [] => s
  | t :: _ =>
    if stale s t then
      setLive (creditK (modBench s b (fun v => { v with deque := v.deque.tail })) b t.estimate.toNat) t
        (fun x => { x with open_ := x.open_ - 1 })
    else if isCheck s t then
      if !anyEngine s (b.toNat / 16) then moveCheck s b t
      else match freeEngine s (b.toNat / 16) with
        | some e => takeStep s b t (some e)
        | none => waitEngine s b t
    else takeStep s b t none

def execStepStart (b : Bench) (s : State) : Host.Outcome State Fault Refusal := act s (fun s => noteDrained (doStepStart s b))

-- ===== the end of a step (R172, R177, R238, R243) =====

/-- The request is one that a step of device work on `b` has sent: an examination or the flush of a line. -/
def sentBy (b : Bench) (r : Req) : Bool := match r.org with
  | .exam c .. | .flush c => c == b
  | _ => false

/-- Whether the running step has nothing left to do here, and what it has sent is answered. -/
def runDone (s : State) (b : Bench) (r : Run) : Bool :=
  match r.step.kind with
  | .job =>
    (match jobOf s r.step.queue r.step.jobseq with
     | some x => jobStepDone x.d r
     | none => r.loads.isEmpty && r.stores == 0)
  | _ => (r.stop || r.step.remain == 0) && !s.cache.reqs.any (sentBy b)

/-- The job of a step goes on: no abort, time-out or reset has ended its release of steps. -/
def jobLives (s : State) (t : StepRec) : Bool :=
  match jobOf s t.queue t.jobseq with
  | some x => !x.aborted && !x.timedOut && !x.reset && !stale s t
  | none => false

/-- The lines that `n` bytes at `a` touch. -/
def linesOf (a n : Nat) : Nat := if n = 0 then 0 else (a + n - 1) / 64 - a / 64 + 1

/-- The estimate of a JOB step: the lines it reads and the lines it writes (Table 6-1); an ATOMIC reads its line and writes it. -/
def jobEstimate (d : Desc) (off n : Nat) : Nat :=
  min 2048 (if isCopy d then linesOf (d.a.toNat + off) n + linesOf (d.b.toNat + off) n
            else if d.opcode = opAtomic then 2
            else if jobTotal d = 1 then 1 else linesOf (d.a.toNat + off) n)

/-- The continuation of a cut step enters the deque of its bench, or waits for slack at its source: a JOB step at the job front
end, another in the bench's pending list (R172, R177). -/
def continueStep (s : State) (b : Bench) (t : StepRec) : State :=
  if t.kind == .job then
    match (if s.job.conts.any (fun c => c.1 == b) then (s, false) else grant s b t) with
    | (s, true) => s
    | (s, false) => { s with job := { s.job with conts := s.job.conts ++ [(b, t)] } }
  else
    match (if (benchOf s b).pending.isEmpty then grant s b t else (s, false)) with
    | (s, true) => s
    | (s, false) => modBench s b (fun v => { v with pending := v.pending ++ [t] })

/-- A JOB step ends: its engine is released with the running value in CHECKVAL, its rest continues or stays undone. -/
def endJob (s : State) (b : Bench) (r : Run) : State :=
  let t := r.step
  let value := match r.engine with
    | some e => (engineOf s e.toNat).value
    | none => t.checkval
  let s := match r.engine with
    | some e => setEngine s e.toNat { engineOf s e.toNat with busy := none }
    | none => s
  match jobOf s t.queue t.jobseq with
  | none => s
  | some x =>
    let upto := if x.d.opcode = opCheck then r.done else r.next
    let s := setLive s t (fun x => { x with
      open_ := x.open_ - 1, steps := x.steps + 1, value := if x.d.opcode = opCheck then value else x.value })
    if stepEnd t ≤ upto then s
    else if jobLives s t then
      let rest := stepEnd t - upto
      let c := { t with cursor := BitVec.ofNat 64 upto, remain := BitVec.ofNat 32 rest, checkval := value,
                        estimate := BitVec.ofNat 12 (jobEstimate x.d upto rest) }
      continueStep (setLive s t (fun x => { x with open_ := x.open_ + 1 })) b c
    else setLive s t (fun x => { x with undone := x.undone ++ [(upto, stepEnd t)] })

/-- A step of device work ends. -/
def endDevice (s : State) (b : Bench) (t : StepRec) : State :=
  if t.remain != 0 then (if presented s then continueStep s b t else s)
  else match t.kind with
    | .sweep => modBench s t.owner (fun v => { v with sweeping := false })
    | .assay =>
      let x : XLink := BitVec.ofNat 5 t.cursor.toNat
      if (xlinkOf s x).state != .assay then s
      else if targeted s x then assayBySteps s x
      else if probing s x then s else probeRead s x
    | _ => s

def kindCode : StepKind → Nat
  | .job => 0 | .sweep => 1 | .scrub => 2 | .drain => 3 | .range => 4 | .assay => 5

/-- An engine whose parity has failed leaves service: the mismatch is counted and E-0x2C1 raised; E-0x2C2 where no engine of the
device is left in service (R243, R244). -/
def engineOut (s : State) (e : Nat) (q : QueueId) (j : JobSeq) : State :=
  let s := setEngine s e { engineOf s e with service := false, busy := none }
  let s := { s with job := { s.job with ckParity := s.job.ckParity + 1 } }
  let s := raise s 0x2C1 (128 + e / 2) [(1, e), (2, q.toNat), (2, j.toNat)]
  if (List.range 16).any (anyEngine s) then s else raise s 0x2C2 164 []

/-- The step on a bench ends: the unused part of its estimate is credited (R177). After a parity mismatch it goes back to the head
of the deque as it started, and its engine leaves service (R243). -/
def endStep (s : State) (b : Bench) (r : Run) : State :=
  let s := modBench s b (fun v => { v with running := none, ran := tinc v.ran (kindCode r.step.kind) })
  let s := creditK s b ((r.step.estimate.toNat : Int) - r.ops)
  let s := countBench s b 0x01E 0
  if r.parity then
    let s := pushStep s b r.step true
    match r.engine with
    | some e => engineOut s e.toNat r.step.queue r.step.jobseq
    | none => s
  else noteDrained (feed (if r.step.kind == .job then endJob s b r else endDevice s b r.step))

/-- A step that goes back into the deque waits for an entry there (R178). -/
def mayEnd (s : State) (b : Bench) (r : Run) : Bool := runDone s b r && (!r.parity || hasRoom s b .job)

def doStepEnd (s : State) (b : Bench) : State :=
  match runOf s b with
  | some r => if mayEnd s b r then endStep s b r else s
  | none => s

def execStepEnd (b : Bench) (s : State) : Host.Outcome State Fault Refusal := act s (fun s => doStepEnd s b)

/-- 2 µs after its first operation a step issues nothing more (R172). -/
def doStepCut (s : State) (b : Bench) : State :=
  match runOf s b with
  | some r =>
    (match r.started with
     | some t => if since s t < 2000 then s else doStepEnd (modRun s b (fun r => { r with stop := true })) b
     | none => s)
  | none => s

def execStepCut (b : Bench) (s : State) : Host.Outcome State Fault Refusal := act s (fun s => doStepCut s b)

-- ===== issue slots (R148, R174) =====

/-- What a tag pipeline issues in a slot. -/
inductive Pick | contracted | ash | floorOp | haul | nothing
  deriving DecidableEq, Repr

/-- The choice of R148 and R174: `left` is the time to the earliest deadline of the ready contracted requests. -/
def pickSlot (slot ashRun : Nat) (left : Option Nat) (ash device haul : Bool) : Pick :=
  let d := match left with
    | some n => !(slot % 8 == 0 && ash) || decide (n < 200)
    | none => false
  if d then .contracted
  else if slot % 64 == 4 && device then .floorOp
  else if ash && (ashRun < 3 || !haul) then .ash
  else if haul then .haul
  else .nothing

/-- Requests of a bench that are ready. -/
def readyAt (s : State) (b : Bench) : List Req := (readyIds s).filterMap (reqOf s) |>.filter (atBench b)

/-- Time left to a deadline. -/
def timeLeft (s : State) (r : Req) : Option Nat := r.deadline.map (fun d => if d < s.now then 0 else (d - s.now).toNat)

/-- The request of the earliest deadline. -/
def earliest (s : State) (l : List Req) : Option Req :=
  l.foldl (fun o r =>
    match timeLeft s r, o.bind (timeLeft s) with
    | some n, some m => if n < m then some r else o
    | some _, none => some r
    | none, _ => o) none

def deviceRuns (s : State) (b : Bench) : Bool :=
  match runOf s b with
  | some r => r.step.kind != .job
  | none => false

/-- The oldest waiting step of device work: of the deque, then of the pending list. -/
def floorStep (s : State) (b : Bench) : Option StepRec :=
  ((benchOf s b).deque ++ (benchOf s b).pending).find? (fun t => t.kind != .job)

/-- One floor operation of a step that waits, in place (R174): its slots are charged to no account. -/
def floorInPlace (s : State) (b : Bench) (t : StepRec) : State :=
  let granted := (benchOf s b).deque.contains t
  let (s, c) := unitOp s b t
  let swap := fun (l : List StepRec) => (mapIf (· == t) (fun _ => c) l).filter (fun x => !(x == c && x.remain == 0))
  let s := countHaul (modBench s b (fun v => { v with deque := swap v.deque, pending := swap v.pending })) b true
  if c.remain = 0 then
    let s := if granted then creditK s b t.estimate.toNat else s
    let s := modBench s b (fun v => { v with ran := tinc v.ran (kindCode t.kind) })
    noteDrained (feed (endDevice s b c))
  else s

/-- A device floor slot: an operation of the running step of device work, else of the oldest one that waits (R174). -/
def floorSlot (s : State) (b : Bench) : State :=
  let (s, moved) := if deviceRuns s b then haulOp s b true else
    (match floorStep s b with
     | some t => (floorInPlace s b t, true)
     | none => (s, false))
  if moved then modBench s b (fun v => { v with floorOps := v.floorOps + 1 }) else s

/-- The clock of the bench's cluster is being changed (R372), or its PLL has lost lock (R373): it issues nothing. -/
def benchHeld (s : State) (b : Bench) : Bool :=
  s.clk.target.any (fun p => p.1 == (clusterOf b).toNat) || s.clk.unlocked.contains (clusterIsland b)

def doIssueSlot (s : State) (b : Bench) : State :=
  if !presented s || benchHeld s b then s else
  let v := benchOf s b
  let ready := readyAt s b
  let con := earliest s (ready.filter (fun r => r.cls != .ash))
  let ash := (ready.filter (fun r => r.cls == .ash)).head?
  let device := deviceRuns s b || (floorStep s b).isSome
  let pick := pickSlot v.slot v.ashRun (con.bind (timeLeft s)) ash.isSome device v.running.isSome
  let s := setBench s b { v with slot := v.slot + 1 }
  match pick, con, ash with
  | .contracted, some r, _ => run (serve (countBench s b 0x017 (classQual r.cls)) r.id)
  | .ash, _, some r =>
    let s := countBench (modBench s b (fun v => { v with ashRun := v.ashRun + 1 })) b 0x018 0
    run (serve (if con.isSome then countBench s b 0x019 0 else s) r.id)   -- a contracted request gave the slot to it
  | .floorOp, _, _ => floorSlot s b
  | .haul, _, _ => (haulOp (modBench s b (fun v => { v with ashRun := 0 })) b false).1
  | _, _, _ => s

def execIssueSlot (b : Bench) (s : State) : Host.Outcome State Fault Refusal := act s (fun s => doIssueSlot s b)

-- ===== the opcodes: an issue slot of a bench that runs a step of that opcode (R174) =====

def opcodeOp (s : State) (b : Bench) (op : Byte) : State :=
  match runOf s b with
  | none => s
  | some r =>
    match jobOf s r.step.queue r.step.jobseq with
    | some x => if r.step.kind == .job && x.d.opcode == op then doIssueSlot s b else s
    | none => s

def execCopy (b : Bench) (s : State) : Host.Outcome State Fault Refusal := act s (fun s => opcodeOp s b opCopy)
def execFill (b : Bench) (s : State) : Host.Outcome State Fault Refusal := act s (fun s => opcodeOp s b opFill)
def execCheck (b : Bench) (s : State) : Host.Outcome State Fault Refusal := act s (fun s => opcodeOp s b opCheck)
def execFlush (b : Bench) (s : State) : Host.Outcome State Fault Refusal := act s (fun s => opcodeOp s b opFlush)
def execPrefetch (b : Bench) (s : State) : Host.Outcome State Fault Refusal := act s (fun s => opcodeOp s b opPrefetch)
def execAtomic (b : Bench) (s : State) : Host.Outcome State Fault Refusal := act s (fun s => opcodeOp s b opAtomic)
def execReserve (b : Bench) (s : State) : Host.Outcome State Fault Refusal := act s (fun s => opcodeOp s b opReserve)
def execCondstore (b : Bench) (s : State) : Host.Outcome State Fault Refusal := act s (fun s => opcodeOp s b opCondstore)
def execMigrate (b : Bench) (s : State) : Host.Outcome State Fault Refusal := act s (fun s => opcodeOp s b opMigrate)

-- ===== stealing (R183 to R186) =====

/-- The bench of a cluster with the longest deque of at least 2 steps, on a tie the lowest. -/
def longest (s : State) (c : Nat) : Option Bench :=
  (List.range 16).foldl (fun (o : Option Bench) i =>
    let b : Bench := BitVec.ofNat 8 (c * 16 + i)
    let n := (benchOf s b).deque.length
    let m := match o with
      | some x => (benchOf s x).deque.length
      | none => 1
    if m < n then some b else o) none

/-- The tail step of bench `v` leaves for bench `b`, with its charge (R184). -/
def stealFrom (s : State) (b v : Bench) (far : Bool) : State :=
  match (benchOf s v).deque.getLast? with
  | none => s
  | some t =>
    let s := modBench s v (fun x => { x with deque := x.deque.dropLast })
    let s := creditK s v t.estimate.toNat
    let s := countBench s b (if far then 0x020 else 0x01F) 0
    modBench s b (fun x => { x with incoming := x.incoming ++ [(t, far)], retryAt := none })

/-- The cluster goes before those whose published count is smaller. -/
def insertCluster (s : State) (d : Nat) : List Nat → List Nat
  | [] => [d]
  | e :: t => if tget 0 s.job.published e < tget 0 s.job.published d then d :: e :: t else e :: insertCluster s d t

/-- The clusters that a thief of cluster `c` prefers, best first: those of its quadrant, by published count, on a tie the lowest
number (R186). -/
def sourceOrder (s : State) (c least : Nat) : List Nat :=
  let ok := (List.range 16).filter (fun d => d != c && least ≤ tget 0 s.job.published d)
  let order := fun (l : List Nat) => l.foldl (fun t d => insertCluster s d t) []
  order (ok.filter (fun d => d / 4 == c / 4)) ++ order (ok.filter (fun d => d / 4 != c / 4))

/-- Steals across clusters from those whose published count is at least `least`. -/
def stealFar (s : State) (b : Bench) (least : Nat) : State × Bool :=
  match (sourceOrder s (b.toNat / 16) least).findSome? (longest s) with
  | some v => (stealFrom s b v true, true)
  | none => (s, false)

/-- An idle bench steals one step at a time: not while a record is on its way to it (R183, R186; log entry 109). -/
def doSteal (s : State) (b : Bench) : State :=
  if !presented s || !idleBench s b || !(benchOf s b).incoming.isEmpty then s else
  let c := b.toNat / 16
  match longest s c with
  | some v => noteDrained (stealFrom s b v false)
  | none =>
    match (if s.job.stealing.contains c then stealFar s b 16 else (s, false)) with
    | (s, true) => noteDrained s
    | (s, false) => modBench s b (fun v => { v with retryAt := some (s.now + 50) })

def execStealRequest (b : Bench) (s : State) : Host.Outcome State Fault Refusal := act s (fun s => doSteal s b)

/-- 50 ns after a request that found nothing the thief looks again. -/
def doStealRetry (s : State) (b : Bench) : State :=
  match (benchOf s b).retryAt with
  | some t => if s.now < t then s else doSteal (modBench s b (fun v => { v with retryAt := none })) b
  | none => s

def execStealRetry (b : Bench) (s : State) : Host.Outcome State Fault Refusal := act s (fun s => doStealRetry s b)

/-- The record arrives: a step of an earlier epoch is discarded, another is charged and queued, when the deque has room (R178,
R184, R189). -/
def doStealArrive (s : State) (b : Bench) : State :=
  match (benchOf s b).incoming with
  | [] => s
  | (t, far) :: rest =>
    let full := !hasRoom s b t.kind
    if stale s t then setLive (modBench s b (fun v => { v with incoming := rest })) t (fun x => { x with open_ := x.open_ - 1 })
    else if full then s else
    let s := modBench s b (fun v => { v with incoming := rest })
    let s := creditK s b (-(t.estimate.toNat : Int))
    let s := modBench s b (fun v => if far then { v with stolenX := v.stolenX + 1 } else { v with stolen := v.stolen + 1 })
    noteDrained (pushStep s b t false)

def execStealRecordArrival (b : Bench) (s : State) : Host.Outcome State Fault Refusal := act s (fun s => doStealArrive s b)

def clusterCount (s : State) (c : Nat) : Nat :=
  sumNat ((s.cache.bench.filter (fun p => p.1 / 16 == c)).map (fun p => p.2.deque.length))

/-- Every cluster publishes its count (R185). -/
def doPublish (s : State) : State :=
  let p : Tab Nat := (List.range 16).foldl (fun t c => tput 0 t c (clusterCount s c)) []
  let loaded := p.any (fun e => s.cache.loadThreshold.toNat ≤ e.2)
  noteDrained { s with job := { s.job with
    published := p
    loadedSince := if loaded then (match s.job.loadedSince with
      | some t => some t
      | none => some s.now) else none } }

def execCountPublish (s : State) : Host.Outcome State Fault Refusal := act s doPublish

/-- Stealing by a cluster matures: it has been drained, and some cluster loaded, for the imbalance time (R186). -/
def doMature (s : State) (c : Cluster) : State :=
  let n := c.toNat
  let imb := s.cache.imbalance.toNat
  let drained : Time := tget 0 s.job.drainedSince n
  match s.job.loadedSince with
  | none => s
  | some t =>
    if s.job.stealing.contains n || drained == BitVec.allOnes 64 || since s drained < imb || since s t < imb || !presented s then s
    else
      let s := { s with job := { s.job with stealing := s.job.stealing ++ [n] } }
      noteDrained ((List.range 16).foldl (fun s i =>
        let b : Bench := BitVec.ofNat 8 (n * 16 + i)
        if idleBench s b && (benchOf s b).incoming.isEmpty then (stealFar s b s.cache.loadThreshold.toNat).1 else s) s)

def execStealMature (c : Cluster) (s : State) : Host.Outcome State Fault Refusal := act s (fun s => doMature s c)

-- ===== purges (R189, R213) =====

/-- Removes a queue's steps that satisfy `p` from a bench; their estimates go back to its K, their ranges stay undone. A
running one ends without a continuation. -/
def purgeBench (s : State) (b : Bench) (p : StepRec → Bool) : State :=
  let v := benchOf s b
  let p' := fun (t : StepRec) => t.kind == .job && p t
  let gone := v.deque.filter p'
  let waits := v.pending.filter p'
  if gone.isEmpty && waits.isEmpty && !(v.running.any (fun r => p' r.step)) then s else
  let s := setBench s b { v with
    deque := v.deque.filter (fun t => !p' t), pending := v.pending.filter (fun t => !p' t),
    running := v.running.map (fun r => if p' r.step then { r with stop := true } else r) }
  let s := creditK s b (sumNat (gone.map (fun t => t.estimate.toNat)))
  (gone ++ waits).foldl (fun s t => setLive s t (fun x => { x with
    open_ := x.open_ - 1, undone := x.undone ++ [(t.cursor.toNat, stepEnd t)] })) s

/-- Continuations at the job front end that satisfy `p` are discarded; they hold no charge (R177, R189). -/
def purgeConts (s : State) (p : StepRec → Bool) : State :=
  let gone := (s.job.conts.map (·.2)).filter p
  gone.foldl (fun s t => setLive s t (fun x => { x with
      open_ := x.open_ - 1, undone := x.undone ++ [(t.cursor.toNat, stepEnd t)] }))
    { s with job := { s.job with conts := s.job.conts.filter (fun c => !p c.2) } }

/-- Steals in transit are purged as they arrive; those of an ended job are taken back here. -/
def purgeAll (s : State) (p : StepRec → Bool) : State :=
  let s := purgeConts s p
  (s.cache.bench.map (fun e => (BitVec.ofNat 8 e.1 : Bench))).foldl (fun s b =>
    let gone := ((benchOf s b).incoming.map (·.1)).filter (fun t => t.kind == .job && p t)
    let s := modBench s b (fun v => { v with incoming := v.incoming.filter (fun t => !(t.1.kind == .job && p t.1)) })
    let s := gone.foldl (fun s t => setLive s t (fun x => { x with
      open_ := x.open_ - 1, undone := x.undone ++ [(t.cursor.toNat, stepEnd t)] })) s
    purgeBench s b p) s

/-- A bench receives the purge of a queue and its new epoch. -/
def doPurge (s : State) (b : Bench) (q : QueueId) (epoch : Byte) : State :=
  if (queueOf s q).epoch != epoch then s
  else noteDrained (purgeBench s b (fun t => t.queue == q && t.epoch != epoch))

def execQueuePurge (b : Bench) (q : QueueId) (epoch : Byte) (s : State) : Host.Outcome State Fault Refusal :=
  act s (fun s => doPurge s b q epoch)

-- ===== the release of JOB steps (R187, R206, R216) =====

/-- The job makes loads: FILL and CONDSTORE make none. -/
def hasLoads (d : Desc) : Bool := d.opcode != opFill && d.opcode != opCondstore && jobTotal d != 0

/-- Every load of the job has returned its value: its steps have been released, and each of them has issued its last load and has
none out; a step that is cut leaves its loads to its continuation (R216). -/
def loadsDone (s : State) (x : Job) : Bool :=
  !hasLoads x.d ||
  (jobTotal x.d ≤ x.cut &&
   (stepsOf x (allSteps s)).all (fun t =>
     s.cache.bench.any (fun p => p.2.running.any (fun r => r.step == t && stepEnd t ≤ r.next && r.loads.isEmpty))))

/-- The job neither waits nor runs. -/
def jobDrained (x : Job) : Bool :=
  x.open_ == 0 && (jobTotal x.d ≤ x.cut || x.aborted || x.timedOut || x.reset || x.bad || x.finished)

/-- Jobs of the queue fetched before `x`. -/
def earlier (s : State) (x : Job) : List Job := (s.job.jobs.filter (fun y => y.q == x.q)).takeWhile (fun y => y.j != x.j)

/-- The condition of a FENCE holds (R216); a NOP is not waited for. -/
def fenceHolds (s : State) (x : Job) : Bool :=
  (earlier s x).all (fun y => y.d.opcode == opNop || y.bad || (if x.d.subop.getLsbD 1 then jobDrained y else loadsDone s y || jobDrained y))

/-- An earlier FENCE still holds the job's steps. -/
def fenced (s : State) (x : Job) : Bool :=
  (earlier s x).any (fun y => y.d.opcode == opFence && !y.bad && !y.finished && !y.aborted && !y.timedOut && !y.reset)

/-- The job has a step to release. -/
def jobReady (s : State) (x : Job) : Bool :=
  x.cut < jobTotal x.d && !x.bad && !x.aborted && !x.timedOut && !x.reset && !fenced s x &&
  !(x.d.opcode == opCheck && x.open_ != 0)

/-- Steps of a queue released and not completed. -/
def queueOpen (s : State) (q : QueueId) : Nat := sumNat ((s.job.jobs.filter (fun x => x.q == q)).map (·.open_))

/-- The next step of a job. -/
def nextStep (s : State) (x : Job) : StepRec :=
  let n := min 65536 (jobTotal x.d - x.cut)
  { kind := .job, owner := 0, queue := x.q, epoch := (queueOf s x.q).epoch, jobseq := x.j, cursor := BitVec.ofNat 64 x.cut,
    remain := BitVec.ofNat 32 n, estimate := BitVec.ofNat 12 (jobEstimate x.d x.cut n), checkval := x.value, status := noFail }

/-- The owner of a JOB step (R179): none where the rotation decides. -/
def jobOwner (s : State) (x : Job) : Option Bench :=
  match homeOf s (BitVec.ofNat 48 (x.d.a.toNat + (if jobTotal x.d = 1 then 0 else x.cut))) with
  | some (d, dla) => if d = devId s then some (benchOfDla dla) else none
  | none => none

/-- Queues in round-robin order from `from_`, those that have jobs. -/
def queueOrder (s : State) (from_ : Nat) : List QueueId :=
  let qs := (List.range s.job.queues.length).filterMap (fun i => (s.job.queues[i]?).map (·.1))
  ((qs.filter (fun q => from_ ≤ q)) ++ qs.filter (fun q => q < from_)).map (BitVec.ofNat 13 ·)

/-- A queue's next new step goes to its owner (R179, R187): none, or the owner refuses it. -/
def releaseNew (s : State) (q : QueueId) : State × Bool :=
  if s.cache.releaseCap.toNat ≤ queueOpen s q then (s, false) else
  match s.job.jobs.find? (fun x => x.q == q && jobReady s x) with
  | none => (s, false)
  | some x =>
    let owner := (jobOwner s x).getD s.job.rotation
    let t := { nextStep s x with owner := owner }
    match grant s owner t with
    | (s, false) => (s, false)
    | (s, true) =>
      let s := countDev s 0x103 (x.d.opcode.toNat + 1)
      let s := if (jobOwner s x).isNone then { s with job := { s.job with rotation := s.job.rotation + 1 } } else s
      (modJob s q x.j (fun x => { x with cut := x.cut + t.remain.toNat, open_ := x.open_ + 1 }), true)

/-- A queue releases its oldest continuation to the bench it was cut on, else its next new step. -/
def releaseOf (s : State) (q : QueueId) : State × Bool :=
  match takeFirst (fun c => c.2.queue == q) s.job.conts with
  | some (c, rest) =>
    (match grant s c.1 c.2 with
     | (s, true) => ({ s with job := { s.job with conts := rest } }, true)
     | (s, false) => (s, false))
  | none => releaseNew s q

/-- The haul weight of a queue, default 4 (R187, Table 15-9). -/
def weightOf (s : State) (q : QueueId) : Nat := (tget (4 : BitVec 5) s.job.weights q.toNat).toNat

/-- The queue has a step ready to be released. -/
def queueReady (s : State) (q : QueueId) : Bool :=
  s.job.conts.any (fun c => c.2.queue == q) ||
  (queueOpen s q < s.cache.releaseCap.toNat && s.job.jobs.any (fun x => x.q == q && jobReady s x))

/-- One pass of the round over queues `l`: the first that may still release in the round and can. A queue with a ready step that
is passed over keeps its place: the next release starts at the first such queue (R187). -/
def releasePass (s : State) : List QueueId → Option QueueId → State × Bool
  | [], _ => (s, false)
  | q :: t, kept =>
    let n := tget 0 s.job.rrRound q.toNat
    if weightOf s q ≤ n || !queueReady s q then releasePass s t kept
    else match releaseOf s q with
      | (s, true) =>
        ({ s with job := { s.job with rrStep := kept.getD q, rrRound := tput 0 s.job.rrRound q.toNat (n + 1) } }, true)
      | (s, false) => releasePass s t (some (kept.getD q))

/-- One release by weighted round robin: in each round a queue may release as many steps as its weight; when no queue can go on
in the round, the next one begins after the queue of the last release (R187). -/
def doStepRelease (s : State) : State :=
  if !presented s then s else
  match releasePass s (queueOrder s s.job.rrStep.toNat) none with
  | (s, true) => noteDrained s
  | (_, false) =>
    noteDrained (releasePass { s with job := { s.job with rrRound := [] } } (queueOrder s (s.job.rrStep.toNat + 1)) none).1

def execJobStepRelease (s : State) : Host.Outcome State Fault Refusal := act s doStepRelease

end Sys2Proof.Machine
end

