-- ==== Sys2Proof/Machine/Jobs.lean ====
section
/-!
DEFINITION. The job front end: queues, doorbells, descriptor fetches, completion records, aborts and resets of queues, and the
check-value engines' faults (07, R243).
-/

namespace Sys2Proof.Machine

-- ===== ring pointers (R197, R227) =====

def sqSize (v : QueueS) : Nat := 2 ^ v.ctx.sqLog.toNat
def cqSize (v : QueueS) : Nat := 2 ^ v.ctx.cqLog.toNat

/-- Both copies of every pointer agree. -/
def ptrsOk (v : QueueS) : Bool :=
  v.sqHead == v.sqHead2 && v.sqTail == v.sqTail2 && v.cqHead == v.cqHead2 && v.cqTail == v.cqTail2
def cqOk (v : QueueS) : Bool := v.cqHead == v.cqHead2 && v.cqTail == v.cqTail2

def setSqHead (v : QueueS) (n : Nat) : QueueS := { v with sqHead := BitVec.ofNat 16 n, sqHead2 := BitVec.ofNat 16 n }
def setSqTail (v : QueueS) (n : Nat) : QueueS := { v with sqTail := BitVec.ofNat 16 n, sqTail2 := BitVec.ofNat 16 n }
def setCqHead (v : QueueS) (n : Nat) : QueueS := { v with cqHead := BitVec.ofNat 16 n, cqHead2 := BitVec.ofNat 16 n }
def setCqTail (v : QueueS) (n : Nat) : QueueS := { v with cqTail := BitVec.ofNat 16 n, cqTail2 := BitVec.ofNat 16 n }

/-- Descriptors available for fetch. -/
def sqAvail (v : QueueS) (tail : Nat) : Nat := (tail + sqSize v - v.sqHead.toNat % sqSize v) % sqSize v

/-- Completion slots that hold a record not yet read, and those still free of a reservation. -/
def cqUsed (v : QueueS) (head : Nat) : Nat := (v.cqTail.toNat + cqSize v - head % cqSize v) % cqSize v
def cqFree (v : QueueS) : Bool := cqUsed v v.cqHead.toNat + v.reserved < cqSize v - 1

-- ===== creating a queue (R193) =====

/-- Every field is valid under Table 7-1, and each ring ends below 2^48. -/
def ctxOk (r : QueueRec) : Bool :=
  4 ≤ r.sqLog.toNat && r.sqLog.toNat ≤ 16 && 4 ≤ r.cqLog.toNat && r.cqLog.toNat ≤ 16 &&
  1 ≤ r.maxJobs.toNat && r.maxJobs.toNat ≤ 64 &&
  r.sqBase.toNat * 4096 + 64 * 2 ^ r.sqLog.toNat ≤ 2 ^ 48 && r.cqBase.toNat * 4096 + 64 * 2 ^ r.cqLog.toNat ≤ 2 ^ 48

/-- The lowest-numbered free queue. -/
def freeQueue (s : State) : Option Nat := (List.range 8192).find? (fun q => (queueOf s (BitVec.ofNat 13 q)).state == .free)

/-- R193; `sup` says whether the accessor's class permits supervisor queues: class S does (R447). -/
def queueCreateOp (s : State) (sup : Bool) (r : QueueRec) : Ans :=
  if !ctxOk r then (s, .range, 0)
  else if !hostUp s r.link then (s, .range, 0)
  else if r.priv && !sup then (s, .access, 0)
  else match freeQueue s with
    | none => (s, .full, 0)
    | some q =>
      let v := queueOf s (BitVec.ofNat 13 q)
      (setQueue s (BitVec.ofNat 13 q) { QueueS.init with ctx := r, state := .active, epoch := v.epoch, done := v.done }, .ok, q)

def queueGate : Gate := { plainGate with attr := aSC }

def execQueueCreate (acc : Accessor) (ctr : QueueRec) (s : State) : Host.Outcome State Fault Refusal :=
  act s (fun s => front s acc queueGate noNote (fun s => queueCreateOp s (supClass acc) ctr))
where
  supClass (acc : Accessor) : Bool := classOfAcc acc == .s

-- ===== purges and resets (R189, R227 to R229) =====

/-- Starts the reset of a queue (R228 steps 1 and 2): the purges are on their way to the benches; the job front end purges at
once. -/
def startReset (s : State) (q : QueueId) (why : Nat) (destroy : Bool) : State :=
  let s := modQueue s q (fun v => { v with
    state := .stopped, why := BitVec.ofNat 3 why, epoch := v.epoch + 1, resetting := true, destroying := destroy, chain := none,
    lost := 0 })
  let s := { s with job := { s.job with
    jobs := mapIf (fun x => x.q == q && !x.recording) (fun x => { x with reset := true }) s.job.jobs } }
  purgeConts s (fun t => t.queue == q)

/-- Every use of a pointer compares its copies; a mismatch resets the queue (R227). -/
def ptrCheck (s : State) (q : QueueId) : State × Bool :=
  if ptrsOk (queueOf s q) then (s, true)
  else (if (queueOf s q).resetting then s else startReset s q 2 false, false)

-- ===== doorbells (R194, R197, R198) =====

def ignoreBell (s : State) : State := { s with job := { s.job with ignored := s.job.ignored + 1 } }
def inertBell (s : State) : State := { s with job := { s.job with inert := s.job.inert + 1 } }

/-- A write that breaks a rule of R198; the value errors raise E-0x281. -/
def badBell (s : State) (q : QueueId) (reg value : Nat) : State :=
  raise (ignoreBell s) 0x281 167 [(2, q.toNat), (2, reg), (4, value)]

/-- The page of a queue in another host link's BAR2 is inert; a free queue has no link (R194). -/
def inertPage (s : State) (l : HLink) (q : QueueId) : Bool := (queueOf s q).state != .free && (queueOf s q).ctx.link != l

def doSqTail (s : State) (l : HLink) (q : QueueId) (value : BitVec 32) : State :=
  if inertPage s l q then inertBell s
  else if (queueOf s q).state != .active then ignoreBell s
  else match ptrCheck s q with
    | (s, false) => ignoreBell s
    | (s, true) =>
      let v := queueOf s q
      let t := value.toNat % 65536
      if sqSize v ≤ t || sqAvail v t < sqAvail v v.sqTail.toNat then badBell s q 0 value.toNat
      else setQueue s q (setSqTail v t)

def doCqHead (s : State) (l : HLink) (q : QueueId) (value : BitVec 32) : State :=
  if inertPage s l q then inertBell s
  else if (queueOf s q).state != .active then ignoreBell s
  else match ptrCheck s q with
    | (s, false) => ignoreBell s
    | (s, true) =>
      let v := queueOf s q
      let h := value.toNat % 65536
      -- the slots freed lie between the old head and the new one, and none beyond the tail
      if cqSize v ≤ h || cqUsed v v.cqHead.toNat < (h + cqSize v - v.cqHead.toNat % cqSize v) % cqSize v then
        badBell s q 4 value.toNat
      else setQueue s q (setCqHead v h)

def execSqTailWrite (link : HLink) (q : QueueId) (value : BitVec 32) (s : State) : Host.Outcome State Fault Refusal :=
  act s (fun s => doSqTail s link q value)
def execCqHeadWrite (link : HLink) (q : QueueId) (value : BitVec 32) (s : State) : Host.Outcome State Fault Refusal :=
  act s (fun s => doCqHead s link q value)
def execInertDoorbellWrite (link : HLink) (q : QueueId) (s : State) : Host.Outcome State Fault Refusal :=
  act s (fun s => if inertPage s link q then inertBell s else s)

-- ===== descriptors (R203, R204) =====

def descOf (l : Line) : Desc :=
  let n := fun (off k : Nat) => (lineField l off k)
  { opcode := lineByte l 0, subop := lineByte l 1, flags := lineByte l 2, opx := lineByte l 3, tlimit := (n 4 2).setWidth 16,
    tag := n 8 8, a := n 16 8, b := n 24 8, len := n 32 8, v1 := n 40 8, v2 := n 48 8, next := n 56 8 }

def Desc.zero : Desc := ⟨0, 0, 0, 0, 0, 0, 0, 0, 0, 0, 0, 0⟩

/-- The SUBOP of an opcode is one that Table 7-6 lists. -/
def subopOk (d : Desc) : Bool :=
  let p := d.subop.toNat
  match d.opcode.toNat with
  | 3 => p < 32 && (p / 4) % 4 < 3
  | 4 => p < 2
  | 5 => p < 3
  | 6 => p < 8 && p % 4 < 3
  | 7 | 8 => p == 0 || p == 4
  | 9 => p < 4 && p != 0
  | 10 => p < 4
  | _ => p == 0

/-- Fields that must be 0 for the opcode (Table 7-6). -/
def zerosOk (d : Desc) : Bool :=
  match d.opcode.toNat with
  | 0 | 9 => d.a == 0 && d.b == 0 && d.len == 0 && d.v1 == 0 && d.v2 == 0
  | 1 | 10 => d.v1 == 0 && d.v2 == 0
  | 2 => d.b == 0 && d.v2 == 0
  | 3 => ((d.subop.toNat / 4) % 4 == 2 || d.b == 0) && (d.subop.getLsbD 4 || d.v2 == 0)
  | 4 | 5 => d.b == 0 && d.v1 == 0 && d.v2 == 0
  | 6 => d.b == 0 && d.len == 0 && (d.subop.toNat % 4 == 0 || d.v2 == 0)
  | 7 => d.b == 0 && d.len == 0 && d.v1 == 0 && d.v2 == 0
  | _ => d.b == 0 && d.len == 0 && d.v2 == 0

/-- OPX (Table 7-6, R204). -/
def opxOk (d : Desc) : Bool :=
  if d.opcode = opCheck && (d.subop.toNat / 4) % 4 == 1 then 12 ≤ d.opx.toNat && d.opx.toNat ≤ 20 else d.opx == 0

/-- R204; `line` gives the reserved bytes 6 and 7. -/
def badDesc (d : Desc) (line : Line) : Bool :=
  let op := d.opcode.toNat
  let len := d.len.toNat
  let sized := op == 6 || op == 7 || op == 8
  let ranged := op == 1 || op == 2 || op == 3 || op == 4 || op == 5 || op == 10
  let chain := d.flags.getLsbD 2
  10 < op || 8 ≤ d.flags.toNat || lineField line 6 2 != 0 || !subopOk d || !zerosOk d || !opxOk d ||
  2 ^ 48 ≤ d.a.toNat || ((op == 1 || op == 10) && 2 ^ 48 ≤ d.b.toNat) || 2 ^ 48 ≤ d.next.toNat ||
  (ranged && (len == 0 || 2 ^ 48 < d.a.toNat + len)) || (isCopy d && 2 ^ 48 < d.b.toNat + len) ||
  (isCopy d && d.a.toNat < d.b.toNat + len && d.b.toNat < d.a.toNat + len) ||
  (sized && d.a.toNat % opSize d != 0) ||
  (sized && opSize d == 4 && (2 ^ 32 ≤ d.v1.toNat || 2 ^ 32 ≤ d.v2.toNat)) ||
  (if chain then d.next.toNat % 64 != 0 else d.next != 0)

-- ===== fetching (R199 to R202) =====

/-- Job slots that are taken: by the jobs, and by the fetches in flight (R199). -/
def slotsTaken (s : State) : Nat := s.job.jobs.length + (s.job.queues.filter (fun e => e.2.fetching.isSome)).length

/-- The queue may have another descriptor fetched. -/
def mayFetch (s : State) (q : QueueId) : Bool :=
  let v := queueOf s q
  v.state == .active && v.fetching.isNone && (v.chain.isSome || v.sqHead != v.sqTail) &&
  (s.job.jobs.filter (fun x => x.q == q && !x.recording)).length < v.ctx.maxJobs.toNat &&
  slotsTaken s < 16384 && cqFree v

/-- A job as it enters its slot (R199, R207). -/
def mkJob (s : State) (q : QueueId) (d : Desc) (chained bad : Bool) : Job :=
  let v := queueOf s q
  let t := d.tlimit.toNat
  { q := q, j := v.jobseq, d := d, chained := chained, chainCount := 0, tstart := s.now,
    limit := if t = 0xFFFF then none else if t = 0 then (if v.ctx.tlimit = 0 then none else some v.ctx.tlimit.toNat) else some t,
    cut := 0, open_ := 0, steps := 0, undone := [], failed := [], stored := [], refused := [], value := if d.opcode = opCheck then foldedValue d else 0,
    result := 0, bad := bad, timedOut := false, aborted := false, reset := false, resLost := false, finished := false, homes := [],
    recording := false }

/-- The next JOBSEQ goes to a job. -/
def addJob (s : State) (x : Job) : State :=
  let s := modQueue s x.q (fun v => { v with jobseq := v.jobseq + 1 })
  { s with job := { s.job with jobs := s.job.jobs ++ [x] } }

/-- Fetches for a queue: the line at SQ_HEAD, or the chained descriptor; in place of a 257th one a record (R201). -/
def fetchFor (s : State) (q : QueueId) : State :=
  match ptrCheck s q with
  | (s, false) => s
  | (s, true) =>
    let v := queueOf s q
    match v.chain with
    | some (_, 257) =>
      let s := setQueue s q { v with chain := none, reserved := v.reserved + 1 }
      addJob s { mkJob s q Desc.zero true true with chainCount := 257, tstart := 0 }
    | c =>
      let (sa, chained, n) : SA × Bool × Nat := match c with
        | some (a, n) => (a.setWidth 48, true, n)
        | none => (BitVec.ofNat 48 (v.ctx.sqBase.toNat * 4096 + (v.sqHead.toNat % sqSize v) * 64), false, 0)
      let s := setQueue s q { v with
        fetching := some (sa, chained, n), fetched := none, chain := none, reserved := v.reserved + 1 }
      let s := countDev s 0x101 0
      let kind : RqKind := if chained then (if v.ctx.priv then .chainSupervisor else .chainUser) else jobKind s q
      match ncIssue s .ncRead (.fetch q) kind sa 0 (BitVec.allOnes 64) false q v.epoch with
      | (s, none) => s
      | (s, some e) => modQueue s q (fun v => { v with fetched := some ⟨sa, 0, some e⟩ })

/-- The comparison of the pointers of every active queue that the front end considers for a fetch (R227). -/
def checkPointers (s : State) : State :=
  (s.job.queues.map (·.1)).foldl (fun s n =>
    let q : QueueId := BitVec.ofNat 13 n
    if (queueOf s q).state == .active then (ptrCheck s q).1 else s) s

/-- One fetch, in round robin over the queues that may have one (R199). -/
def doFetch (s : State) : State :=
  if !presented s then s else
  let s := checkPointers s
  match (queueOrder s s.job.rr.toNat).find? (mayFetch s) with
  | some q => fetchFor { s with job := { s.job with rr := q + 1 } } q
  | none => s

def execDescriptorFetch (s : State) : Host.Outcome State Fault Refusal := act s doFetch

-- ===== completion (R207 to R211, R239) =====

/-- The bytes that lie in some range: each range counts what no later range of the list has. -/
def covered : List (Nat × Nat) → Nat
  | [] => 0
  | (lo, hi) :: t => uncovered t lo hi + covered t

/-- The job has one home bench, one device and one expander (R211). -/
def spans (x : Job) : Bool := 2 ≤ x.homes.length

/-- The failure at the lowest offset. -/
def firstFail (x : Job) : Option (Nat × Nat × JStatus) :=
  x.failed.foldl (fun o f => match o with
    | some g => if f.1 < g.1 then some f else o
    | none => some f) none

/-- A CHECK with COMPARE = 1 has produced another value. -/
def mismatch (x : Job) : Bool :=
  x.d.opcode == opCheck && x.d.subop.getLsbD 4 && x.value != (x.d.v2 &&& polyMask (polyOf x.d))

/-- Table 7-8. -/
def jobStatus (x : Job) : JStatus :=
  if x.aborted then .aborted
  else if x.reset then .queueReset
  else if x.bad then .descriptorBad
  else if x.timedOut then .timeout
  else if x.resLost then .reservationLost
  else match firstFail x with
    | some f => if spans x then .partialFail else f.2.2
    | none => if mismatch x then .checkMismatch else .ok

/-- What was not done, as ranges of job offsets. -/
def undoneOf (x : Job) : List (Nat × Nat) :=
  let n := jobTotal x.d
  let one := n = 1 && x.d.len == 0
  if one then (if x.cut = 0 || !x.undone.isEmpty then [(0, opSize x.d)] else [])
  else x.undone ++ (if x.cut < n then [(x.cut, n)] else [])

/-- FAILOFF, FAILBYTES and RESULT (R207, R211, R213, R239). -/
def jobNumbers (x : Job) (st : JStatus) : Nat × Nat × Nat :=
  let fails := x.failed.map (fun f => (f.1, f.1 + f.2.1))
  let l := if st = .timeout || st = .aborted then fails ++ undoneOf x else fails
  let off := (minNat (l.map (·.1))).getD 0
  let bytes := covered l
  let res := if x.d.opcode = opCheck then
      (if st = .ok || st = .checkMismatch || ((st = .timeout || st = .aborted) && x.failed.isEmpty) then x.value.toNat else 0)
    else x.result.toNat
  if st = .descriptorBad then (0, 0, 0) else (off, bytes, res)

/-- Table 7-7; the record in place of a 257th chained descriptor has 0 in its other fields (R201). -/
def recordBytes (x : Job) (st : JStatus) (phase : Bool) (now : Time) : List Byte :=
  let (off, bytes, res) := jobNumbers x st
  let cause := if st = .partialFail || st = .timeout || st = .aborted then
      (match firstFail x with
       | some f => jstatusCode f.2.2
       | none => 0) else 0
  [BitVec.ofNat 8 (jstatusCode st), BitVec.ofNat 8 cause,
   BitVec.ofNat 8 ((if phase then 1 else 0) + (if x.chained then 2 else 0)), x.d.opcode] ++
  leBytes 2 x.j.toNat ++ leBytes 2 (min x.steps 0xFFFF) ++ leBytes 8 x.d.tag.toNat ++ leBytes 8 res ++ leBytes 8 off ++
  leBytes 8 bytes ++ leBytes 8 x.tstart.toNat ++ leBytes 8 (if x.chainCount = 257 then 0 else now.toNat) ++ leBytes 8 0

/-- In containment a record is written only before the answer deadline, to a home bench of this device (R214, R273). -/
def recordInStop (s : State) (q : QueueId) (j : JobSeq) (sa : SA) (data : Line) (ep : Byte) : State × Bool :=
  match homeOf s sa with
  | none => (s, false)
  | some (d, dla) =>
    match windowAt s dla with
    | some w =>
      if s.rel.cphase == .stop && d == devId s && rightsOk (winOf s w) (jobKind s q) .ncWrite then
        (arrive s (formReq s s.cache.nextReq .ncWrite (.record q j) (jobKind s q) 0 sa dla w .ash none s.now data
          (BitVec.allOnes 64) false q ep), true)
      else (s, false)
    | none => (s, false)

/-- A record of a queue's reset that is not written (R228). -/
def loseRecord (s : State) (q : QueueId) : State := modQueue s q (fun v => { v with lost := v.lost + 1 })

/-- Writes a job's record at CQ_TAIL, or ends the job without one (R202, R208, R209). `force`: also while the queue is
stopped because a record was refused, for a reset or a refused fetch. -/
def writeRecord (s : State) (x : Job) (st : JStatus) (force : Bool) : State :=
  let q := x.q
  let v := queueOf s q
  let s := modQueue s q (fun v => { v with done := tinc v.done (jstatusCode st), reserved := v.reserved - 1 })
  let s := countDev s 0x102 (x.d.opcode.toNat + 1)
  let v := { v with reserved := v.reserved - 1, done := tinc v.done (jstatusCode st) }
  if (st = .ok && x.d.flags.getLsbD 0) || (v.state == .stopped && v.why == 4 && !force) then recordDone s q x.j none
  else
    let sa : SA := BitVec.ofNat 48 (v.ctx.cqBase.toNat * 4096 + (v.cqTail.toNat % cqSize v) * 64)
    let data := bytesLine (recordBytes x st v.phase s.now)
    let t := (v.cqTail.toNat + 1) % cqSize v
    let s := setQueue s q (setCqTail { v with phase := if t = 0 then !v.phase else v.phase } t)
    let s := modJob s q x.j (fun x => { x with recording := true })
    if !presented s then
      (match recordInStop s q x.j sa data v.epoch with
       | (s, true) => s
       | (s, false) => recordDone (loseRecord s q) q x.j none)
    else match ncIssue s .ncWrite (.record q x.j) (jobKind s q) sa data (BitVec.allOnes 64) false q v.epoch with
      | (s, none) => s
      | (s, some e) => recordDone s q x.j (some e)

/-- A job has ended: its status is chosen and its record is written (R208, R210, R246). -/
def completeJob (s : State) (x : Job) : State :=
  let st := jobStatus x
  let s := if st = .checkMismatch then
      raiseFirst { s with job := { s.job with ckMismatch := s.job.ckMismatch + 1 } } 0x2C0 167
        [(2, x.q.toNat), (2, x.j.toNat), (8, x.d.a.toNat), (8, x.value.toNat), (8, x.d.v2.toNat)]
    else s
  match ptrCheck s x.q with
  | (s, true) => writeRecord s x st false
  | (s, false) => s

/-- The job has nothing left: its steps have ended, or it has none (R216, R218). -/
def jobOver (s : State) (x : Job) : Bool :=
  !x.recording && x.open_ == 0 && !(queueOf s x.q).resetting &&
  (x.bad || x.aborted || x.timedOut || x.finished || (0 < jobTotal x.d && jobTotal x.d ≤ x.cut))

def doJobComplete (s : State) (q : QueueId) (j : JobSeq) : State :=
  match jobOf s q j with
  | some x => if jobOver s x then completeJob s x else s
  | none => s

def execJobComplete (q : QueueId) (j : JobSeq) (s : State) : Host.Outcome State Fault Refusal :=
  act s (fun s => doJobComplete s q j)

/-- A fetch that returns while its queue does not run, or to one whose pointers disagree, is dropped (R227, R228). -/
def dropFetch (s : State) (q : QueueId) : State :=
  modQueue s q (fun v => { v with fetching := none, fetched := none, reserved := v.reserved - 1 })

/-- A fetch returns: the head advances, the job takes the next JOBSEQ, a bad descriptor is marked, a chain is noted; a refused
fetch writes its record and stops the queue; a line read as poison is a failed part (R199, R201, R202, R204). -/
def doFetchReturn (s : State) (q : QueueId) : State :=
  let (s, same) := ptrCheck s q
  let v := queueOf s q
  match v.fetching, v.fetched with
  | some (_, chained, n), some g =>
    if !same then dropFetch s q else
    let v := { v with fetching := none, fetched := none }
    let v := if chained then v else setSqHead v ((v.sqHead.toNat + 1) % sqSize v)
    let s := setQueue s q v
    if v.state != .active then setQueue s q { v with reserved := v.reserved - 1 } else
    (match g.bad with
     | some e =>
       let x := { mkJob s q Desc.zero chained false with finished := true, failed := [(0, 0, e)] }
       let s := addJob s x
       if e = .poisoned then s
       else
         let s := writeRecord s x (jobStatus x) true
         raise (modQueue s q (fun v => { v with state := .stopped, why := 3 })) 0x282 167 [(2, q.toNat)]
     | none =>
       let d := descOf g.data
       let bad := badDesc d g.data
       let s := addJob s (mkJob s q d chained bad)
       if d.flags.getLsbD 2 && !bad then modQueue s q (fun v => { v with chain := some (d.next, if chained then n + 1 else 1) }) else s)
  | _, _ => s

def execDescriptorFetchReturn (q : QueueId) (s : State) : Host.Outcome State Fault Refusal :=
  act s (fun s => doFetchReturn s q)

-- ===== jobs without accesses (R205, R216) =====

/-- A NOP completes at the front end. -/
def doNop (s : State) (q : QueueId) (j : JobSeq) : State :=
  modJob s q j (fun x => if x.d.opcode == opNop && !x.bad then { x with finished := true } else x)

def execNop (q : QueueId) (j : JobSeq) (s : State) : Host.Outcome State Fault Refusal := act s (fun s => doNop s q j)

/-- A FENCE takes its place: from its fetch on, its queue's later jobs release no step (see `fenced`); it is armed. -/
def doFence (s : State) (q : QueueId) (j : JobSeq) : State :=
  modJob s q j (fun x => if x.d.opcode == opFence && !x.bad then { x with cut := 1 } else x)

def execFence (q : QueueId) (j : JobSeq) (s : State) : Host.Outcome State Fault Refusal := act s (fun s => doFence s q j)

/-- The condition of the FENCE holds: later jobs are released. -/
def doFenceComplete (s : State) (q : QueueId) (j : JobSeq) : State :=
  match jobOf s q j with
  | some x =>
    if x.d.opcode == opFence && x.cut == 1 && fenceHolds s x then modJob s q j (fun x => { x with finished := true }) else s
  | none => s

def execFenceComplete (q : QueueId) (j : JobSeq) (s : State) : Host.Outcome State Fault Refusal :=
  act s (fun s => doFenceComplete s q j)

/-- A release of MIGRATE reaches a source line's home bench: the sector is cleared if its block is an orphan (R226). -/
def doMigrateRelease (s : State) (sa : SA) : State :=
  match homeOf s sa with
  | some (d, dla) =>
    if d != devId s then s else
    (match wayOfDla s dla with
     | none => s
     | some w =>
       let k := tagKey (benchOfDla dla) (lsOfDla dla) w
       if (tagAt s k).state != .orphan then s else freeOrphanSector s k (secOfDla dla))
  | none => s
where
  freeOrphanSector (s : State) (k sec : Nat) : State :=
    let t := tagAt s k
    let m : BitVec 64 := bit sec
    let d := t.dirty &&& ~~~m
    if d = 0 then dropBlock s k .invalid else tagPut s k { t with valid := t.valid &&& ~~~m, dirty := d }

def execMigrateReleaseLine (sa : SA) (s : State) : Host.Outcome State Fault Refusal := act s (fun s => doMigrateRelease s sa)

-- ===== time limits and aborts (R213, R214) =====

def mineStep (q : QueueId) (j : JobSeq) (t : StepRec) : Bool := t.queue == q && t.jobseq == j

def doJobTimeout (s : State) (q : QueueId) (j : JobSeq) : State :=
  match jobOf s q j with
  | some x =>
    (match x.limit with
     | some n =>
       if since s x.tstart < n * 1000000 || x.recording || x.timedOut || x.reset || jobOver s x then s
       else noteDrained (purgeAll (modJob s q j (fun x => { x with timedOut := true })) (mineStep q j))
     | none => s)
  | none => s

def execJobTimeout (q : QueueId) (j : JobSeq) (s : State) : Host.Outcome State Fault Refusal :=
  act s (fun s => doJobTimeout s q j)

def jobAbortOp (s : State) (q : QueueId) (j : JobSeq) : Ans :=
  match jobOf s q j with
  | some x =>
    if x.recording then (s, .range, 0)
    else (noteDrained (purgeAll (modJob s q j (fun x => { x with aborted := true })) (mineStep q j)), .ok, 0)
  | none => (s, .range, 0)

def execJobAbort (acc : Accessor) (q : QueueId) (j : JobSeq) (s : State) : Host.Outcome State Fault Refusal :=
  act s (fun s => front s acc queueGate noNote (fun s => jobAbortOp s q j))

-- ===== reset, restart and destruction (R228, R229) =====

def queueResetOp (s : State) (q : Nat) (destroy : Bool) : Ans :=
  if 8192 ≤ q then (s, .range, 0) else
  let v := queueOf s (BitVec.ofNat 13 q)
  if v.state == .free then (s, .range, 0)
  else if v.resetting then (s, .quiesceRequired, 0)
  else (startReset s (BitVec.ofNat 13 q) 1 destroy, .ok, 0)

def execQueueReset (acc : Accessor) (q : QueueId) (s : State) : Host.Outcome State Fault Refusal :=
  act s (fun s => front s acc queueGate noNote (fun s => queueResetOp s q.toNat false))
def execQueueDestroy (acc : Accessor) (q : QueueId) (s : State) : Host.Outcome State Fault Refusal :=
  act s (fun s => front s acc queueGate noNote (fun s => queueResetOp s q.toNat true))

/-- The queue's steps have all ended, no purge is still to reach a bench, and no fetch is in flight. -/
def resetReady (s : State) (q : QueueId) : Bool :=
  (queueOf s q).resetting && ((queueOf s q).fetching.isNone || (queueOf s q).fetched.isSome) &&
  !((allSteps s).any (fun t => t.kind == .job && t.queue == q))

/-- The reservations of a queue are lost (R223 cause 5). -/
def loseQueueResv (s : State) (q : QueueId) : State :=
  (s.cache.bench.map (·.1)).foldl (fun s b => clearResv s 5 (fun r => r.queue == q && r.dev == devId s) b) s

/-- A queue as its reset leaves it (R228): its pointers and phase as at creation, its context and state kept. -/
def zeroQueue (v : QueueS) : QueueS :=
  setSqHead (setSqTail (setCqHead (setCqTail { v with
    phase := true, jobseq := 0, reserved := 0, fetching := none, fetched := none, chain := none, resetting := false,
    destroying := false } 0) 0) 0) 0

/-- R228 steps 4 to 7, R229: the jobs end, the pointers are zeroed, E-0x280; while records are being performed the rest
waits. -/
def doResetComplete (s : State) (q : QueueId) : State :=
  if !resetReady s q then s else
  let v := queueOf s q
  let left := s.job.jobs.filter (fun x => x.q == q && !x.recording)
  let records : Bool := cqOk v && !v.destroying
  let s := left.foldl (fun s x =>
    if records then writeRecord s { x with reset := true } (jobStatus { x with reset := true }) true
    else
      let s := modQueue s q (fun v => { v with done := tinc v.done (jstatusCode (jobStatus { x with reset := true })) })
      recordDone (loseRecord s q) q x.j none) s
  if s.job.jobs.any (fun x => x.q == q) then s else
  let v := queueOf s q
  let s := loseQueueResv s q
  if v.destroying then setQueue s q { QueueS.init with epoch := v.epoch + 1, done := v.done }
  else raise (setQueue s q (zeroQueue v)) 0x280 167 [(2, q.toNat), (1, v.why.toNat), (2, v.lost)]

def execQueueResetComplete (q : QueueId) (s : State) : Host.Outcome State Fault Refusal :=
  act s (fun s => doResetComplete s q)

/-- A write of 1 to 0x40:0012; a queue stopped under R202 is restarted only after it has been reset. -/
def queueRestartOp (s : State) (q : QueueId) (value : Nat) : Ans :=
  let v := queueOf s q
  if value ≠ 1 ∧ value ≠ 0 then (s, .range, 0)
  else if value = 0 || v.state == .active then (s, .ok, 0)
  else if v.state == .free then (s, .range, 0)
  else if v.resetting || v.why == 3 || v.why == 4 then (s, .quiesceRequired, 0)
  else (setQueue s q { v with state := .active, why := 0 }, .ok, 0)

def execQueueRestart (acc : Accessor) (q : QueueId) (s : State) : Host.Outcome State Fault Refusal :=
  act s (fun s => front s acc queueGate noNote (fun s => queueRestartOp s q 1))

/-- R196 -/
def queueLimitOp (s : State) (q : QueueId) (tlimit : Bool) (value : BitVec 32) : Ans :=
  let v := queueOf s q
  if v.state == .free then (s, .range, 0)
  else if tlimit then (setQueue s q { v with ctx := { v.ctx with tlimit := value } }, .ok, 0)
  else if 1 ≤ value.toNat ∧ value.toNat ≤ 64 then
    (setQueue s q { v with ctx := { v.ctx with maxJobs := value.setWidth 7 } }, .ok, 0)
  else (s, .range, 0)

def execQueueLimitWrite (acc : Accessor) (q : QueueId) (tlimit : Bool) (value : BitVec 32) (s : State) :
    Host.Outcome State Fault Refusal :=
  act s (fun s => front s acc queueGate noNote (fun s => queueLimitOp s q tlimit value))

-- ===== check-value engines (R243) =====

/-- A parity mismatch: the engine stops consuming, and the step waits for its loads; with its end the engine leaves service (see
`endStep`). An engine that serves no step leaves service at once. -/
def doParity (s : State) (e : BitVec 5) : State :=
  let v := engineOf s e.toNat
  if !v.service then s else
  match v.busy with
  | some (b, _, _) => doStepEnd (modRun s b (fun r => { r with stop := true, parity := true })) b
  | none => engineOut s e.toNat 0 0

def execEngineParityFault (e : BitVec 5) (s : State) : Host.Outcome State Fault Refusal := act s (fun s => doParity s e)

def engineServiceOp (s : State) (e : Nat) (value : Nat) : Ans :=
  if 2 ≤ value then (s, .range, 0)
  else if value = 0 then (s, .ok, 0)
  else (setEngine s e { engineOf s e with service := true }, .ok, 0)

def execEngineReturnToService (acc : Accessor) (e : BitVec 5) (s : State) : Host.Outcome State Fault Refusal :=
  act s (fun s => front s acc plainGate noNote (fun s => engineServiceOp s e.toNat 1))

end Sys2Proof.Machine
end

