-- ==== Sys2Proof/Machine/Contain.lean ====
section
/-!
DEFINITION. Containment: its entry by command and by notice, the answer deadline, the write-back and its end (R272 to R275).
-/

namespace Sys2Proof.Machine

-- ===== entry =====

/-- R272 cause 0x07; any other value is RANGE. -/
def enterContainOp (s : State) (value : Nat) : Ans := if value = 7 then (contain s 7 164, .ok, 0) else (s, .range, 0)

def containGate : Gate := { guardGate with attr := aOC }

def execEnterContainment (acc : Accessor) (value : Byte) (s : State) : Host.Outcome State Fault Refusal :=
  act s (fun s => front s acc containGate noNote (fun s => enterContainOp s value.toNat))

/-- A containment notice from a device of the domain (R272 cause 0x05). -/
def doNotice (s : State) (src : DevId) : State :=
  if s.peer.members.getLsbD src.toNat && src != devId s then contain s 5 164 else s

def execContain (src : DevId) (s : State) : Host.Outcome State Fault Refusal := act s (fun s => doNotice (ctlIn s src) src)

-- ===== the answer deadline (R273 step 2) =====

/-- The answer of a request that cannot be served: poison for a read, its completion for another. -/
def giveUp (s : State) (r : Req) : State :=
  let wr := storing r.op || (match r.op with
    | .memInv _ | .memClnEvct | .condstore .. | .flushLine _ | .prefetchLine _ | .migrateRelease | .invalidateBlock _ => true
    | _ => false)
  answer s r (if isHost r then .cmp else .none) wr 0 (!wr) (if isHost r || wr then none else some .poisoned)

/-- A write is performed if its home can accept it; else it is discarded, completed and counted. -/
def deadlineWrite (s : State) (r : Req) : State :=
  match placeWrite s r r.data r.be r.poison with
  | (s', true) => giveUp (performed s' r (r.be == BitVec.allOnes 64) r.poison) r
  | (_, false) => giveUp { s with rel := { s.rel with resDiscarded := s.rel.resDiscarded + 1 } } r

/-- Requests of this device that wait at peers: host reads get poison, writes their completion, and are counted. -/
def deadlineTxn (s : State) (x : Txn) : State :=
  let s := { s with peer := { s.peer with txns := s.peer.txns.filter (fun y => y.tag != x.tag) } }
  match x.org with
  | .host l m t =>
    let s := if storing x.op then { s with rel := { s.rel with resDiscarded := s.rel.resDiscarded + 1 } } else s
    portAnswer s ⟨l, m, 0, t, false⟩ x.op x.sa
  | _ => s

/-- A dirty block's sectors can be written back in step 3: its window is enabled and its expander link is up. -/
def reachable (s : State) (k : Nat) : Bool :=
  (tagAt s k).state == .valid &&
  (match retainedAt s (dlaOfBlk (blkOfKey s k) 0) with
   | some (w, g) => (winOf s w).state == .enabled && xlUp s g.xl
   | none => false)

/-- Keys of the records with dirty sectors. -/
def dirtyKeys (s : State) : List Nat := (s.cache.tags.filter (fun p => p.2.dirty != 0)).map (·.1)

/-- A metadata codeword of the set decodes as neither data nor a correctable error. -/
def metaBad (s : State) (b : Bench) (ls : BitVec 15) : Bool :=
  (List.range 5).any (fun m => match decodeAs (m == 0) (cwOf s (physCw s (stackOf b).toNat (metaCw b ls m))) with
    | .clean | .corrected _ | .checkOnly _ => false
    | _ => true)

/-- A record of the set fails its check or reads inconsistent, or its set head or a sector map is uncorrectable (R273). -/
def badSet (s : State) (k : Nat) : Bool :=
  let t := k / 16
  (List.range 16).any (fun w =>
    let k := t * 16 + w
    2 ≤ popCount (tget 0 s.rel.tagErr k) || !TagRec.consistent (tagAt s k)) ||
  metaBad s (BitVec.ofNat 8 (t / 32768)) (BitVec.ofNat 15 t)

/-- Sets that are skipped: counted, and their records are not read again. -/
def skipSets (s : State) : State :=
  let sets := ((dirtyKeys s).filter (badSet s)).map (· / 16) |>.eraseDups
  { s with
    cache := { s.cache with tags := s.cache.tags.filter (fun p => !sets.contains (p.1 / 16)) }
    rel := { s.rel with resSkipped := s.rel.resSkipped + BitVec.ofNat 32 sets.length } }

def loseSectors (s : State) (n : Nat) : State := { s with rel := { s.rel with resLost := s.rel.resLost + BitVec.ofNat 32 n } }

/-- Puts dirty sectors of a bench into its eviction queue while they fit (R273 step 3). -/
def pumpBench (s : State) (b : Bench) : State :=
  ((dirtyKeys s).filter (fun k => benchOfKey k == b && reachable s k)).foldl (fun s k =>
    (cleanBlock s k).1) s

/-- The benches that have something to write back. -/
def pump (s : State) : State := (((dirtyKeys s).map benchOfKey).eraseDups).foldl pumpBench s

/-- The accesses of a running step have been answered, or are given up: the step ends where it stands; what a faulty engine has
computed is not kept (R190, R243). -/
def cutStep (s : State) (b : Bench) : State :=
  match runOf s b with
  | none => s
  | some r =>
    let r := { r with loads := [], stores := 0, stop := true }
    if r.parity then
      let s := match r.engine with
        | some e => setEngine s e.toNat { engineOf s e.toNat with value := r.step.checkval }
        | none => s
      endStep s b { r with parity := false, done := r.step.cursor.toNat, next := r.step.cursor.toNat }
    else endStep s b r

/-- The answer deadline passes: every request the device holds is answered, the back-invalidates are abandoned, the write
buffers start to drain and the write-back begins. -/
def passDeadline (s : State) : State :=
  let s := { s with snoop := { s.snoop with snoops := [], table := [], waiting := [] } }
  let held := s.cache.reqs.filter (fun r => r.phase != .egress)
  let s : State := held.foldl (fun s r => if storing r.op then deadlineWrite s r else giveUp s r) s
  let s : State := s.peer.txns.foldl deadlineTxn s
  let s := { s with region := { s.region with markReqs := [], releases := [] } }
  let s := { s with cache := { s.cache with setReads := [] } }
  let s := (s.cache.bench.map (fun (p : Nat × BenchS) => (BitVec.ofNat 8 p.1 : Bench))).foldl cutStep s
  let s := s.cache.bench.foldl (fun (s : State) (p : Nat × BenchS) =>
    p.2.wbuf.foldl (fun (s : State) (e : WEntry) => startDrain s (BitVec.ofNat 8 p.1) e.slot) s) s
  let s := skipSets s
  let s := loseSectors s (sumNat (((dirtyKeys s).filter (fun k => !reachable s k)).map (dirtyCount s)))
  pump { s with rel := { s.rel with cphase := .writeBack, wbStart := s.now } }

def doAnswerDeadline (s : State) : State :=
  if s.dev.stage != .containment || s.rel.cphase != .stop || since s s.rel.entered < 600 then s else passDeadline s

def execAnswerDeadline (s : State) : Host.Outcome State Fault Refusal := act s doAnswerDeadline

-- ===== the end of the write-back (R273 step 4) =====

/-- Table 13: the result of a containment, 16 bits each. -/
def resultOf (s : State) : List Nat :=
  [s.rel.resWritten, s.rel.resLost, s.rel.resSkipped, s.rel.resDiscarded].map (fun (n : BitVec 32) => min n.toNat 0xFFFF)

/-- Step 4: domain-fatal, viral on every host link, CONTAIN_RESULT and E-0x312; the hold begins (R275). -/
def declare (s : State) : State :=
  let l := resultOf s
  let s := emit s (.domFatal true)
  let s := (List.range 8).foldl (fun s n =>
    if hostUp s (BitVec.ofNat 3 n) then emit s (.viral (BitVec.ofNat 3 n)) else s) s
  let s := { s with rel := { s.rel with
    domFatal := true, cphase := .holding, holdEnd := s.now + BitVec.ofNat 64 (s.rel.hold.toNat * 1000000)
    result := BitVec.ofNat 64 (leNat (l.flatMap (leBytes 2)))
    dirtyShutdowns := if s.rel.resLost = 0 then s.rel.dirtyShutdowns else s.rel.dirtyShutdowns + 1 } }
  let s := logRec s { LogRec.init with type := 0x12, sev := 4, unit := 5, island := 164, flags := 16,
                                       detail := BitVec.ofNat 64 (leNat (l.flatMap (leBytes 2))) }
  raise s 0x312 164 (l.map (fun n => (2, n)))

/-- Nothing reachable is left to write: no dirty sector, no sector in an eviction queue, no draining entry. -/
def writtenBack (s : State) : Bool :=
  !((dirtyKeys s).any (reachable s)) && s.cache.bench.all (fun p => p.2.evq.isEmpty && p.2.wbuf.all (fun e => e.drain == .done))

def doWrittenBack (s : State) : State :=
  if s.dev.stage != .containment || s.rel.cphase != .writeBack then s else
  let s := pump s
  if writtenBack s then declare s else s

/-- The write-back limit has passed: what is left is lost. -/
def doWbLimit (s : State) : State :=
  if s.dev.stage != .containment || s.rel.cphase != .writeBack || since s s.rel.wbStart < s.rel.wbLimit.toNat * 1000000 then s else
  let left := sumNat (((dirtyKeys s).filter (reachable s)).map (dirtyCount s)) + sumNat (s.cache.bench.map (fun p => p.2.evq.length))
  declare (loseSectors s left)

end Sys2Proof.Machine
end

