-- ==== Sys2Proof/WellFormed.lean ====
section
/-!
DEFINITION. Which commands name a unit of the part, a form of a command, or a whole reading: those that do not have no
meaning and are refused.
-/

namespace Sys2Proof

/-- Islands 0 to 167 (Table 1-4). -/
def islandOk (i : Byte) : Bool := decide (i.toNat ≤ 167)
/-- Peer links PL0 to PL13 (Table 0-3). -/
def plinkOk (p : PLink) : Bool := decide (p.toNat ≤ 13)
/-- Write-buffer entries 0 to 31 and snoop write-back entries 32 to 47 (R80, R113). -/
def slotOk (n : BitVec 6) : Bool := decide (n.toNat ≤ 47)
/-- Three registers share a row (R52, R96). -/
def regOk (r : BitVec 2) : Bool := decide (r.toNat ≤ 2)
/-- Counters of a bench 0 to 7, of the device 0 to 15 (R467). -/
def counterOk (b : Option Bench) (n : BitVec 4) : Bool := b.isNone || decide (n.toNat ≤ 7)
/-- A sensor reading names all 44 sensors, a rail reading all eight rails (R377, R358). -/
def readingOk (l : List (BitVec 32)) : Bool := l.length == 44
def railsOk (v a : List (BitVec 16)) : Bool := v.length == 8 && a.length == 8

/-- Well-formed commands. -/
def Instr.wellFormed : Instr → Bool
  | .winGeometryWrite _ _ reg _ => regOk reg
  | .maintParamWrite _ reg _ => regOk reg
  | .wbufDrainTimeout _ slot => slotOk slot
  | .wbufDrainComplete _ slot => slotOk slot
  | .peerLinkDrained pl => plinkOk pl
  | .hello pl _ => plinkOk pl
  | .helloRepeat pl => plinkOk pl
  | .lsa pl _ _ _ => plinkOk pl
  | .syncreq pl _ _ _ => plinkOk pl
  | .syncrsp pl _ _ _ _ _ _ => plinkOk pl
  | .peerReq pl _ => plinkOk pl
  | .peerSnp pl _ => plinkOk pl
  | .peerRsp pl _ => plinkOk pl
  | .peerData pl _ => plinkOk pl
  | .peerLinkDown pl => plinkOk pl
  | .recon _ pl _ => plinkOk pl
  | .reconciliationTimeout pl => plinkOk pl
  | .railMonitor v a => railsOk v a
  | .pllLockLoss i => islandOk i
  | .sensorRead t => readingOk t
  | .eventRaise i => islandOk i
  | .selectorWrite _ b n _ => counterOk b n
  | .samplingCrossing b n => counterOk b n
  | _ => true

end Sys2Proof
end

