-- ==== Sys2Proof/Machine/Peer.lean ====
section
/-!
DEFINITION. The peer fabric: links and bundles, routes and detours, flits, link loss and its reconciliation, board formation,
board time and the split test (11).
-/

namespace Sys2Proof.Machine

-- ===== links and bundles (R325 to R327) =====

def plList : List Nat := List.range 14

/-- The lead port of a peer link. -/
def plPort (s : State) (l : Nat) : Option Nat := (leadsOf s .peer l).head?

def plUp (s : State) (l : Nat) : Bool :=
  match plPort s l with
  | some p => portUp s p
  | none => false

/-- Up, and its last HELLO passed every check (R325). -/
def plPasses (s : State) (l : Nat) : Bool := plUp s l && (plinkOf s l).checked && (plinkOf s l).fence == 0

/-- Up, unfenced and within the domain (R326). -/
def plSame (s : State) (l : Nat) : Bool := plPasses s l && !(plinkOf s l).cross

def plInL0 (s : State) (l : Nat) : Bool :=
  match plPort s l with
  | some p => (linkOf s p).state == .l0 && !(linkOf s p).draining
  | none => false

/-- R327 -/
def plAvail (s : State) (l : Nat) : Bool := plSame s l && plInL0 s l

/-- R327: four times the port count of R289. -/
def plUnits (s : State) (l : Nat) : Nat :=
  match plPort s l with
  | some p => cap16 s p / 4
  | none => 0

def bundleTo (s : State) (d : DevId) : List Nat := plList.filter (fun l => plSame s l && (plinkOf s l).peer == some d)
def availTo (s : State) (d : DevId) : List Nat := plList.filter (fun l => plAvail s l && (plinkOf s l).peer == some d)
def unitsOf (s : State) (l : List Nat) : Nat := (l.map (plUnits s)).foldl (· + ·) 0

/-- The link of a list that takes a message of hash `h` (R327). -/
def linkFor (s : State) : List Nat → Nat → Option Nat
  | [], _ => none
  | l :: t, h => if h < plUnits s l then some l else linkFor s t (h - plUnits s l)

/-- What a message hashes: its address, else its TAG (R327); CTL messages take the lowest link. -/
def msgHash : PeerMsg → Option Nat
  | .req m => some ((m.sa.toNat / 2 ^ 6) ^^^ (m.sa.toNat / 2 ^ 19) ^^^ (m.sa.toNat / 2 ^ 32))
  | .snp m => some ((m.sa.toNat / 2 ^ 6) ^^^ (m.sa.toNat / 2 ^ 19) ^^^ (m.sa.toNat / 2 ^ 32))
  | .rsp m =>
    let h := fun (v : Nat) => (v / 2 ^ 6) ^^^ (v / 2 ^ 19) ^^^ (v / 2 ^ 32)
    if rspClass m.op == 3 then some (h m.sa.toNat) else some (h m.tag.toNat)
  | .ctl .. => none
  | .salvage _ _ _ => none

def bundleLink (s : State) (d : DevId) (m : PeerMsg) : Option Nat :=
  let l := availTo s d
  match msgHash m with
  | none => l.head?
  | some h => if unitsOf s l = 0 then l.head? else linkFor s l (h % unitsOf s l)

-- ===== the domain (R344) =====

def nibble (s : State) (d : Nat) : Nat := (s.peer.dmap.toNat / 16 ^ d) % 16

/-- The devices of this device's domain, itself among them. -/
def domainDevs (s : State) : List DevId :=
  let me := devId s
  if standalone s then [me] else
  ((List.range 8).filter (fun k => k == me.toNat || (nibble s k != 15 && nibble s k == nibble s me.toNat))).map (BitVec.ofNat 3 ·)

/-- Units of the bundle from `a` to `b` in the link-state database; this device's own bundles as they are. -/
def dbUnits (s : State) (a b : DevId) : Nat :=
  if a = devId s then unitsOf s (bundleTo s b)
  else (((tget ((0 : BitVec 32), (0 : BitVec 64)) s.peer.lsdb a.toNat).2 >>> (8 * b.toNat)).setWidth 8 : BitVec 8).toNat

/-- Two members have a route of at most two hops (R338, R351). -/
def pairRoute (s : State) (mem : List DevId) (a b : DevId) : Bool :=
  dbUnits s a b != 0 || mem.any (fun v => v != a && v != b && dbUnits s a v != 0 && dbUnits s v b != 0)

def allPairs (mem : List DevId) (f : DevId → DevId → Bool) : Bool := mem.all (fun a => mem.all (fun b => b.toNat ≤ a.toNat || f a b))

/-- The committed domain: COMMIT has been sent or received (R349). -/
def committed (s : State) : Bool := s.peer.form == .committed || s.peer.form == .active

def memberList (s : State) : List DevId := (bitsOf s.peer.members).map (fun n => (BitVec.ofNat 3 n : DevId))

-- ===== faults that excuse breaches (R159) =====

/-- A forward step of device time excuses everything in flight (R159). -/
def faultAll (s : State) : State := markFault s (fun _ => true) (fun _ => true) (fun _ => true)

-- ===== routes (R338, R339) =====

def routeOf (s : State) (d : DevId) : Route := tget Route.unreachable s.peer.routes d.toNat

/-- The best intermediate of a detour (R338): the largest smaller bundle, ties to the lowest device. -/
def bestVia (s : State) (d : DevId) : Option DevId :=
  let score := fun (v : DevId) => min (dbUnits s (devId s) v) (dbUnits s v d)
  ((domainDevs s).filter (fun v => v != devId s && v != d && !(availTo s v).isEmpty && dbUnits s v d != 0)).foldl
    (fun best v => match best with
      | none => some v
      | some b => if score b < score v then some v else some b) none

def rawRoute (s : State) (d : DevId) : Route :=
  if !(availTo s d).isEmpty then .direct
  else match bestVia s d with
    | some v => .detour v
    | none => .unreachable

/-- A member's announcement to another: its home map, host sockets, time and firmware, and its windows (R345). -/
def hostSocks (s : State) : List (HostSock × BitVec 8) :=
  let links := (List.range 8).filter (fun l => !(leadsOf s .host l).isEmpty)
  let hs := (links.map (fun l => (hlinkOf s (BitVec.ofNat 3 l)).hsock)).eraseDups
  hs.map (fun h => (h, (links.filter (fun l => (hlinkOf s (BitVec.ofNat 3 l)).hsock == h)).foldl (fun m l => m ||| bit l) 0))

def fwVersion (s : State) : BitVec 16 :=
  match s.dev.running with
  | some true => s.dev.slotB.version.setWidth 16
  | some false => s.dev.slotA.version.setWidth 16
  | none => 0

def myJoin (s : State) : Join :=
  { dev := devId s, digest := homeDigest s, socks := hostSocks s, time := s.now, fw := fwVersion s, at_ := s.now }

/-- This device's home map has passed R31. -/
def mapPassed (s : State) : Bool :=
  match s.dev.stage with
  | .config | .memory | .localReady | .memoryActive | .containment => true
  | _ => false

def sendJoin (s : State) (d : DevId) : State :=
  let j := myJoin s
  let s := ctlSend s d 0x03 ([j.digest.setWidth 64, j.time, j.fw.setWidth 64] ++
    j.socks.map (fun p => BitVec.ofNat 64 (p.1.toNat + 256 * p.2.toNat)))
  s.region.win.foldl (fun s p =>
    ctlSend s d 0x0C [BitVec.ofNat 64 p.1, p.2.geo.base.setWidth 64, p.2.geo.limit.setWidth 64,
      BitVec.ofNat 64 (classCode p.2.cls), if p.2.state == .enabled then 1 else 0]) s

/-- R339: records a route, with its event. -/
def setRoute (s : State) (d : DevId) (r : Route) : State :=
  let old := routeOf s d
  if old == r then s else
  let back := tget 0 s.peer.lostAt d.toNat != 0
  let s := { s with peer := { s.peer with routes := tput Route.unreachable s.peer.routes d.toNat r } }
  let s := match r with
    | .direct => if back then raise s 0x344 164 [] else s
    | _ => raise s 0x343 164 []
  if old == .unreachable && mapPassed s && (s.peer.form == .none || s.peer.form == .waiting) then sendJoin s d else s

/-- One device's route after a change of the links or of the database. -/
def rerouteOne (s : State) (d : DevId) : State :=
  match rawRoute s d with
  | .direct =>
    let s := setRoute s d .direct
    { s with peer := { s.peer with lostAt := tput 0 s.peer.lostAt d.toNat 0 } }
  | r =>
    if routeOf s d == .direct then
      if tget 0 s.peer.lostAt d.toNat == 0 then
        { s with peer := { s.peer with lostAt := tput 0 s.peer.lostAt d.toNat s.now } }
      else s
    else setRoute s d r

def reroute (s : State) : State := ((domainDevs s).filter (· != devId s)).foldl rerouteOne s

-- ===== the link-state database (R344) =====

def ownUnits (s : State) : BitVec 64 :=
  (List.range 8).foldl (fun v j => v ||| (BitVec.ofNat 64 (unitsOf s (bundleTo s (BitVec.ofNat 3 j)) % 256) <<< (8 * j))) 0

def floodLsa (s : State) (dev : DevId) (seq : BitVec 32) (units : BitVec 64) (from_ : Option Nat) : State :=
  plList.foldl (fun s l =>
    if plPasses s l && some l != from_ then ctlOut s l 0x02 [dev.setWidth 64, seq.setWidth 64, units] else s) s

def dbPut (s : State) (dev : DevId) (seq : BitVec 32) (units : BitVec 64) : State :=
  { s with peer := { s.peer with lsdb := tput (0, 0) s.peer.lsdb dev.toNat (seq, units) } }

/-- This device's bundles changed: a new LSA (R344). -/
def refreshLsa (s : State) : State :=
  let u := ownUnits s
  if (tget ((0 : BitVec 32), (0 : BitVec 64)) s.peer.lsdb (devId s).toNat).2 == u then s else
  let seq := s.peer.lsaSeq + 1
  let s := dbPut { s with peer := { s.peer with lsaSeq := seq } } (devId s) seq u
  floodLsa s (devId s) seq u none

/-- R351, R352 -/
def splitNow (s : State) : Bool := committed s && !(allPairs (memberList s) (pairRoute s (memberList s)))

def updateSplit (s : State) : State :=
  { s with peer := { s.peer with splitSince := if splitNow s then (match s.peer.splitSince with
      | some t => some t
      | none => some s.now) else none } }

-- ===== board time (R349) =====

/-- A forward step of device time. -/
def stepTime (s : State) (t : Time) : State :=
  if t.toNat ≤ s.now.toNat then s else
  let d := t - s.now
  let s := faultAll s
  let lag := fun (tab : Tab (BitVec 64)) i => if i = 165 then tab else tmod 0 tab i (· + d)
  { s with now := t, clk := { s.clk with lastStep := d, lastStepAt := t, island := (List.range 168).foldl lag s.clk.island } }

/-- Neighbours whose SYNCRSP shows a path to the time leader: device and hop count. -/
def timePaths (s : State) : List (DevId × Nat) :=
  (s.peer.parentHops.filter (fun p => p.2.1 != 0xFF &&
    plList.any (fun l => plPasses s l && plInL0 s l && (plinkOf s l).peer == some (BitVec.ofNat 3 p.1)))).map
    (fun p => (BitVec.ofNat 3 p.1, p.2.1.toNat))

/-- The time parent: the lowest hop count, ties to the lowest device; the leader of a committed domain with no
lower-numbered neighbour on a path is the time leader. -/
def updateParent (s : State) : State :=
  let c := timePaths s
  let lead := committed s && s.peer.leader == some (devId s) && !(c.any (fun p => p.1.toNat < (devId s).toNat))
  if lead then { s with peer := { s.peer with parent := none, hops := 0, sync := .locked, lockedOnce := true } }
  else
    let best := c.foldl (fun (b : Option (DevId × Nat)) p => match b with
      | none => some p
      | some q => if p.2 < q.2 then some p else some q) none
    match best with
    | some (d, h) => { s with peer := { s.peer with
        parent := some d, hops := BitVec.ofNat 8 (h + 1), sync := if s.peer.sync == .free then .locking else s.peer.sync } }
    | none => { s with peer := { s.peer with parent := none, hops := 0xFF, sync := .free } }

-- ===== formation (R345 to R348) =====

/-- The device enters MEMORY_ACTIVE (R347, R370). -/
def enterActive (s : State) : State :=
  let s := setStage s .memoryActive 6
  let s := emit s (.memoryActive true)
  if boardMode s then raise { s with peer := { s.peer with form := .active } } 0x340 164 [] else s

def formFailed (s : State) (cause : Nat) : State :=
  let s := { s with peer := { s.peer with form := .failed, cause := BitVec.ofNat 8 cause } }
  raise s 0x341 164 [(1, cause)]

/-- The leader fails the formation: FAIL to each member, and its own (R346). -/
def failAll (s : State) (l : List DevId) (cause : Nat) : State :=
  formFailed ((l.filter (· != devId s)).foldl (fun s d => ctlSend s d 0x07 [BitVec.ofNat 64 cause]) s) cause

/-- The JOINs a device holds, its own among them. -/
def joinsOf (s : State) : List Join := (if mapPassed s then [myJoin s] else []) ++ s.peer.joins

def isLeader (s : State) : Bool := mapPassed s && !(s.peer.joins.any (fun j => j.dev.toNat < (devId s).toNat))

/-- The home map names memory homed on the device (R346). -/
def homesOn (s : State) (d : DevId) : Bool :=
  (List.range 8).any (fun r =>
    let h := tget HomeRange.init s.region.hr r
    (List.range h.ways.toNat).any (fun k => devSlot h.devlist k == d))

/-- The formation timeout has run since the first peer link reached L0. -/
def formOver (s : State) : Bool :=
  match s.peer.formStart with
  | some t => s.peer.formTimeout.toNat * 1000000 ≤ since s t
  | none => false

/-- The board time a leader sends (R349). -/
def boardTime (s : State) : Time :=
  let mem := s.peer.joins.map (fun j => (j.time + (s.now - j.at_)).toNat)
  let far := (s.peer.parentHops.filter (fun p => p.2.1 != 0xFF && !(domainDevs s).contains (BitVec.ofNat 3 p.1))).map
    (fun p => (p.2.2.1 + (s.now - p.2.2.2)).toNat)
  BitVec.ofNat 64 (max s.now.toNat (max (maxNat mem) (maxNat far)) + 1000000)

/-- What every member does at COMMIT (R346). -/
def recordCommit (s : State) (lead : DevId) (mem : BitVec 8) (att : List (HostSock × DevId × BitVec 8)) : State :=
  let s := { s with
    peer := { s.peer with form := .committed, members := mem, leader := some lead, commitAt := s.now, ready := 0, cause := 0 }
    snoop := { s.snoop with attach := att.foldl (fun t a => tput ((0 : DevId), (0 : BitVec 8)) t a.1.toNat a.2) [] } }
  ((domainDevs s).filter (fun d => !mem.getLsbD d.toNat)).foldl (fun s _ => raise s 0x349 164 []) s

def sendActive (s : State) : State :=
  if s.peer.ready == s.peer.members && s.peer.form == .committed && s.peer.leader == some (devId s) then
    let s := ((memberList s).filter (· != devId s)).foldl (fun s d => ctlSend s d 0x06 []) s
    enterActive s
  else s

/-- READY, once: start-up has reached LOCAL_READY and board time is locked (R347, R370). -/
def maybeReady (s : State) : State :=
  let me := devId s
  if s.peer.form != .committed || s.dev.stage != .localReady || s.peer.sync != .locked || s.peer.ready.getLsbD me.toNat then s else
  let s := { s with peer := { s.peer with ready := s.peer.ready ||| bit me.toNat } }
  match s.peer.leader with
  | some l => if l = me then sendActive s else ctlSend s l 0x05 []
  | none => s

def commitForm (s : State) (js : List Join) : State :=
  let mem : BitVec 8 := js.foldl (fun m j => m ||| bit j.dev.toNat) 0
  let att := js.flatMap (fun j => j.socks.map (fun p => (p.1, j.dev, p.2)))
  let t := boardTime s
  let body := [mem.setWidth 64, t] ++ att.map (fun a => BitVec.ofNat 64 (a.1.toNat + 16 * a.2.1.toNat + 256 * a.2.2.toNat))
  let s := recordCommit s (devId s) mem att
  let s := ((memberList s).filter (· != devId s)).foldl (fun s d => ctlSend s d 0x04 body) s
  maybeReady (updateParent (stepTime s t))

/-- The leader's conditions (R346). -/
def tryForm (s : State) : State :=
  if s.peer.form != .waiting || !isLeader s then s else
  let js := joinsOf s
  let devs := js.map (·.dev)
  let socks := js.flatMap (fun j => j.socks.map (·.1))
  if js.any (fun j => j.digest != homeDigest s) then failAll s devs 1
  else if socks.eraseDups.length != socks.length then failAll s devs 2
  else
    let missing := (domainDevs s).filter (fun d => !devs.contains d)
    let c1 := missing.isEmpty || (formOver s && !(missing.any (homesOn s)))
    if c1 && allPairs devs (pairRoute s devs) then commitForm s js
    else if formOver s then failAll s devs 3
    else s

/-- Everything that follows a change of the peer links or of the database. -/
def topology (s : State) : State := maybeReady <| tryForm (updateParent (updateSplit (reroute (refreshLsa s))))

-- ===== flits (R308, R328, R333) =====

/-- Slots of a message in a flit (R328, R329). -/
def reqSlots : ReqOp → Nat
  | .memWr _ | .ncWrite | .atomic .. | .reserve .. | .condstore .. => 5
  | .memWrPtl _ | .ncWritePtl | .invalidateBlock _ => 6
  | _ => 1
def msgSlots : PeerMsg → Nat
  | .req m => reqSlots m.op
  | .snp _ => 1
  | .rsp m => if rspClass m.op == 3 then (if m.op == .snoopWb false then 6 else 5) else 1
  | .ctl _ _ _ _ body => 1 + min 4 ((body.length + 1) / 2)
  | .salvage _ _ _ => 5

def viaOf : PeerMsg → Option DevId
  | .req m => m.via
  | .snp m => m.via
  | .rsp m => m.via
  | .ctl .. => none
  | .salvage _ _ _ => none
def setVia (m : PeerMsg) (v : Option DevId) : PeerMsg :=
  match m with
  | .req m => .req { m with via := v }
  | .snp m => .snp { m with via := v }
  | .rsp m => .rsp { m with via := v }
  | m => m

/-- The message is on its second hop: this device is its intermediate (R338). -/
def escape (s : State) (m : PeerMsg) : Bool := viaOf m == some (devId s)

/-- The link a waiting message takes now, and the intermediate it names. -/
def linkOfTx (s : State) (t : Tx) : Option (Nat × Option DevId) :=
  if escape s t.msg then (bundleLink s t.dst t.msg).map (fun l => (l, some (devId s)))
  else match routeOf s t.dst with
    | .direct => (bundleLink s t.dst t.msg).map (fun l => (l, none))
    | .detour v => (bundleLink s v t.msg).map (fun l => (l, some v))
    | .unreachable => none

/-- The channel of a message: 0 for CTL, 1 to 4 the escape channels, 5 to 8 the primary ones, each as RSP, DATA, SNP, REQ (R333). -/
def channel (s : State) (m : PeerMsg) : Nat :=
  let k := [4, 3, 1, 2].getD (msgClass m) 0
  if k = 0 then 0 else if escape s m then k else 4 + k

/-- Earlier deadline first; none is last; equals keep their order (R150). -/
def txBefore (a b : Tx) : Bool :=
  match a.deadline, b.deadline with
  | some x, some y => x.toNat < y.toNat
  | some _, none => true
  | _, _ => false

def firstTx : List Tx → Option Tx
  | [] => none
  | t :: l => match firstTx l with
    | some u => if txBefore u t then some u else some t
    | none => some t

/-- DSL of a RSP or DATA message that is sent now (Table 11-2). -/
def dslOf (s : State) : Option Time → BitVec 12
  | none => 0xFFF
  | some d => if d ≤ s.now then 0 else BitVec.ofNat 12 (min 0xFFE ((d - s.now).toNat / 8))

/-- The deadline that DSL tells. -/
def deadlineDsl (s : State) (n : BitVec 12) : Option Time := if n = 0xFFF then none else some (s.now + n.setWidth 64 * 8)

/-- DevLoad of a response that leaves its home (R296); one that no request here has sent keeps its own. -/
def peerLoad (s : State) (m : PeerRsp) : BitVec 2 :=
  match s.cache.reqs.find? (fun r => r.org == .peer m.dst m.tag && r.phase == .egress) with
  | some r => if m.src == devId s then devload s r else m.devload
  | none => m.devload

/-- A message as it leaves: a RSP or DATA message carries the time left to its deadline, and DevLoad. -/
def stampDsl (s : State) (dl : Option Time) : PeerMsg → PeerMsg
  | .rsp m => .rsp { m with dsl := dslOf s dl, devload := peerLoad s m }
  | m => m

/-- The first message of the four channels from `base` on, tried in turn from channel `turn`, and that channel. -/
def inTurn (s : State) (base turn : Nat) (l : List Tx) : Option (Tx × Nat) :=
  ((List.range 4).map (fun i => (turn + i) % 4)).findSome? (fun k =>
    (firstTx (l.filter (fun t => channel s t.msg == base + k))).map (fun t => (t, k)))

/-- The next message of an egress whose round robins stand at `esc` and `pri`, and where they stand after it: CTL oldest first, then
the escape channels, then the primary ones (R333). -/
def nextTx (s : State) (esc pri : Nat) (l : List Tx) : Option (Tx × Nat × Nat) :=
  match firstTx (l.filter (fun t => channel s t.msg == 0)) with
  | some t => some (t, esc, pri)
  | none => match inTurn s 1 esc l with
    | some (t, k) => some (t, k + 1, pri)
    | none => (inTurn s 5 pri l).map (fun p => (p.1, esc, p.2 + 1))

/-- The messages of one flit, at most 14 slots, and where the round robins stand after it. -/
def fillFlit (s : State) : Nat → Nat → Nat → Nat → List Tx → List Tx × Nat × Nat
  | 0, esc, pri, _, _ => ([], esc, pri)
  | fuel + 1, esc, pri, room, l =>
    match nextTx s esc pri l with
    | none => ([], esc, pri)
    | some (t, e, p) =>
      if room < msgSlots t.msg then ([], esc, pri) else
      match fillFlit s fuel e p (room - msgSlots t.msg) (l.erase t) with
      | (l, e, p) => (t :: l, e, p)

/-- A host request's REQ waits until one of the 1,024 response buffers of its member link is free, where they are given out in the
order of the requests (R332). -/
def bufferFree (s : State) (t : Tx) : Bool :=
  match t.msg with
  | .req m =>
    (match s.peer.txns.find? (fun x => x.tag == m.tag && x.dev == t.dst && m.src == devId s) with
     | some x =>
       (match x.org with
        | .host l mem _ =>
          ((s.peer.txns.takeWhile (fun y => y != x)).filter (fun y => ofHost l mem y.org)).length +
            (s.port.resp.filter (fun v => v.link == l && v.member == mem && v.home != devId s && !v.left)).length < 1024
        | _ => true)
     | none => true)
  | _ => true

/-- RSP and DATA messages of class Vermilion are urgent (R333). -/
def urgentMsg : PeerMsg → Bool
  | .rsp m => m.cls == .vermilion
  | _ => false

/-- Removes from `l` the messages of `sent`, each once. -/
def eraseAll (l sent : List Tx) : List Tx := sent.foldl (fun l t => l.erase t) l

/-- One flit leaves on peer link `l`. -/
def peerFlit (s : State) (l : Nat) (urgent : Bool) : State × Bool :=
  let mine := s.peer.tx.filter (fun t =>
    (match linkOfTx s t with
     | some (k, _) => k == l
     | none => false) && (!urgent || urgentMsg t.msg) && bufferFree s t)
  let v := plinkOf s l
  match fillFlit s 14 v.escTurn v.priTurn 14 mine with
  | (sent, esc, pri) =>
  if sent.isEmpty then (s, false) else
  let seq := v.seq + 1
  let out := sent.map (fun t =>
    let via := ((linkOfTx s t).bind (·.2))
    (via, stampDsl s t.deadline (setVia t.msg via)))
  let s := { s with peer := { s.peer with
    tx := eraseAll s.peer.tx sent
    detoured := s.peer.detoured + BitVec.ofNat 64 (out.filter (fun p => p.1.isSome && p.1 != some (devId s))).length } }
  let s := setPlink s l { v with seq := seq, escTurn := esc % 4, priTurn := pri % 4,
                                 replay := ((seq, out.map (·.2)) :: v.replay).take 32767 }
  (out.foldl (fun s p => emit s (.peer (BitVec.ofNat 4 l) seq p.1 p.2)) s, true)

-- ===== HELLO (R324, R325) =====

def myHello (s : State) (l : Nat) : HelloMsg :=
  { bid := devId s, board := s.peer.boardId, version := s.peer.version, dmap := s.peer.dmap, serial := Config.serial,
    link := BitVec.ofNat 4 l }

def sendHello (s : State) (l : Nat) : State :=
  let s := setPlink s l { plinkOf s l with helloAt := s.now }
  emit (match (plinkOf s l).peer with
    | some d => countSent s d 4
    | none => s) (.hello (BitVec.ofNat 4 l) (myHello s l))

/-- The first check of R325 that fails; 0 none. -/
def helloCause (s : State) (h : HelloMsg) : Nat :=
  if (h.version >>> 8) != (s.peer.version >>> 8) then 1
  else if h.board != s.peer.boardId then 2
  else if h.bid == devId s then 3
  else if h.dmap != s.peer.dmap then 4
  else 0

/-- The neighbour belongs to another domain, or to none (R326). -/
def crossDomain (s : State) (d : DevId) : Bool := nibble s d.toNat != nibble s (devId s).toNat || nibble s d.toNat == 15

/-- A device of the domain that is no member of a committed one is told so (R348). -/
def tellLate (s : State) (l : Nat) (d : DevId) : State :=
  if !(plinkOf s l).cross && committed s && !s.peer.members.getLsbD d.toNat then ctlOut s l 0x07 [5] else s

def doHello (s : State) (l : Nat) (h : HelloMsg) : State :=
  if !plUp s l then s else
  let s := ctlIn s h.bid
  let v := { plinkOf s l with peer := some h.bid, peerLink := h.link }
  let c := helloCause s h
  if c ≠ 0 then
    let s := setPlink s l { v with fence := BitVec.ofNat 8 c, checked := false }
    topology (raise s 0x342 164 [(1, c)])
  else
    let cross := crossDomain s h.bid
    topology (tellLate (setPlink s l { v with fence := 0, checked := true, cross := cross }) l h.bid)

def execHello (pl : PLink) (h : HelloMsg) (s : State) : Host.Outcome State Fault Refusal :=
  actTimeIf (plinkOk pl) s (fun s => doHello s pl.toNat h)

def doHelloRepeat (s : State) (l : Nat) : State :=
  if plUp s l && (plinkOf s l).fence != 0 && 10000000 ≤ since s (plinkOf s l).helloAt then sendHello s l else s

def execHelloRepeat (pl : PLink) (s : State) : Host.Outcome State Fault Refusal :=
  actIf (plinkOk pl) s (fun s => doHelloRepeat s pl.toNat)

/-- R344: a newer LSA. -/
def doLsa (s : State) (l : Nat) (dev : DevId) (seq : BitVec 32) (units : BitVec 64) : State :=
  let old := (tget ((0 : BitVec 32), (0 : BitVec 64)) s.peer.lsdb dev.toNat).1
  if !plPasses s l then s else
  let s := ctlNear s l
  if dev = devId s || seq == old || (seq - old).msb then s
  else topology (floodLsa (dbPut s dev seq units) dev seq units (some l))

def execLsa (pl : PLink) (dev : DevId) (seq : BitVec 32) (units : BitVec 64) (s : State) : Host.Outcome State Fault Refusal :=
  actTimeIf (plinkOk pl) s (fun s => doLsa s pl.toNat dev seq units)

-- ===== the link goes up and down =====

/-- A peer link reached L0 with the peer protocol (R325, R346). -/
def peerLinkUp (s : State) (l : Nat) : State :=
  let s := { s with peer := { s.peer with formStart := (match s.peer.formStart with
    | some t => some t
    | none => some s.now) } }
  topology (sendHello s l)

/-- What follows the loss of a peer link (R340): its buffer is frozen, RECON leaves on the current route, and the bundle, the
routes and the capacity are considered again. No command carries flit sequence numbers, so RECON's is a free value. -/
def peerLinkLost (s : State) (l : Nat) (drained : Bool) : State :=
  let v := plinkOf s l
  let used := v.checked && v.fence == 0 && !v.cross
  let cut := used && !drained
  let s := setPlink s l { v with checked := false, frozen := v.frozen || cut, frozenAt := if cut then s.now else v.frozenAt,
                                 late := v.late && !cut, kept := if cut then v.replay ++ v.kept else v.kept, replay := [],
                                 lastRx := (Config.freeValue s.freeCount).setWidth 16, held := [] }
  let s := takeFree s
  match v.peer with
  | some d =>
    let s := if used && !drained then ctlSend s d 0x0A [BitVec.ofNat 64 l, (plinkOf s l).lastRx.setWidth 64] else s
    if used then capChange (topology s) (.peerLinks d) else topology s
  | none => topology s

/-- Messages of frozen flits that the partner did not receive (R340). -/
def unreceived (v : PLinkS) (last : BitVec 16) : List PeerMsg :=
  (v.kept.filter (fun f => f.1 != last && !((f.1 - last).msb))).reverse.flatMap (·.2)

/-- The deadline of a message that is sent again (R150). -/
def deadlineAgain (s : State) : PeerMsg → Option Time
  | .req m => deadlineOf m.cls true (tinOf s m.tin)
  | .rsp m => deadlineDsl s m.dsl
  | _ => none

/-- Sends a message again: with RESENT, or wrapped in SALVAGE when it was on its second hop and its destination is no longer
directly reachable (R340, R341). -/
def resend (s : State) (m : PeerMsg) : State :=
  let put := fun (s : State) (d : DevId) (m : PeerMsg) =>
    { s with peer := { s.peer with resent := s.peer.resent + 1, tx := s.peer.tx ++ [⟨d, m, deadlineAgain s m, s.now⟩] } }
  let far := fun (d : DevId) => escape s m && (availTo s d).isEmpty
  let salv := fun (s : State) (src d : DevId) (w : SalvageMsg) =>
    put { s with peer := { s.peer with salvaged := s.peer.salvaged + 1 } } d (.salvage src d w)
  let keep := fun (m : PeerMsg) => if escape s m then m else setVia m none
  match m with
  | .req r => if far r.dst then salv s (devId s) r.dst (.req { r with resent := true }) else put s r.dst (keep (.req { r with resent := true }))
  | .snp r => if far r.dst then salv s (devId s) r.dst (.snp { r with resent := true }) else put s r.dst (keep (.snp { r with resent := true }))
  | .rsp r => if far r.dst then salv s (devId s) r.dst (.rsp { r with resent := true }) else put s r.dst (keep (.rsp { r with resent := true }))
  | .ctl op src d _ body => put s d (.ctl op src d true body)
  | .salvage src d w => put s d (.salvage src d w)

/-- The frozen link whose other end is link `pl` of `src`. -/
def frozenLink (s : State) (src : DevId) (pl : PLink) : Option Nat :=
  plList.find? (fun l => (plinkOf s l).frozen && (plinkOf s l).peer == some src && (plinkOf s l).peerLink == pl)

/-- The frozen buffer of link `l` is reconciled: what was not received is sent again, and E-0x347 is raised (R340). -/
def reconciled (s : State) (l : Nat) (last : BitVec 16) : State :=
  let v := plinkOf s l
  raise ((unreceived v last).foldl resend (setPlink s l { v with frozen := false, late := false, kept := [] })) 0x347 164 []

def doRecon (s : State) (src : DevId) (pl : PLink) (last : BitVec 16) : State :=
  match frozenLink s src pl with
  | none => s
  | some l => reconciled s l last

def execRecon (src : DevId) (pl : PLink) (last : BitVec 16) (s : State) : Host.Outcome State Fault Refusal :=
  actIf (plinkOk pl) s (fun s => doRecon (ctlIn s src) src pl last)

/-- The buffer stays frozen; the event tells once that no RECON came in time (R340). -/
def doReconTimeout (s : State) (l : Nat) : State :=
  let v := plinkOf s l
  if v.frozen && !v.late && s.peer.reconTimeout.toNat * 1000 ≤ since s v.frozenAt then
    raise (setPlink s l { v with late := true }) 0x347 164 [(1, 3)]
  else s

def execReconciliationTimeout (pl : PLink) (s : State) : Host.Outcome State Fault Refusal :=
  actIf (plinkOk pl) s (fun s => doReconTimeout s pl.toNat)

/-- R339 -/
def doDetourExpiry (s : State) (d : DevId) : State :=
  if routeOf s d == .direct && (availTo s d).isEmpty && (domainDevs s).contains d && d != devId s &&
     s.peer.detourDelay.toNat * 1000 ≤ since s (tget 0 s.peer.lostAt d.toNat) then setRoute s d (rawRoute s d) else s

def execDetourDelayExpiry (dev : DevId) (s : State) : Host.Outcome State Fault Refusal := act s (fun s => doDetourExpiry s dev)

/-- R351 -/
def doSplit (s : State) : State :=
  match s.peer.splitSince with
  | some t => if splitNow s && s.peer.settle.toNat * 1000 ≤ since s t then contain (raise s 0x345 164 []) 4 164 else s
  | none => s

def execSplitSettleExpiry (s : State) : Host.Outcome State Fault Refusal := act s doSplit

-- ===== formation messages =====

def inDomain (s : State) (d : DevId) : Bool := d != devId s && (domainDevs s).contains d

def doJoin (s : State) (j : Join) : State :=
  if !inDomain s j.dev then s
  else if committed s || s.peer.form == .failed then
    -- it reached its peers after COMMIT (R348)
    if committed s && !s.peer.members.getLsbD j.dev.toNat then ctlSend s j.dev 0x07 [5] else s
  else tryForm { s with peer := { s.peer with joins := s.peer.joins.filter (fun k => k.dev != j.dev) ++ [j] } }

def execJoin (dev : DevId) (digest : BitVec 32) (socks : List (HostSock × BitVec 8)) (time : Time) (fw : BitVec 16) (s : State) :
    Host.Outcome State Fault Refusal :=
  actTime s (fun s => doJoin (ctlIn s dev) { dev := dev, digest := digest, socks := socks, time := time, fw := fw, at_ := s.now })

/-- R139 -/
def doWindir (s : State) (dev : DevId) (l : List (WinId × DirEntry)) : State :=
  if !inDomain s dev then s else
  { s with contract := { s.contract with
      dir := l.foldl (fun t e => tput (⟨0, 0, .ash, false⟩ : DirEntry) t (dev.toNat * 64 + e.1.toNat) e.2) s.contract.dir } }

def execWindir (dev : DevId) (entries : List (WinId × DirEntry)) (s : State) : Host.Outcome State Fault Refusal :=
  act s (fun s => doWindir (ctlIn s dev) dev entries)

/-- A member accepts COMMIT only from the lowest-numbered member it has heard from (R345). -/
def fromLowest (s : State) (src : DevId) : Bool :=
  inDomain s src && !(s.peer.joins.any (fun j => j.dev.toNat < src.toNat))

/-- The member records what the leader sent; it steps its time at its first exchange with its parent (R349). -/
def doCommit (s : State) (src : DevId) (mem : BitVec 8) (att : List (HostSock × DevId × BitVec 8)) : State :=
  if s.peer.form != .waiting || !fromLowest s src || !mem.getLsbD (devId s).toNat then s
  else maybeReady (updateParent (updateSplit (recordCommit s src mem att)))

def execCommit (src : DevId) (members : BitVec 8) (attach : List (HostSock × DevId × BitVec 8)) (_time : Time) (s : State) :
    Host.Outcome State Fault Refusal := act s (fun s => doCommit (ctlIn s src) src members attach)

def doReady (s : State) (dev : DevId) : State :=
  if s.peer.form == .committed && s.peer.leader == some (devId s) && s.peer.members.getLsbD dev.toNat then
    sendActive { s with peer := { s.peer with ready := s.peer.ready ||| bit dev.toNat } }
  else s

def execReady (dev : DevId) (s : State) : Host.Outcome State Fault Refusal := act s (fun s => doReady (ctlIn s dev) dev)

def doActive (s : State) (src : DevId) : State :=
  if s.peer.form == .committed && s.peer.leader == some src && s.dev.stage == .localReady then enterActive s else s

def execActive (src : DevId) (s : State) : Host.Outcome State Fault Refusal := act s (fun s => doActive (ctlIn s src) src)

def doFail (s : State) (src : DevId) (cause : Byte) : State :=
  if inDomain s src && (s.peer.form == .waiting || s.peer.form == .committed) then formFailed s cause.toNat else s

def execFail (src : DevId) (cause : Byte) (s : State) : Host.Outcome State Fault Refusal := act s (fun s => doFail (ctlIn s src) src cause)

def execFormationTimeout (s : State) : Host.Outcome State Fault Refusal :=
  actTime s (fun s => if formOver s then tryForm s else s)

/-- R347 -/
def doReadyTimeout (s : State) : State :=
  if s.peer.form == .committed && s.peer.leader == some (devId s) && s.peer.ready != s.peer.members &&
     s.peer.formTimeout.toNat * 1000000 ≤ since s s.peer.commitAt then failAll s (memberList s) 4 else s

def execReadyTimeout (s : State) : Host.Outcome State Fault Refusal := act s doReadyTimeout

-- ===== board time (R349) =====

def syncReqOn (s : State) (d : DevId) : State :=
  match plList.find? (fun l => plPasses s l && plInL0 s l && (plinkOf s l).peer == some d) with
  | some l => ctlEmit s l 0x08 [s.now, s.peer.hops.setWidth 64]
  | none => s

/-- To the parent; while none is known, to every neighbour, whose SYNCRSP advertises its hop count. -/
def doSyncInterval (s : State) : State :=
  match s.peer.parent with
  | some d => syncReqOn s d
  | none => if s.peer.hops == 0 then s
    else (((plList.filter (plPasses s)).filterMap (fun l => (plinkOf s l).peer)).eraseDups).foldl syncReqOn s

def execSyncInterval (s : State) : Host.Outcome State Fault Refusal := act s doSyncInterval

/-- The parent stamps t2, steps forward when the child is ahead by more than the sync fault threshold, and answers. -/
def doSyncreq (s : State) (l : Nat) (t1 : Time) : State :=
  if !plPasses s l then s else
  let s := ctlNear s l
  let t2 := s.now
  let s := if s.peer.hops != 0xFF && s.now.toNat + s.peer.syncFault.toNat < t1.toNat then stepTime s t1 else s
  ctlEmit s l 0x09 [t1, t2, s.now, s.peer.hops.setWidth 64]

def execSyncreq (pl : PLink) (_src : DevId) (t1 : Time) (_hops : Byte) (s : State) : Host.Outcome State Fault Refusal :=
  actTimeIf (plinkOk pl) s (fun s => doSyncreq s pl.toNat t1)

/-- The offset of the parent from the child, rounded down. -/
def syncOffset (t1 t2 t3 t4 : Time) : Int :=
  (((t2.toNat : Int) - t1.toNat) - ((t4.toNat : Int) - t3.toNat)) / 2

/-- The rate correction after an exchange: some value within 200 ppm (the servo is not given). -/
def slewRate (n : Nat) : BitVec 32 := BitVec.ofInt 32 (((Config.freeValue n).toNat % 400001 : Nat) - 200000)

/-- What a SYNCRSP says of its sender: its hop count and its time (R349). -/
def noteHops (s : State) (src : DevId) (hops : Byte) (t3 : Time) : State :=
  updateParent { s with peer := { s.peer with
    parentHops := tput ((0xFF : Byte), (0 : Time), (0 : Time)) s.peer.parentHops src.toNat (hops, t3, s.now) } }

def lockTime (s : State) : State := maybeReady { s with peer := { s.peer with lockedOnce := true, sync := .locked, overs := 0 } }

/-- The first exchange with the parent: in a committed domain a child behind steps its time; within the sync fault threshold
time is locked (R349). -/
def firstSync (s : State) (o : Int) : State :=
  if committed s && 0 < o then lockTime (stepTime s (BitVec.ofNat 64 (s.now.toNat + o.toNat)))
  else if o.natAbs ≤ s.peer.syncFault.toNat then lockTime s
  else s

/-- A later exchange: the rate is corrected; three offsets in a row above the threshold unlock (R349). -/
def laterSync (s : State) (o : Int) : State :=
  let s := takeFree { s with peer := { s.peer with rate := slewRate s.freeCount } }
  if o.natAbs ≤ s.peer.syncFault.toNat then
    maybeReady { s with peer := { s.peer with sync := .locked, overs := 0 } }
  else
    let n := s.peer.overs + 1
    let s := { s with peer := { s.peer with overs := n } }
    if n = 3 && s.peer.sync == .locked then raise { s with peer := { s.peer with sync := .unlocked } } 0x346 164 [] else s

def doSyncrsp (s : State) (l : Nat) (src : DevId) (t1 t2 t3 t4 : Time) (hops : Byte) : State :=
  if !plPasses s l || (plinkOf s l).peer != some src then s else
  let s := noteHops (ctlIn s src) src hops t3
  if s.peer.parent != some src then s else
  let o := syncOffset t1 t2 t3 t4
  let s := { s with peer := { s.peer with offset := BitVec.ofInt 64 o } }
  if s.peer.lockedOnce then laterSync s o else firstSync s o

def execSyncrsp (pl : PLink) (src : DevId) (t1 t2 t3 t4 : Time) (hops : Byte) (s : State) : Host.Outcome State Fault Refusal :=
  actTimeIf (plinkOk pl) s (fun s => doSyncrsp s pl.toNat src t1 t2 t3 t4 hops)

end Sys2Proof.Machine
end

