-- ==== Sys2Proof/Machine/PeerMsgs.lean ====
section
/-!
DEFINITION. Messages that arrive on peer links: requests at their home, snoops at the attachment device, responses at the
origin, transit on a detour, and salvage (R334 to R341).
-/

namespace Sys2Proof.Machine

/-- A message of a member arrives on a link that carries the domain's traffic (R326, R348). -/
def carries (s : State) (l : Nat) (src : DevId) : Bool :=
  plSame s l && src != devId s && s.peer.members.getLsbD src.toNat

/-- A message that crosses this device on a detour: it leaves on the escape channel of its class and nothing else happens
(R20, R338). -/
def transit (s : State) (dst : DevId) (via : Option DevId) (m : PeerMsg) (dl : Option Time) : State :=
  if via == some (devId s) then { s with peer := { s.peer with tx := s.peer.tx ++ [⟨dst, m, dl, s.now⟩] } } else s

-- ===== REQ at its home (R35, R334) =====

/-- The message that answers a request of a peer at once. -/
def quickRsp (s : State) (m : PeerReq) (poison : Bool) (st : JStatus) : PeerRsp :=
  let host := m.rqk == .hostSocket
  let rd := hostRead m.op || (needs m.op).1
  { src := devId s, dst := m.src, via := none, resent := false
    op := if host then (if hostRead m.op then .memData .none else .cmp .cmp) else if rd then .jobData else .partDone
    tag := m.tag, rsq := 0, hs := m.hs, sa := m.sa, cls := .ash, status := st, mismatch := false, hit := true,
    causeFault := false, causePartner := false, causeCoherence := false, rqc := false, devload := 0, dsl := 0xFFF,
    poison := poison && (if host then hostRead m.op else rd), data := 0, be := 0 }

/-- Answers a request of a peer without its home bench; MemSpecRd has no answer. -/
def quickAnswer (s : State) (m : PeerReq) (poison : Bool) (st : JStatus) : State :=
  if m.op == .memSpecRd then s else peerSend s m.src (.rsp (quickRsp s m poison st)) none

/-- The status a refusal gives a job; a host request has none (Table 2-11). -/
def refusedStatus (m : PeerReq) (st : JStatus) : JStatus := if m.rqk == .hostSocket then .ok else st

/-- The number a refusal's event carries for a request of a peer: the host socket, or the queue. -/
def refusalSrc (m : PeerReq) : Nat :=
  if m.rqk == .hostSocket then m.hs.toNat else if m.rqk == .management then 0xFFFF else m.queue.toNat

def peerRefuse (s : State) (m : PeerReq) (rights : Bool) (w island : Nat) : State :=
  let s := refuse s rights m.sa w m.rqk (refusalSrc m) island
  quickAnswer s m true (refusedStatus m (if rights then .rights else .unmapped))

/-- A request that reaches its home in containment (R273): a write that arrives before the answer deadline is performed if
the home can accept it; anything else is answered at once, a read with poison. -/
def containReq (s : State) (m : PeerReq) : State :=
  let drop := fun (s : State) => { s with rel := { s.rel with resDiscarded := s.rel.resDiscarded + 1 } }
  if !storing m.op then quickAnswer s m true (if m.rqk == .hostSocket then .ok else .poisoned)
  else match homeOf s m.sa with
    | some (d, dla) =>
      (match windowAt s dla with
       | some w =>
         if d = devId s && rightsOk (winOf s w) m.rqk m.op && s.rel.cphase == .stop then
           let r := formReq s s.cache.nextReq m.op (.peer m.src m.tag) m.rqk m.hs m.sa dla w .ash none s.now m.data m.be m.poison
             m.queue m.epoch
           match placeWrite s r r.data r.be r.poison with
           | (t, true) => quickAnswer (performed t r (r.be == BitVec.allOnes 64) r.poison) m false .ok
           | (_, false) => quickAnswer (drop s) m false .ok
         else quickAnswer (drop s) m false .ok
       | none => quickAnswer (drop s) m false .ok)
    | none => quickAnswer (drop s) m false .ok

/-- The share of the request's contract names this window (R140). -/
def shareNames (s : State) (m : PeerReq) (w : WinId) : Bool :=
  match shareOf s m.src m.cidx with
  | some h => h.ctr.win == w
  | none => false

def homeIngress (s : State) (m : PeerReq) (island : Nat) : State :=
  let s := if m.poison then notePoison s 2 island m.sa else s
  if s.dev.stage == .containment then containReq s m
  else if !presented s then peerRefuse s m false 0xFF island
  else match homeOf s m.sa with
    | none => peerRefuse s m false 0xFF island
    | some (d, dla) =>
      if d ≠ devId s then peerRefuse (raise s 0x184 164 []) m false 0xFF island
      else match windowAt s dla with
        | none => peerRefuse s m false 0xFF island
        | some w =>
          if !rightsOk (winOf s w) m.rqk m.op then peerRefuse s m true w.toNat island
          else
            let c := if m.cls == .ash || !shareNames s m w then .ash else homeClass s w m.lcls m.cls
            let r := formReq s s.cache.nextReq m.op (.peer m.src m.tag) m.rqk m.hs m.sa dla w c
              (if m.cls == .ash then none else some (m.src, m.cidx)) (tinOf s m.tin) m.data m.be m.poison m.queue m.epoch
            run (arrive s { r with causeFault := m.via.isSome })

/-- A message whose opcode is none of Table 11-3 is discarded and counted (R330). -/
def unknownOp (s : State) : State :=
  raiseFirst { s with peer := { s.peer with discarded := s.peer.discarded + 1 } } 0x34A 164 []

def portOfPl (s : State) (l : Nat) : Nat := (plPort s l).getD 0

/-- A REQ that has arrived for this device. -/
def reqIn (s : State) (m : PeerReq) (island : Nat) : State := homeIngress (countRecv s m.src 0) m island

def doPeerReq (s : State) (l : Nat) (m : PeerReq) : State :=
  if !carries s l m.src then s
  else if m.op == .memInv .s then unknownOp s
  else if m.dst = devId s then reqIn s m (portOfPl s l)
  else transit s m.dst m.via (.req m) (deadlineOf m.cls true (tinOf s m.tin))

def execPeerReq (pl : PLink) (m : PeerReq) (s : State) : Host.Outcome State Fault Refusal :=
  actIf (plinkOk pl) s (fun s => doPeerReq s pl.toNat m)

-- ===== SNP at the attachment device (R335) =====

/-- In containment the back-invalidates are abandoned (R273). -/
def snpIn (s : State) (m : PeerSnp) : State :=
  let s := countRecv s m.src 1
  if s.dev.stage == .containment then s else snpArrive s m

def doPeerSnp (s : State) (l : Nat) (m : PeerSnp) : State :=
  if !carries s l m.src then s
  else if m.dst = devId s then snpIn s m
  else transit s m.dst m.via (.snp m) none

def execPeerSnp (pl : PLink) (m : PeerSnp) (s : State) : Host.Outcome State Fault Refusal :=
  actIf (plinkOk pl) s (fun s => doPeerSnp s pl.toNat m)

-- ===== RSP and DATA at their destination (R334, R336) =====

/-- RSQ values of a home that have been delivered (R336): the next one not yet delivered, and those ahead of it. -/
def advanceRsq : Nat → BitVec 16 → List (BitVec 16) → BitVec 16 × List (BitVec 16)
  | 0, n, l => (n, l)
  | f + 1, n, l => if l.contains n then advanceRsq f (n + 1) (l.filter (· != n)) else (n, l)

def noteRsq (s : State) (src : DevId) (rsq : BitVec 16) : State :=
  let l := rsq :: tget [] s.peer.rsqSeen src.toNat
  let (n, l) := advanceRsq (l.length + 1) (tget 0 s.peer.rsqRx src.toNat) l
  { s with peer := { s.peer with rsqRx := tput 0 s.peer.rsqRx src.toNat n, rsqSeen := tput [] s.peer.rsqSeen src.toNat l } }

/-- Every RSP and DATA message of the home with an earlier RSQ has been delivered. -/
def ackReady (s : State) (m : PeerRsp) : Bool := tget 0 s.peer.rsqRx m.src.toNat == m.rsq

/-- BIConflictAcks that wait for nothing more are delivered to their host links, in order. -/
def releaseAcks : Nat → State → State
  | 0, s => s
  | n + 1, s =>
    match takeFirst (ackReady s) s.peer.acks with
    | none => s
    | some (m, t) =>
      let s := noteRsq { s with peer := { s.peer with acks := t } } m.src m.rsq
      let s := match snoopLink s m.hs m.sa with
        | some l => conflictAck s l m.hs m.sa
        | none => s
      releaseAcks n s

/-- The failed part's status; a poisoned line is POISONED. -/
def badOf (m : PeerRsp) : Option JStatus := if m.poison then some .poisoned else if m.status == .ok then none else some m.status

/-- The refusal a response carries; poison is none. -/
def refusalOf (m : PeerRsp) : Option JStatus := if m.status == .ok || m.status == .poisoned then none else some m.status

/-- The response to a request of this device: to its host link, or to its requester (R334). -/
def originAnswer (s : State) (x : Txn) (m : PeerRsp) : State :=
  match x.org with
  | .host l mem t =>
    let data := rspClass m.op == 3
    let g := match m.op with
      | .cmp g => g
      | .memData g => g
      | _ => .none
    let s := if m.mismatch then (match x.cidx with
        | some i => contractCount s i 4
        | none => s) else s
    let s := if storing x.op && (match memberPort s l mem with
        | some p => (linkOf s p).ide
        | none => false) then
        modLink s ((memberPort s l mem).getD 0) (fun v => { v with unverified := v.unverified ++ [lineSa x.sa] })
      else s
    pushResp s
      { id := s.port.nextResp, req := none, link := l, member := mem, tag := t, kind := if data then .memData g else .cmp g,
        data := if m.poison then 0 else m.data, poison := m.poison, hs := x.hs, sa := x.sa,
        devload := if (hlinkOf s l).telem then m.devload else 0, cls := m.cls, cidx := if m.mismatch then none else x.cidx,
        tin := x.tin, waited := 0, hit := m.hit, home := m.src, fault := m.causeFault || x.fault || m.via.isSome,
        partner := m.causePartner, coherence := m.causeCoherence, rqc := m.rqc, xl := 0xFF, snooped := 0,
        deadline := deadlineOf m.cls true x.tin, inFlit := false, left := false, queued := s.now, rsq := some (m.src, m.rsq) }
  | .step b _ => stepAnswer s x.op x.sa b m.data (badOf m)
  | .fetch q => modQueue s q (fun v => { v with fetched := some ⟨x.sa, m.data, badOf m⟩ })
  | .record q j => recordDone s q j (badOf m)
  | .mgmt => emit s (.mgmtData x.sa m.data (mgmtStatus (refusalOf m)) m.poison)
  | .mbox l mem => mboxReply s l mem (poisonCode (refusalOf m)) []
  | .ring => if (refusalOf m).isNone then s else ringRefused s x.sa (mgmtStatus (refusalOf m))
  | .gone | .peer .. | .exam .. | .flush _ => s

/-- A message of class RSP or DATA that has arrived for this device. -/
def rspIn (s : State) (m : PeerRsp) (island : Nat) : State :=
  let s := countRecv s m.src (rspClass m.op)
  let s := if m.poison then notePoison s 2 island m.sa else s
  match m.op with
  | .biConflictAck =>
    let s := { s with peer := { s.peer with acks := s.peer.acks ++ [m] } }
    releaseAcks s.peer.acks.length s
  | op =>
    let s := noteRsq s m.src m.rsq
    let s := match op with
      | .birsp r => homeBirsp s m.hs m.tag r
      | .biConflict =>
        let s := if (snoopOf s m.hs m.tag).isSome then s else violation s m.hs true
        peerSend s m.src (.rsp { m with src := devId s, dst := m.src, via := none, resent := false, op := .biConflictAck, rsq := 0 }) none
      | .snoopWb _ =>
        (match snoopOf s m.hs m.tag with
         | some v => snoopWbHome s v m.data m.be m.poison
         | none => lateWrite s m.hs m.sa m.data m.be m.poison)
      | _ =>
        (match s.peer.txns.find? (fun x => x.tag == m.tag && x.dev == m.src) with
         | some x =>
           originAnswer { s with peer := { s.peer with txns := s.peer.txns.filter (fun y => !(y.tag == m.tag && y.dev == m.src)) } } x m
         | none => s)
    releaseAcks s.peer.acks.length s

def doPeerRsp (s : State) (l : Nat) (m : PeerRsp) (cls : Nat) : State :=
  if !carries s l m.src then s
  else if rspClass m.op ≠ cls then unknownOp s
  else if m.dst = devId s then rspIn s m (portOfPl s l)
  else transit s m.dst m.via (.rsp m) (deadlineDsl s m.dsl)

def execPeerRsp (pl : PLink) (m : PeerRsp) (s : State) : Host.Outcome State Fault Refusal :=
  actIf (plinkOk pl) s (fun s => doPeerRsp s pl.toNat m 2)

def execPeerData (pl : PLink) (m : PeerRsp) (s : State) : Host.Outcome State Fault Refusal :=
  actIf (plinkOk pl) s (fun s => doPeerRsp s pl.toNat m 3)

-- ===== salvage (R341) =====

/-- The message is unwrapped into its class's sink. -/
def doSalvage (s : State) (src : DevId) (w : SalvageMsg) : State :=
  if !s.peer.members.getLsbD src.toNat || src == devId s then s else
  let me := devId s
  match w with
  | .req m => if m.dst = me then reqIn s m 164 else s
  | .snp m => if m.dst = me then snpIn s m else s
  | .rsp m => if m.dst = me then rspIn s m 164 else s

def execSalvage (src : DevId) (m : SalvageMsg) (s : State) : Host.Outcome State Fault Refusal := act s (fun s => doSalvage (ctlIn s src) src m)

end Sys2Proof.Machine
end

