-- ==== Sys2Proof/Machine/Ports.lean ====
section
/-!
DEFINITION. Link ports and expanders: configuration, training, errors and retrain, host link reset and loss, expander states,
link control, and the end of start-up that waits for the expanders (10, R368 to R370).
-/

namespace Sys2Proof.Machine

-- ===== the end of start-up (R369, R370) =====

/-- Every expander link has reached EMPTY, READY or REJECTED, or the limit has passed. -/
def waitOver (s : State) : Bool :=
  s.dev.waitEnded || (List.range 32).all (fun x =>
    (leadsOf s .expander x).isEmpty || (match (xlinkOf s (BitVec.ofNat 5 x)).state with
      | .training | .enum => false
      | _ => true))

/-- Enables the windows whose image shows ENABLE = 1; one that fails R39 stays disabled (R369). -/
def bootWindows (s : State) : State :=
  (s.region.win.filter (fun p => p.2.enable && p.2.state == .disabled)).foldl (fun s p =>
    let w : WinId := BitVec.ofNat 6 p.1
    match tryEnable s w with
    | (t, .ok) => modWin t w (fun v => { v with lasterr := .ok })
    | (_, e) => raise (modWin s w (fun v => { v with enable := false, lasterr := e })) 0x183 164 [(2, p.1)]) s

/-- LOCAL_READY, and in standalone mode MEMORY_ACTIVE (R369, R370). -/
def tryLocalReady (s : State) : State :=
  if s.dev.stage != .memory || !s.dev.testDone || !waitOver s then s else
  let s := bootWindows (setStage s .localReady 5)
  if boardMode s then maybeReady s else enterActive s

-- ===== notes of a link change (R307, R506) =====

/-- Fault codes of a slot, lane 0 in bits [3:0]. -/
def faultBits (l : List (BitVec 4)) : Nat := l.foldr (fun (f : BitVec 4) n => f.toNat + 16 * n) 0

def linkEvent (s : State) (p cause : Nat) : State :=
  let s := modLink s p (fun v => { v with cause := BitVec.ofNat 8 cause })
  let v := linkOf s p
  let speed := match v.state with
    | .l0 | .ioOnly => v.speed
    | _ => 0
  raise s p p [(1, cause), (1, v.width), (1, speed), (8, faultBits v.faults)]

/-- A change of a link's ports is a capacity change (R165). -/
def linkCapacity (s : State) (p : Nat) : State :=
  match slotAt s p with
  | none => s
  | some (_, _, t) =>
    match t.role with
    | .host => capChange s (.hostLink (t.lnum.setWidth 3))
    | .expander => capChange s (.expander t.lnum)
    | .peer => (match (plinkOf s t.lnum.toNat).peer with
        | some d => capChange s (.peerLinks d)
        | none => s)
    | .idle => s

/-- Links are formed from the configuration and may train (R365, R368); in service mode every port is held idle (R360). -/
def portsLive (s : State) : Bool :=
  match s.dev.stage with
  | .power | .rom | .firmware | .service => false
  | _ => true

-- ===== training (R299 to R301) =====

/-- The fault codes a training starts from, one for each lane of the slot; code 5 lanes are good. -/
def slotLanes (w : Nat) (l : List (BitVec 4)) : List (BitVec 4) :=
  (List.range w).map (fun k => if l.getD k 0 == 5 then 0 else l.getD k 0)

def goodRun (l : List (BitVec 4)) (a n : Nat) : Bool := ((l.drop a).take n).all (· == 0) && a + n ≤ l.length

/-- R300: the widest width up to `most` with a good candidate set; true: the reversed set. -/
def chooseWidth (l : List (BitVec 4)) (most : Nat) : Option (Nat × Bool) :=
  ([16, 8, 4, 2, 1].filter (fun w => w ≤ most && w ≤ l.length)).findSome? (fun w =>
    if goodRun l 0 w then some (w, false) else if goodRun l (l.length - w) w then some (w, true) else none)

/-- Good lanes outside the chosen set become code 5 (Table 10-5). -/
def markOutside (l : List (BitVec 4)) (w : Nat) (rev : Bool) : List (BitVec 4) :=
  let a := if rev then l.length - w else 0
  (List.range l.length).map (fun k => if l.getD k 0 == 0 && (k < a || a + w ≤ k) then 5 else l.getD k 0)

/-- No lane has a receiver: every lane failed check 1 or 2. -/
def noReceiver (l : List (BitVec 4)) : Bool := l.all (fun f => f == 1 || f == 2 || f == 3)

def speedOk (n : BitVec 8) : Bool := n == 64 || n == 32 || n == 16

/-- The link starts to train: its lane faults are found afresh (R321). -/
def startTraining (s : State) (p : Nat) : State :=
  modLink s p (fun v => { v with state := .training, width := 0, speed := 0, reversed := false, faults := [], polarity := 0,
                                 events := 0, dropSpeed := 0, retrains := 0, draining := false })

/-- Every member of a host link that is down trains (R368). -/
def trainHost (s : State) (l : HLink) : State :=
  (leadsOf s .host l.toNat).foldl (fun s p =>
    match (linkOf s p).state with
    | .held | .empty | .down | .fault => startTraining s p
    | _ => s) s

def startX (s : State) (x : XLink) (reason : Nat) : State := setX (startTraining s (xPort s x)) x .training reason

/-- What a link that reached L0 with its protocol does next. -/
def linkUp (s : State) (t : Slot) (flit : BitVec 8) : State :=
  match t.role with
  | .host => s
  | .expander =>
    let s := setX s t.lnum .enum 0
    setXlink s t.lnum { xlinkOf s t.lnum with enumStart := s.now, flit := flit }
  | .peer => peerLinkUp s t.lnum.toNat
  | .idle => s

def trained (s : State) (p ports : Nat) (t : Slot) (r : TrainResult) : State :=
  let l := slotLanes (4 * ports) r.lanes
  if noReceiver l then
    let s := linkEvent (modLink s p (fun v => { v with state := .empty, faults := l })) p 0x0A
    if t.role == .expander then tryLocalReady (setX s t.lnum .empty 0) else s
  else match chooseWidth l (4 * ports) with
    | none => linkEvent (modLink s p (fun v => { v with state := .fault, faults := l })) p 0x0B
    | some (w, rev) =>
      let set := fun (st : LinkState) (v : LinkS) => { v with
        state := st, width := w, speed := r.speed.toNat, reversed := rev, faults := markOutside l w rev, polarity := r.polarity,
        flit := r.flitSize }
      if !r.protocolOk || !speedOk r.speed then
        let s := linkEvent (modLink s p (set .ioOnly)) p (if t.role == .peer then 9 else 8)
        if t.role == .expander then tryLocalReady (setX s t.lnum .rejected 7) else s
      else
        let s := linkCapacity (linkEvent (modLink s p (set .l0)) p 1) p
        linkUp s t r.flitSize

def doTrained (s : State) (p : Nat) (r : TrainResult) : State :=
  match slotAt s p with
  | none => s
  | some (_, ports, t) => if (linkOf s p).state != .training then s else trained s p ports t r

def execLinkTrainingComplete (p : Port) (r : TrainResult) (s : State) : Host.Outcome State Fault Refusal :=
  actTime s (fun s => doTrained s p.toNat r)

-- ===== a link goes down =====

def downState (s : State) (p cause : Nat) : State :=
  let s := modLink s p (fun v => { v with state := .down, width := 0, speed := 0, events := 0, dropSpeed := 0, ide := false,
                                          unverified := [], draining := false })
  downCapacity (linkEvent s p cause) p
where
  /-- The pass for an expander that is lost is that of R316, with reason EXPANDER_LOST. -/
  downCapacity (s : State) (p : Nat) : State :=
    match slotAt s p with
    | some (_, _, t) => if t.role == .expander && (xlinkOf s t.lnum).state != .removing then s else linkCapacity s p
    | none => s

/-- Requests that entered on a member are completed internally, and their responses are discarded (R310). -/
def goneHost (s : State) (l : HLink) (m : BitVec 2) : State :=
  let mine := fun (o : Origin) => ofHost l m o
  let gone := fun (o : Origin) => if mine o then .gone else o
  { s with
    cache := { s.cache with
      reqs := (s.cache.reqs.filter (fun r => !(mine r.org && r.phase == .egress))).map (fun r => { r with org := gone r.org }) }
    port := { s.port with resp := s.port.resp.filter (fun v => !(v.link == l && v.member == m)) }
    peer := { s.peer with txns := s.peer.txns.map (fun x => { x with org := gone x.org }) } }

/-- Every member of the link is down, or its PERST# is asserted (R310). -/
def goneLink (s : State) (l : HLink) : State :=
  let h := hlinkOf s l
  let s := setHlink s l { h with hdm := h.hdm.map (fun p => (p.1, { p.2 with committed := false })) }
  let s := { s with reg := { s.reg with muted := s.reg.muted.filter (· != l) } }
  { s with snoop := { s.snoop with
      table := s.snoop.table.filter (fun e => e.link != l)
      waiting := s.snoop.waiting.filter (fun m => (snoopLink s m.hs m.sa).isSome) } }

def hostDown (s : State) (l : HLink) (p cause : Nat) : State :=
  let m := memberOfPort s l p
  let s := goneHost (downState s p cause) l m
  run (if hostUp s l then s else goneLink s l)

def peerDown (s : State) (l p cause : Nat) (drained : Bool) : State := peerLinkLost (linkFault (downState s p cause) p) l drained

/-- States 2 to 6 of Table 10-7. -/
def xLosable (s : State) (x : XLink) : Bool := xlUp s x || (xlinkOf s x).state == .enum

def expanderDown (s : State) (x : XLink) (p cause reason : Nat) : State :=
  let s := downState s p cause
  if xLosable s x then tryLocalReady (loseExpander s x reason) else run s

/-- The data link layer of a member link went down, or a retrain took it down; `reason` for an expander (Table 10-12). -/
def wentDown (s : State) (p cause reason : Nat) : State :=
  match slotAt s p with
  | none => s
  | some (_, _, t) =>
    if !portUp s p && (linkOf s p).state != .ioOnly then s else
    match t.role with
    | .host => hostDown s (t.lnum.setWidth 3) p cause
    | .expander => expanderDown s t.lnum p cause reason
    | .peer => peerDown s t.lnum.toNat p cause false
    | .idle => s

def execMemberLinkDown (p : Port) (s : State) : Host.Outcome State Fault Refusal :=
  actTime s (fun s => wentDown s p.toNat 6 0x10)

def doPeerLinkDown (s : State) (l : Nat) : State :=
  match plPort s l with
  | some p => wentDown s p 6 0x10
  | none => s

def execPeerLinkDown (pl : PLink) (s : State) : Host.Outcome State Fault Refusal :=
  actTimeIf (plinkOk pl) s (fun s => doPeerLinkDown s pl.toNat)

/-- R316: the link goes down without a managed removal. -/
def doExpanderLoss (s : State) (x : XLink) : State :=
  if !xLosable s x then s else
  let p := xPort s x
  let s := if portUp s p then downState s p 6 else s
  tryLocalReady (loseExpander s x 0x10)

def execExpanderLoss (x : XLink) (s : State) : Host.Outcome State Fault Refusal := act s (fun s => doExpanderLoss s x)

/-- A completion timeout (R314): a read is answered with poison, a write is issued again; with too many of them in a second the link
is taken down. -/
def doXTimeout (s : State) (x : XLink) (rid : Nat) : State :=
  match xreqOf s x rid with
  | none => s
  | some r =>
    if since s r.issued < s.port.xTimeout.toNat * 1000 then s else
    match xTimedOut s x r with
    | (t, n) =>
      let t := if r.write then xWriteAgain t x r else xReadLost t x r (since s r.issued)
      if s.port.xLoss.toNat ≤ n then expanderDown t x (xPort t x) 6 0x12 else run t

def execExpanderCompletionTimeout (x : XLink) (rid : Nat) (s : State) : Host.Outcome State Fault Refusal :=
  act s (fun s => doXTimeout s x rid)

-- ===== PERST# and function-level reset (R291, R302, R310) =====

def countReset (s : State) (k : ResetKind) (n : Nat) : State :=
  { s with dev := { s.dev with lastReset := k, resets := tinc s.dev.resets n } }

/-- PERST# takes a member link down, and its requests are given up (R302, R310). -/
def perstMember (l : HLink) (s : State) (t : Nat × Nat) : State :=
  let s := if portUp s t.2 || (linkOf s t.2).state == .ioOnly then downState s t.2 5
    else modLink s t.2 (fun v => if v.state == .training then { v with state := .down } else v)
  goneHost s l (BitVec.ofNat 2 t.1)

def doPerstAssert (s : State) (l : HLink) : State :=
  if (hlinkOf s l).perst then s else
  let s := countReset (setHlink s l { hlinkOf s l with perst := true }) .perst 5
  run (goneLink ((membersOf s l).foldl (perstMember l) s) l)

def execPerstAssert (l : HLink) (s : State) : Host.Outcome State Fault Refusal := act s (fun s => doPerstAssert s l)

def doPerstDeassert (s : State) (l : HLink) : State :=
  let s := setHlink s l { hlinkOf s l with perst := false }
  if portsLive s then trainHost s l else s

def execPerstDeassert (l : HLink) (s : State) : Host.Outcome State Fault Refusal := act s (fun s => doPerstDeassert s l)

/-- The mailbox of a member function is reset: what it runs or waits for has no reply any more; a frame already with the engine is
executed, and its response is lost (R291). -/
def dropMailbox (s : State) (l : HLink) (m : BitVec 2) : State :=
  let mine := fun (k : HLink) (n : BitVec 2) => k == l && n == m
  let gone := fun (o : Origin) => if o == .mbox l m then Origin.gone else o
  { s with
    cache := { s.cache with reqs := s.cache.reqs.map (fun r => { r with org := gone r.org }) }
    peer := { s.peer with
      txns := s.peer.txns.map (fun x => { x with org := gone x.org })
      poisonAsk := s.peer.poisonAsk.filter (fun a => !mine a.link a.member) }
    hen := { s.hen with
      mbox := if tget (0 : BitVec 3) s.hen.mbox l.toNat == m.setWidth 3 + 1 then tput 0 s.hen.mbox l.toNat 5 else s.hen.mbox
      mwait := s.hen.mwait.filter (fun w => !mine w.link w.member) } }

/-- The mailbox, the MSI-X table and its pending bits, and AER status (R291). -/
def doFlr (s : State) (l : HLink) (m : BitVec 2) : State :=
  if !((membersOf s l).any (fun t => t.1 == m.toNat)) then s else
  let s := dropMailbox s l m
  countReset (setFn s l m { fnOf s l m with
    reply := [], msixEnable := false, msixMask := false, msixOpen := [], msixTable := [], msixPend := [], aer := 0 }) .flr 6

def execFunctionLevelReset (l : HLink) (member : BitVec 2) (s : State) : Host.Outcome State Fault Refusal :=
  act s (fun s => doFlr s l member)

-- ===== link errors and retrain (R303 to R307) =====

/-- The role of a lead port. -/
def roleAt (s : State) (p : Nat) : Role :=
  match slotAt s p with
  | some (_, _, t) => t.role
  | none => .idle

/-- A peer link is, or is no longer, available (R327, R339). -/
def peerChange (s : State) (p : Nat) : State := if roleAt s p == .peer then topology s else s

/-- The threshold is reached: expander links retrain at once, the others after a grace window (R305). -/
def thresholdRetrain (s : State) (p : Nat) : State :=
  if roleAt s p == .expander then startRetrain s p false
  else
    let s := modLink s p (fun v => { v with state := .grace, graceStart := s.now, graceSent := 0, graces := v.graces + 1 })
    peerChange (linkFault (raiseFirst s 0x0A0 p []) p) p

/-- A correctable event of a link: the flits are replayed, which excuses what uses the link (R159, R304). -/
def doCorrectable (s : State) (p : Nat) (nak : Bool) : State :=
  if !portUp s p || roleAt s p == .idle then s else
  let s := linkFault (modLink s p (fun v => { v with
    crc := if nak then v.crc else v.crc + 1, naks := if nak then v.naks + 1 else v.naks, events := v.events + 1 })) p
  if s.port.thr != 0 && s.port.thr.toNat ≤ (linkOf s p).events && (linkOf s p).state == .l0 then thresholdRetrain s p else s

def execCorrectableEvent (p : Port) (nak : Bool) (s : State) : Host.Outcome State Fault Refusal :=
  actTime s (fun s => doCorrectable s p.toNat nak)

/-- A multiple of the threshold window clears every link's counter. -/
def doWindowTick (s : State) : State :=
  let l := s.port.link.map (fun (q : Nat × LinkS) => (q.1, { q.2 with events := 0 }))
  { s with port := { s.port with link := l.filter (fun (q : Nat × LinkS) => q.2 != LinkS.init) } }

def execThresholdWindowTick (s : State) : Host.Outcome State Fault Refusal := act s doWindowTick

/-- An urgent flit waits at the egress of the port (R305, R333). -/
def urgentQueued (s : State) (p : Nat) : Bool :=
  match slotAt s p with
  | none => false
  | some (_, _, t) =>
    match t.role with
    | .host =>
      let l : HLink := t.lnum.setWidth 3
      let m := memberOfPort s l p
      s.port.resp.any (fun v => v.link == l && v.member == m && v.cls == .vermilion && !v.left)
    | .peer => s.peer.tx.any (fun x => urgentMsg x.msg && (plinkOf s t.lnum.toNat).peer == some x.dst)
    | _ => false

def doGraceWindowEnd (s : State) (p : Nat) : State :=
  let v := linkOf s p
  if v.state != .grace || !(16 ≤ v.graceSent || 200 ≤ since s v.graceStart || !urgentQueued s p) then s
  else startRetrain s p false

def execGraceWindowEnd (p : Port) (s : State) : Host.Outcome State Fault Refusal :=
  act s (fun s => doGraceWindowEnd s p.toNat)

def doUncorrectable (s : State) (p : Nat) : State :=
  if !portUp s p || roleAt s p == .idle then s else
  if (linkOf s p).state == .recovery then linkError s p else peerChange (linkError s p) p

def execUncorrectableLinkError (p : Port) (s : State) : Host.Outcome State Fault Refusal :=
  actTime s (fun s => doUncorrectable s p.toNat)

/-- Lanes that fail to regain lock become code 4; earlier faults stay (R306). -/
def relock (old found : List (BitVec 4)) (w : Nat) : List (BitVec 4) :=
  let o := slotLanes w old
  (List.range w).map (fun k => if o.getD k 0 != 0 then o.getD k 0 else if (slotLanes w found).getD k 0 != 0 then 4 else 0)

/-- The next speed down (R306). -/
def slower (n : Nat) : Nat := if n = 64 then 32 else 16

/-- The speed after a retrain (R306): what was found, at most the last speed, or the next one down when it drops. -/
def retrainSpeed (v : LinkS) (r : TrainResult) : Nat :=
  let most := if v.dropSpeed.getLsbD 1 then slower v.speed else v.speed
  if speedOk r.speed && r.speed.toNat < most then r.speed.toNat else most

/-- What was held toward ports that take transfers again is delivered, oldest first (R15, R306). -/
def deliverHeld (s : State) : State :=
  let s := plList.foldl releaseCtl s
  let s := (s.cache.xreqs.filter (fun r => !r.sent)).foldl (fun s r =>
    if portHeld s (xPort s r.xl) then s else
    emit { s with cache := { s.cache with
      xreqs := mapIf (fun q => q.rid == r.rid) (fun q => { q with sent := true, issued := s.now }) s.cache.xreqs } } (xOut r)) s
  (s.snoop.table.filter (fun e => !e.sent)).foldl (fun s e =>
    if memberHeld s e.link (snoopMember s e.link e.sa) then s else
    snpOut { s with snoop := { s.snoop with
      table := s.snoop.table.map (fun x => if x == e then { x with sent := true } else x) } } e) s

/-- The time an Ash response waited for its link to return is not counted against the starvation ceiling (R152). -/
def retrainWait (s : State) (p : Nat) : State :=
  let t := (linkOf s p).retrainStart
  let l := mapIf (fun (v : Resp) => memberPort s v.link v.member == some p && !v.left)
    (fun v => { v with waited := v.waited + since s (if t < v.queued then v.queued else t) }) s.port.resp
  { s with port := { s.port with resp := l } }

/-- The link is back in L0 at width `w` and speed `speed`; a narrower width and a lower speed are noted (R306, R307). -/
def relocked (s : State) (p : Nat) (l : List (BitVec 4)) (w : Nat) (rev : Bool) (speed : Nat) : State :=
  let v := linkOf s p
  let s := setLink s p { v with state := .l0, width := w, reversed := rev, faults := markOutside l w rev, speed := speed,
                                events := 0, dropSpeed := if v.dropSpeed == 2 then 0 else if v.dropSpeed == 3 then 1 else v.dropSpeed }
  let s := if w != v.width then linkEvent s p 2 else s
  let s := if speed != v.speed then linkEvent s p 3 else s
  if w != v.width || speed != v.speed then linkCapacity s p else s

def doRetrained (s : State) (p : Nat) (r : TrainResult) : State :=
  match slotAt s p with
  | none => s
  | some (_, ports, _) =>
    let v := linkOf s p
    if v.state != .recovery then s else
    let l := relock v.faults r.lanes (4 * ports)
    match chooseWidth l v.width with
    | none => wentDown (modLink s p (fun v => { v with faults := l })) p 0x0B 0x10
    | some (w, rev) => deliverHeld (peerChange (relocked (retrainWait s p) p l w rev (retrainSpeed v r)) p)

def execRetrainComplete (p : Port) (r : TrainResult) (s : State) : Host.Outcome State Fault Refusal :=
  actTime s (fun s => doRetrained s p.toNat r)

def doRetrainTimeout (s : State) (p : Nat) : State :=
  if (linkOf s p).state == .recovery && 24000000 ≤ since s (linkOf s p).retrainStart then wentDown s p 6 0x11 else s

def execRetrainTimeout (p : Port) (s : State) : Host.Outcome State Fault Refusal :=
  actTime s (fun s => doRetrainTimeout s p.toNat)

-- ===== IDE (R297, R298) =====

def doIdeKeys (s : State) (l : HLink) (m : BitVec 2) : State :=
  match memberPort s l m with
  | some p => if (linkOf s p).state == .l0 then modLink s p (fun v => { v with ide := true, unverified := [] }) else s
  | none => s

def execIdeKeyProgramming (l : HLink) (member : BitVec 2) (s : State) : Host.Outcome State Fault Refusal :=
  act s (fun s => doIdeKeys s l member)

/-- The lines that a write since the last verified MAC was performed to. How many of the writes the last MAC covered is not
given: a free value. -/
def unverifiedLines (s : State) (p : Nat) : List SA :=
  let l := (linkOf s p).unverified
  (l.drop ((Config.freeValue s.freeCount).toNat % (l.length + 1))).eraseDups

/-- Each line is written with poison at its home (R298). -/
def poisonLines (s : State) (l : List SA) : State :=
  l.foldl (fun s sa => (ncIssue s .ncWrite .gone .deviceWork sa 0 (BitVec.allOnes 64) true 0 0).1) s

def doIdeFailure (s : State) (p : Nat) : State :=
  if !portUp s p || !(linkOf s p).ide then s else
  wentDown (poisonLines (raise (raiseFirst (takeFree s) 0x0A1 p []) 0x0A2 p []) (unverifiedLines s p)) p 7 0x10

def execIdeIntegrityFailure (p : Port) (s : State) : Host.Outcome State Fault Refusal :=
  actTime s (fun s => doIdeFailure s p.toNat)

-- ===== flits (R305, R308) =====

/-- The response that an urgent flit of a host link carries: Vermilion, earliest deadline first. -/
def urgentResp (l : List Resp) : Option Resp :=
  l.foldl (fun (b : Option Resp) v => match b with
    | none => some v
    | some u => (match v.deadline, u.deadline with
        | some x, some y => if x.toNat < y.toNat then some v else b
        | _, _ => b)) none

/-- A flit of a host member: in L0 every response that is queued takes its slot; in a grace window one urgent flit. -/
def hostFlit (s : State) (p : Nat) (l : HLink) : State :=
  let m := memberOfPort s l p
  let mine := fun (v : Resp) => v.link == l && v.member == m && !v.left && !v.inFlit
  let v := linkOf s p
  let put := fun (s : State) (f : Resp → Bool) =>
    { s with port := { s.port with resp := mapIf f (fun r => { r with inFlit := true }) s.port.resp } }
  match v.state with
  | .l0 => put s mine
  | .grace =>
    if 16 ≤ v.graceSent || 200 < since s v.graceStart then s else
    (match urgentResp (s.port.resp.filter (fun r => mine r && r.cls == .vermilion)) with
     | none => s
     | some r =>
       put (modLink s p (fun v => { v with graceSent := v.graceSent + 1, urgent := v.urgent + 1 })) (fun x => x.id == r.id))
  | _ => s

/-- A flit of a peer link (R328, R333); the urgent ones of a grace window are counted. -/
def peerPortFlit (s : State) (p l : Nat) : State :=
  let v := linkOf s p
  match v.state with
  | .l0 => (peerFlit s l false).1
  | .grace =>
    if 16 ≤ v.graceSent || 200 < since s v.graceStart then s else
    (match peerFlit s l true with
     | (t, true) => modLink t p (fun v => { v with graceSent := v.graceSent + 1, urgent := v.urgent + 1 })
     | (t, false) => t)
  | _ => s

/-- An egress starts a flit once the cut-through threshold of its bytes has been assembled (R308); a port island whose PLL
has lost lock is held (R373). -/
def doFlit (s : State) (p : Nat) (assembled : Nat) : State :=
  if assembled < s.port.cut.toNat || s.clk.unlocked.contains p then s else
  match slotAt s p with
  | none => s
  | some (_, _, t) =>
    match t.role with
    | .host => hostFlit s p (t.lnum.setWidth 3)
    | .peer => peerPortFlit s p t.lnum.toNat
    | _ => s

def execFlitTransmit (p : Port) (assembled : BitVec 9) (s : State) : Host.Outcome State Fault Refusal :=
  act s (fun s => doFlit s p.toNat assembled.toNat)

-- ===== expanders (R311 to R317) =====

/-- Detection is repeated while the link is empty. -/
def doDetect (s : State) (x : XLink) (receiver : Bool) : State :=
  if receiver && portsLive s && !(leadsOf s .expander x.toNat).isEmpty && (xlinkOf s x).state == .empty then startX s x 0 else s

def execExpanderDetectPoll (x : XLink) (receiver : Bool) (s : State) : Host.Outcome State Fault Refusal :=
  act s (fun s => doDetect s x receiver)

/-- The first requirement of R312 and R313 that fails (Table 10-12); 0 none. -/
def enumReason (s : State) (x : XLink) (r : XIdent) : Nat :=
  if 1000000000 < since s (xlinkOf s x).enumStart then 5
  else if !r.type3 then 1
  else if r.switchOrMld then 2
  else if r.capacity.toNat < 2 ^ 30 then 3
  else if !r.decoderOk then 4
  else if (xlinkOf s x).idepol == 2 && !r.ideCapable then 6
  else 0

/-- What an accepted expander said of itself, and whether its link runs IDE (R312 to R314). -/
def identified (s : State) (x : XLink) (r : XIdent) : State :=
  let v := xlinkOf s x
  let ide := v.idepol != 0 && r.ideCapable
  let s := setXlink s x { v with serial := r.serial, capacity := BitVec.ofNat 32 (r.capacity.toNat / 2 ^ 30),
                                 version := r.cxlVersion, flit := r.flitSize, ide := ide }
  modLink s (xPort s x) (fun v => { v with ide := ide })

def doEnumerated (s : State) (x : XLink) (r : XIdent) : State :=
  let v := xlinkOf s x
  if v.state != .enum then s else
  match enumReason s x r with
  | 0 =>
    tryLocalReady (setX (identified s x r) x .ready 0)
  | n =>
    -- step 2 of R312 comes before what these reasons find
    let s := if n = 3 || n = 4 || n = 6 then setXlink s x { v with serial := r.serial } else s
    tryLocalReady (setX s x .rejected n)

def execEnumerationComplete (x : XLink) (r : XIdent) (s : State) : Host.Outcome State Fault Refusal :=
  act s (fun s => doEnumerated s x r)

def doEnumTimeout (s : State) (x : XLink) : State :=
  if (xlinkOf s x).state == .enum && 1000000000 ≤ since s (xlinkOf s x).enumStart then tryLocalReady (setX s x .rejected 5) else s

def execEnumTimeout (x : XLink) (s : State) : Host.Outcome State Fault Refusal := act s (fun s => doEnumTimeout s x)

def doReceiverGone (s : State) (x : XLink) : State :=
  if (xlinkOf s x).state == .rejected then
    let s := modLink s (xPort s x) (fun v => { v with state := .empty, width := 0, speed := 0 })
    setX s x .empty 0
  else s

def execReceiverDisappears (x : XLink) (s : State) : Host.Outcome State Fault Refusal := act s (fun s => doReceiverGone s x)

/-- A receiver appears on a LOST link (R317). -/
def doExpanderReturns (s : State) (x : XLink) : State :=
  if (xlinkOf s x).state == .lost && portsLive s then startX s x 0 else s

def execExpanderReturns (x : XLink) (s : State) : Host.Outcome State Fault Refusal := act s (fun s => doExpanderReturns s x)

/-- R315: every window that targets the link is disabled. -/
def untargeted (s : State) (x : XLink) : Bool := !(s.region.win.any (fun p => p.2.state != .disabled && p.2.geo.xl == x))

def dropAssay (s : State) (x : XLink) : State :=
  { s with contract := { s.contract with assaying := s.contract.assaying.filter (fun a => a.1 != x) } }

/-- A write of 0x10:0042; a link that is not up has no removal (Table 10-7). -/
def removalOp (s : State) (x : XLink) : Ans :=
  if !xlUp s x then (s, .range, 0)
  else if !untargeted s x then (s, .quiesceRequired, 0)
  else (dropAssay (setX s x .removing 0x14) x, .ok, 0)

def execManagedRemoval (acc : Accessor) (x : XLink) (s : State) : Host.Outcome State Fault Refusal :=
  act s (fun s => front s acc plainGate noNote (fun s => removalOp s x))

/-- Outstanding requests have finished: LTSSM Disabled, then DISABLED. -/
def doRemoved (s : State) (x : XLink) : State :=
  if (xlinkOf s x).state != .removing || s.cache.xreqs.any (fun r => r.xl == x) then s else
  setX (downState s (xPort s x) 4) x .disabled 0x14

def execManagedRemovalComplete (x : XLink) (s : State) : Host.Outcome State Fault Refusal := act s (fun s => doRemoved s x)

/-- An AER message is logged with the link (R288, Table 10-3). -/
def doAer (s : State) (x : XLink) (sev : BitVec 2) (status : BitVec 32) : State :=
  if !xLosable s x then s else setXlink s x { xlinkOf s x with aer := (sev, status) :: (xlinkOf s x).aer }

def execAerReceived (x : XLink) (sev : BitVec 2) (status : BitVec 32) (s : State) : Host.Outcome State Fault Refusal :=
  act s (fun s => doAer s x sev status)

-- ===== link control (R321, R342) =====

/-- Taking the peer link down would leave two members without a route (R342). -/
def wouldSplit (s : State) (l : Nat) : Bool :=
  let me := devId s
  match (plinkOf s l).peer with
  | none => false
  | some d =>
    let mem := if committed s then memberList s else domainDevs s
    let left := unitsOf s ((bundleTo s d).filter (· != l))
    let units := fun (a b : DevId) => if (a == me && b == d) || (a == d && b == me) then left else dbUnits s a b
    let ok := fun (a b : DevId) => units a b != 0 || mem.any (fun v => v != a && v != b && units a v != 0 && units v b != 0)
    allPairs mem (pairRoute s mem) && !allPairs mem ok

def linkDownOp (s : State) (role : Role) (num : Byte) : Ans :=
  let n := num.toNat
  if role == .idle || 32 ≤ n || (leadsOf s role n).isEmpty then (s, .range, 0) else
  match role with
  | .host =>
    ((leadsOf s .host n).foldl (fun s p =>
      if portUp s p || (linkOf s p).state == .ioOnly then hostDown s (BitVec.ofNat 3 n) p 4
      else modLink s p (fun v => { v with state := .down })) s, .ok, 0)
  | .expander =>
    let x : XLink := BitVec.ofNat 5 n
    if !untargeted s x then (s, .quiesceRequired, 0)
    else if xlUp s x && s.cache.xreqs.any (fun r => r.xl == x) then (dropAssay (setX s x .removing 0x14) x, .ok, 0)
    else if portUp s (xPort s x) then (tryLocalReady (setX (downState (dropAssay s x) (xPort s x) 4) x .disabled 0x14), .ok, 0)
    else (tryLocalReady (setX (modLink s (xPort s x) (fun v => { v with state := .down })) x .disabled 0x14), .ok, 0)
  | .peer =>
    if wouldSplit s n then (s, .range, 0)
    else match plPort s n with
      | some p =>
        if portUp s p then (topology (modLink s p (fun v => { v with draining := true })), .ok, 0)
        else (modLink s p (fun v => { v with state := .down }), .ok, 0)
      | none => (s, .range, 0)
  | .idle => (s, .range, 0)

def execLinkDownCommand (acc : Accessor) (role : Role) (num : Byte) (s : State) : Host.Outcome State Fault Refusal :=
  actTime s (fun s => front s acc plainGate noNote (fun s => linkDownOp s role num))

/-- The replay buffer is empty: the link goes down with nothing to reconcile. -/
def doDrained (s : State) (l : Nat) : State :=
  match plPort s l with
  | some p => if (linkOf s p).draining then peerDown s l p 4 true else s
  | none => s

def execPeerLinkDrained (pl : PLink) (s : State) : Host.Outcome State Fault Refusal :=
  actTimeIf (plinkOk pl) s (fun s => doDrained s pl.toNat)

/-- The member link may start a full training: it is down, empty, or did not train. -/
def trainable (s : State) (p : Nat) : Bool :=
  match (linkOf s p).state with
  | .held | .empty | .down | .fault => true
  | _ => false

def linkTrainOp (s : State) (role : Role) (num : Byte) : Ans :=
  let n := num.toNat
  let leads := leadsOf s role n
  if role == .idle || 32 ≤ n || leads.isEmpty then (s, .range, 0)
  else if !portsLive s then (s, .quiesceRequired, 0)
  else match role with
    | .host =>
      if (hlinkOf s (BitVec.ofNat 3 n)).perst || !leads.any (trainable s) then (s, .quiesceRequired, 0)
      else (trainHost s (BitVec.ofNat 3 n), .ok, 0)
    | .expander =>
      let x : XLink := BitVec.ofNat 5 n
      if trainable s (xPort s x) || (xlinkOf s x).state == .rejected then (startX s x 0x14, .ok, 0) else (s, .quiesceRequired, 0)
    | .peer =>
      (match plPort s n with
       | some p => if trainable s p then (startTraining s p, .ok, 0) else (s, .quiesceRequired, 0)
       | none => (s, .range, 0))
    | .idle => (s, .range, 0)

def execLinkTrainCommand (acc : Accessor) (role : Role) (num : Byte) (s : State) : Host.Outcome State Fault Refusal :=
  act s (fun s => front s acc plainGate noNote (fun s => linkTrainOp s role num))

-- ===== configuration (R284 to R286, R293) =====

def rawSlots (q : Tab (BitVec 32)) : List (Nat × Nat × Slot) :=
  (q.flatMap (fun e => (slotsOf e.2).map (fun t => (4 * e.1 + t.1, t.2.1, t.2.2)))).filter (fun t => t.2.2.role != .idle)

/-- Slot field `n` of a record. -/
def slotField (r : BitVec 32) (n : Nat) : BitVec 7 := (r >>> (3 + 7 * n)).setWidth 7

/-- The slots that BIF leaves unused are 0, and BIF is listed (Table 10-2). -/
def recordOk (r : BitVec 32) : Bool :=
  r.toNat % 8 ≤ 4 && !r.getLsbD 31 &&
  (List.range 4).all (fun n => (slotsOf r).any (fun t => t.1 == n) || slotField r n == 0)

/-- R285 conditions 1 to 5. -/
def quadSetOk (q : Tab (BitVec 32)) : Bool :=
  let l := rawSlots q
  let lim := fun (r : Role) => match r with
    | .host => 7 | .expander => 31 | .peer => 13 | .idle => 31
  let one := fun (r : Role) =>
    let ns := (l.filter (fun t => t.2.2.role == r)).map (fun t => t.2.2.lnum)
    ns.eraseDups.length == ns.length
  q.all (fun e => recordOk e.2) &&
  l.all (fun t => t.2.2.lnum.toNat ≤ lim t.2.2.role) &&
  one .expander && one .peer &&
  (List.range 8).all (fun n =>
    let m := l.filter (fun t => t.2.2.role == .host && t.2.2.lnum.toNat == n)
    let c := m.length
    (c == 0 || c == 1 || c == 2 || c == 4) &&
    (match m with
     | [] => true
     | a :: _ => m.all (fun t => t.2.1 == a.2.1 && t.1 / 32 == a.1 / 32)))

/-- A slot of the quad is up or training (R286). -/
def quadBusy (s : State) (q : Nat) : Bool :=
  (List.range 4).any (fun k => portUp s (4 * q + k) ||
    (match (linkOf s (4 * q + k)).state with
     | .training | .ioOnly => true
     | _ => false))

def quadWriteOp (s : State) (q : Nat) (value : BitVec 32) : Ans :=
  let new := tput 0 s.port.quad q value
  if !quadSetOk new then (s, .range, 0)
  else if quadBusy s q then (s, .quiesceRequired, 0)
  else
    let s := { s with port := { s.port with quad := new } }
    ((List.range 4).foldl (fun s k => modLink s (4 * q + k) (fun v => { v with
      state := .held, width := 0, speed := 0, reversed := false, faults := [], polarity := 0, cause := 0 })) s, .ok, 0)

def execQuadConfigWrite (acc : Accessor) (q : Quad) (value : BitVec 32) (s : State) : Host.Outcome State Fault Refusal :=
  act s (fun s => front s acc critGate noNote (fun s => quadWriteOp s q.toNat value))

/-- Table 10-4 as it reads. -/
def hostParam (v : HLinkS) : BitVec 32 :=
  BitVec.ofNat 32 (b2n v.telem * 512 + b2n v.idereq * 256 + v.hsock.toNat * 4 + classCode v.cls)

def hostParamOp (s : State) (l : HLink) (value : BitVec 32) : Ans :=
  let v := hlinkOf s l
  let hs : HostSock := (value >>> 2).setWidth 4
  let cls := classOf (value.setWidth 2)
  if hs != v.hsock && hostUp s l then (s, .quiesceRequired, 0)
  else
    let s := setHlink s l { v with telem := value.getLsbD 9, idereq := value.getLsbD 8, hsock := hs, cls := cls }
    (if cls != v.cls then capChange s (.linkClass l) else s, .ok, 0)

def execHostLinkParamWrite (acc : Accessor) (l : HLink) (value : BitVec 32) (s : State) : Host.Outcome State Fault Refusal :=
  act s (fun s => front s acc critGate noNote (fun s => hostParamOp s l value))

-- ===== HDM decoders (R292) =====

def hdmOk (s : State) (l : HLink) (i : Nat) (d : Hdm) : Bool :=
  let others := (List.range 4).filter (· != i)
  let t := setHlink s l { hlinkOf s l with hdm := tput Hdm.init (hlinkOf s l).hdm i d }
  d.base.toNat % 2 ^ 28 = 0 && d.size.toNat % 2 ^ 28 = 0 &&
  others.all (fun j =>
    let e := hdmOf s l j
    !e.committed || d.base.toNat + d.size.toNat ≤ e.base.toNat || e.base.toNat + e.size.toNat ≤ d.base.toNat) &&
  d.iw.toNat == (membersOf s l).length && d.ig.toNat ≤ 6 && dpaBase t l i + d.size.toNat ≤ 2 ^ 48

def doHdmCommit (s : State) (l : HLink) (i : Nat) (d : Hdm) : State :=
  let ok := hdmOk s l i d
  run (setHlink s l { hlinkOf s l with hdm := tput Hdm.init (hlinkOf s l).hdm i { d with committed := ok, notCommitted := !ok } })

def execHdmDecoderCommit (l : HLink) (i : BitVec 2) (base size skip : BitVec 64) (iw ig : BitVec 4) (s : State) :
    Host.Outcome State Fault Refusal :=
  act s (fun s => doHdmCommit s l i.toNat
    { base := base, size := size, skip := skip, iw := iw, ig := ig, committed := false, notCommitted := false })

-- ===== configuration requests (R290, R301, R368) =====

/-- Sizes of BAR0, BAR2 and BAR4 (R290). -/
def barSize (n : Nat) : Nat := if n = 0 then 2 ^ 26 else if n = 1 then 2 ^ 25 else 2 ^ 24

/-- A doubleword of configuration space: the class code and the BARs; the spec gives no other value. -/
def configDword (f : FnS) (off : Nat) (free : Nat) : BitVec 32 :=
  let bar := fun (n : Nat) => tget (0 : BitVec 64) f.bar n
  if off = 8 then BitVec.ofNat 32 (0x050210 * 256) ||| ((Config.freeValue free).setWidth 8).setWidth 32
  else if off = 0x10 then (bar 0).setWidth 32 ||| 0xC else if off = 0x14 then (bar 0 >>> 32).setWidth 32
  else if off = 0x18 then (bar 1).setWidth 32 ||| 0xC else if off = 0x1C then (bar 1 >>> 32).setWidth 32
  else if off = 0x20 then (bar 2).setWidth 32 ||| 0xC else if off = 0x24 then (bar 2 >>> 32).setWidth 32
  else (Config.freeValue free).setWidth 32

def doConfigRequest (s : State) (l : HLink) (m : BitVec 2) (r : CfgReq) : State :=
  match memberPort s l m with
  | none => s
  | some p =>
    let io := (linkOf s p).state == .ioOnly
    if !((memberUp s l m || io) && !(hlinkOf s l).perst) then s
    else if s.dev.stage == .power || s.dev.stage == .rom then emit s (.crs l m)
    else
      let f := fnOf s l m
      match r with
      | .read off => emit (takeFree s) (.cpl l m [configDword f (off.toNat / 4 * 4) s.freeCount])
      | .barWrite n base =>
        let n := min n.toNat 2
        let v := BitVec.ofNat 64 (base.toNat / barSize n * barSize n)
        emit (setFn s l m { f with bar := tput 0 f.bar n v }) (.cpl l m [])
      | .memEnable on => emit (setFn s l m { f with memEnable := on && !io }) (.cpl l m [])
      | .msixControl en mask => emit (msixFlush (setFn s l m { f with msixEnable := en, msixMask := mask }) l m) (.cpl l m [])

def execConfigurationRequest (l : HLink) (member : BitVec 2) (r : CfgReq) (s : State) : Host.Outcome State Fault Refusal :=
  act s (fun s => doConfigRequest s l member r)

end Sys2Proof.Machine
end

