-- ==== Sys2Proof/Machine/Events.lean ====
section
/-!
DEFINITION. The event unit: raises, records, acknowledgement, routing, MSI-X and out-of-band subscribers (16).
-/

namespace Sys2Proof.Machine

-- ===== records (R454) =====

/-- TIMEFREE of a record made now: board mode, and sync state not locked. -/
def timeFree (s : State) : Bool := boardMode s && s.peer.sync != .locked

/-- Table 16-2; `lost` is LOSTBEFORE, which only a copy to a subscriber carries. -/
def recordOf (s : State) (r : EvRec) (lost : Bool) : List Byte :=
  let flags := (if r.timefree then 2 else 0) + (if lost then 4 else 0)
  leBytes 4 r.seq.toNat ++ leBytes 2 r.raise.event.toNat ++ [BitVec.ofNat 8 (devId s).toNat, BitVec.ofNat 8 flags] ++
  leBytes 8 r.raise.time.toNat ++ leBytes 2 r.raise.island.toNat ++ [0, 0] ++ leBytes 4 r.count.toNat ++
  (r.raise.payload ++ List.replicate 40 0).take 40

/-- An event frame (R463). -/
def eventFrame (s : State) (r : EvRec) (lost : Bool) : List Byte :=
  let head : List Byte := [0xA7, 0x10, 0x03, 0] ++ leBytes 2 r.seq.toNat ++ leBytes 2 64 ++ recordOf s r lost
  head ++ leBytes 4 (crc32c head).toNat

-- ===== signalling (R453, R459, R463) =====

/-- The member a message of a host link leaves on: the lowest-numbered that is up. -/
def firstUp (s : State) (l : HLink) : Option (BitVec 2) :=
  ((List.range 4).find? (fun m => memberUp s l (BitVec.ofNat 2 m))).map (BitVec.ofNat 2 ·)

def signalLink (s : State) (vec : Nat) (l : Nat) : State :=
  match firstUp s (BitVec.ofNat 3 l) with
  | some m => msix s (BitVec.ofNat 3 l) m vec
  | none => s

/-- One MSI-X message on each host link of LINKMASK that has an up member. -/
def signalMsi (s : State) (e : Nat) : State :=
  let r := tget 0 s.evt.route e
  if !r.getLsbD 11 then s else (bitsOf ((r >>> 16).setWidth 8 : BitVec 8)).foldl (fun s l => signalLink s (r.toNat % 2048) l) s

/-- Number of a transport in 0x78:0050. -/
def transportNo : Transport → Nat
  | .mailbox | .bar0 => 0 | .mctpPcie => 1 | .i3c => 2 | .console => 3

/-- A frame for a subscriber: queued for I3C with an in-band interrupt (R407), sent on the console, or dropped. -/
def sendEvent (s : State) (r : EvRec) (b : Subscriber) : State :=
  let put := fun (s : State) (v : Subscriber) =>
    { s with hen := { s.hen with subs := s.hen.subs.map (fun x => if x.acc == b.acc then v else x) } }
  let frame := eventFrame s r b.lost
  if b.acc.transport == .console then
    if s.hen.conOn then emit (put s { b with lost := false }) (.event b.acc frame)
    else raiseFirst (put s { b with lost := true }) 0x3D0 164 [(1, 3), (1, b.acc.eid.toNat)]
  else if 32 ≤ b.queue.length then
    raiseFirst (put s { b with lost := true }) 0x3D0 164 [(1, transportNo b.acc.transport), (1, b.acc.eid.toNat)]
  else emit (put s { b with queue := b.queue ++ [frame], lost := false }) .ibi

def signalSubs (s : State) (r : EvRec) : State :=
  s.hen.subs.foldl (fun s b => if b.mask.getLsbD r.raise.event.toNat then sendEvent s r b else s) s

-- ===== a raise reaches the event unit (R451, R456) =====

/-- Counts the raise, writes its record, and signals if the source was acknowledged. -/
def takeRaise (s : State) (r : Raise) : State :=
  let e := r.event.toNat
  let src := evSrc s e
  let v : EvRec := { seq := s.evt.nextSeq, raise := r, count := src.count + 1, timefree := timeFree s }
  let s := { s with evt := { s.evt with
    src := tput EvSrc.init s.evt.src e ⟨src.count + 1, r.time, false⟩
    ring := v :: s.evt.ring.take 1023
    nextSeq := s.evt.nextSeq + 1 } }
  let s := countDev s 0x10E 0
  if src.acked then signalSubs (signalMsi s e) v else s

/-- A mark request that the island sent before its raises has not arrived (R19). -/
def markFirst (s : State) (island : Byte) : Bool := s.region.markReqs.any (fun m => m.island == island.toNat && m.ahead == 0)

/-- A raise that is more than 60 ns older has not arrived: the crossing takes at most that (R456). -/
def olderFirst (s : State) (r : Raise) : Bool := s.evt.raises.any (fun x => x.time.toNat + 60 < r.time.toNat)

/-- The oldest raise of an island has arrived. -/
def raiseIn (s : State) (island : Byte) (rest : List Raise) : State :=
  { s with
    evt := { s.evt with raises := rest }
    region := { s.region with
      markReqs := mapIf (fun m => m.island == island.toNat) (fun m => { m with ahead := m.ahead - 1 }) s.region.markReqs } }

/-- The oldest raise of an island arrives: what one island sends to island 164 on CTL keeps its order (R19); island 164 takes
nothing without its clock (R15, R373). -/
def doRaise (s : State) (island : Byte) : State :=
  if s.clk.unlocked.contains 164 || markFirst s island then s else
  match takeFirst (fun (r : Raise) => r.island == island) s.evt.raises with
  | none => s
  | some (r, rest) => if olderFirst s r then s else takeRaise (raiseIn s island rest) r

def execEventRaise (island : Byte) (s : State) : Host.Outcome State Fault Refusal :=
  actIf (islandOk island) s (fun s => doRaise s island)

-- ===== acknowledgement (R452) =====

def ackOp (s : State) (e : Nat) : Ans :=
  if 2048 ≤ e then (s, .range, 0) else
  let s := { s with evt := { s.evt with src := tmod EvSrc.init s.evt.src e (fun v => { v with acked := true }) } }
  (if e = 0x3C2 then { s with hen := { s.hen with discards := [] } } else s, .ok, 0)

def ackGate : Gate := { plainGate with off := some 0x40000 }

/-- EVT_ACK presents only its EVENT field. -/
def ackFront (s : State) (acc : Accessor) (e : Nat) : State :=
  front s acc ackGate noNote (fun s => ackOp s (if acc.transport == .bar0 then e % 2048 else e))

def execEventAcknowledge (acc : Accessor) (e : BitVec 16) (s : State) : Host.Outcome State Fault Refusal :=
  act s (fun s => ackFront s acc e.toNat)

-- ===== routing (R458) =====

/-- The reserved bits of a routing entry. -/
def routeRsv : BitVec 32 := 0xFF00F000

def routeOp (s : State) (e : Nat) (value : Nat) : Ans :=
  let v := BitVec.ofNat 32 value
  if 2 ^ 32 ≤ value || v &&& routeRsv != 0 then (s, .range, 0)
  else ({ s with evt := { s.evt with route := tput 0 s.evt.route e v } }, .ok, 0)

def routeGate (e : Nat) : Gate := { plainGate with off := some (0x44000 + 8 * e) }

/-- A BAR0 write of EVT_ROUTE_LO ignores the reserved bits (R464). -/
def routeFront (s : State) (acc : Accessor) (e : Nat) (value : BitVec 32) : State :=
  front s acc (routeGate e) noNote
    (fun s => routeOp s e (if acc.transport == .bar0 then value &&& ~~~routeRsv else value).toNat)

def execRoutingEntryWrite (acc : Accessor) (e : EventId) (value : BitVec 32) (s : State) : Host.Outcome State Fault Refusal :=
  act s (fun s => routeFront s acc e.toNat value)

-- ===== unmasking (R459) =====

/-- Clears or sets the mask bit of a table entry; a pending message of an unmasked entry is sent. -/
def maskEntry (s : State) (l : HLink) (m : BitVec 2) (vec : Nat) (masked : Bool) : State :=
  let f := fnOf s l m
  let others := f.msixOpen.filter (· != vec)
  msixFlush (setFn s l m { f with msixOpen := if masked then others else others ++ [vec] }) l m

def doUnmask (s : State) (l : HLink) (m : BitVec 2) (vec : Nat) : State :=
  if (membersOf s l).any (fun t => t.1 == m.toNat) then maskEntry s l m vec false else s

def execMsixUnmask (l : HLink) (member : BitVec 2) (vector : BitVec 11) (s : State) : Host.Outcome State Fault Refusal :=
  act s (fun s => doUnmask s l member vector.toNat)

end Sys2Proof.Machine
end

