-- ==== Sys2Proof/Machine/Observe.lean ====
section
/-!
DEFINITION. Counters, sampling, histograms and Seam (17), and the observation fuse (R448, R449).
-/

namespace Sys2Proof.Machine

-- ===== counters (R467 to R470) =====

def cntKey (b : Option Bench) (n : Nat) : Nat :=
  match b with
  | some b => b.toNat * 9 + n
  | none => 2304 + n

/-- The cycle counter of a bench, before it wraps: what was folded in, and the cycles since (R467, R372). -/
def cycles (s : State) (b : Bench) : Nat :=
  let c := cntOf s (b.toNat * 9 + 8)
  let from_ := max c.readAt.toNat (tget 0 s.dev.entry 1).toNat
  c.value.toNat + (if benchHeld s b then 0 else (s.now.toNat - from_) * clockOf s (clusterOf b) / 1000)

/-- Folds the cycles of a cluster's benches in, before its clock stops or after it has stood (`ran` false). -/
def foldCycles (s : State) (c : Nat) (ran : Bool) : State :=
  (List.range 16).foldl (fun s i =>
    let b : Bench := BitVec.ofNat 8 (c * 16 + i)
    let k := b.toNat * 9 + 8
    let v := cntOf s k
    let n := if ran then cycles s b else v.value.toNat
    setCnt s k { v with value := BitVec.ofNat 48 n, readAt := s.now, overs := v.overs || decide (2 ^ 48 ≤ n) }) s

/-- What a counter reads, and the sticky bit it has set. -/
def cntValue (s : State) (b : Option Bench) (n : Nat) : Nat :=
  match b with
  | some b => if n = 8 then cycles s b % 2 ^ 48 else (cntOf s (b.toNat * 9 + n)).value.toNat
  | none => (cntOf s (2304 + n)).value.toNat
def cntOver (s : State) (b : Option Bench) (n : Nat) : Bool :=
  match b with
  | some b => (cntOf s (b.toNat * 9 + n)).overs || (n == 8 && decide (2 ^ 48 ≤ cycles s b))
  | none => (cntOf s (2304 + n)).overs

/-- From `s` to `t`, a nanosecond later: each counter of event 0x010 adds the shared trackers in use once per cycle of its bench's
cluster clock (R469). -/
def occupancy (s t : State) : State :=
  (t.obs.cnt.filter (fun p => p.1 < 2304 && p.1 % 9 < 8 && selMatches p.2.sel 0x010 0)).foldl (fun t p =>
    let b : Bench := BitVec.ofNat 8 (p.1 / 9)
    addItems t b (p.1 % 9) (inPool t b .shared * (cycles t b - cycles s b))) t

/-- The largest QUAL that an event accepts (Tables 17-2 to 17-4); none: not an event of the kind. -/
def qualMax (bench : Bool) (e : Nat) : Option Nat :=
  if bench then
    if 1 ≤ e ∧ e ≤ 0x24 then
      some (if [1, 2, 3, 4, 5, 0xA, 0xC, 0xD, 0xF, 0x11, 0x17].contains e then 4 else 0)
    else none
  else if 0x101 ≤ e ∧ e ≤ 0x10F then
    some (if e = 0x102 || e = 0x103 then 11 else if e = 0x105 || e = 0x106 || e = 0x108 then 8 else if e = 0x107 then 4 else 0)
  else none

/-- R468; a selector that counts nothing may name no event. -/
def selOk (bench : Bool) (v : Nat) : Bool :=
  v < 2 ^ 16 &&
  ((v % 2 ^ 14 == 0 && v < 2 ^ 15) || (match qualMax bench (v % 1024) with
    | some m => (v / 1024) % 16 ≤ m
    | none => false))

/-- A write of selectors from counter `n` on; all of them must be in order. -/
def selectorOp (s : State) (b : Option Bench) (n : Nat) (vs : List Nat) : Ans :=
  if !vs.all (selOk b.isSome) then (s, .range, 0) else
  (((List.range vs.length).zip vs).foldl (fun s p =>
    let k := cntKey b (n + p.1)
    setCnt s k { cntOf s k with sel := BitVec.ofNat 32 p.2 }) s, .ok, 0)

def execSelectorWrite (acc : Accessor) (bench : Option Bench) (n : BitVec 4) (value : BitVec 32) (s : State) :
    Host.Outcome State Fault Refusal :=
  actIf (counterOk bench n) s (fun s =>
    front s acc plainGate noNote (fun s => selectorOp s bench n.toNat [value.toNat]))

/-- W1C of the sticky bits: bit 0 the cycle counter of a bench, bit k its counter k; of the device bit k counter k. -/
def overClear (s : State) (b : Option Bench) (v : Nat) : Ans :=
  ((List.range 16).foldl (fun s i =>
    if !v.testBit i then s else
    match b with
    | some b =>
      if i = 0 then
        let k := b.toNat * 9 + 8
        setCnt s k { cntOf s k with value := BitVec.ofNat 48 (cycles s b), readAt := s.now, overs := false }
      else if 8 < i then s
      else setCnt s (b.toNat * 9 + (i - 1)) { cntOf s (b.toNat * 9 + (i - 1)) with overs := false }
    | none => setCnt s (2304 + i) { cntOf s (2304 + i) with overs := false }) s, .ok, 0)

/-- The sticky bits as they read. -/
def overBits (s : State) (b : Option Bench) : Nat :=
  match b with
  | some b => leBits ((cntOver s (some b) 8) :: (List.range 8).map (cntOver s (some b)))
  | none => leBits ((List.range 16).map (cntOver s none))
where
  leBits (l : List Bool) : Nat := l.foldr (fun (x : Bool) n => 2 * n + (if x then 1 else 0)) 0

-- ===== sampling (R471, R472) =====

/-- The record of a crossing of a bench counter (Table 17-5); without a sample the fields up to RQK are 0. -/
def benchCrossing (s : State) (b : Bench) (p : Option (Req × Sample)) : State :=
  let lost := min (tget 0 s.obs.sampLost b.toNat).toNat 0xFFFF
  let s := { s with obs := { s.obs with sampLost := tput 0 s.obs.sampLost b.toNat 0 } }
  match p with
  | none => raise s 0x3F1 (clusterIsland b)
      [(8, 0), (8, 0), (2, 0), (2, 0), (1, 0), (1, 0), (1, 0), (1, 0), (2, lost), (1, 1)]
  | some (r, m) =>
    let src := match r.org with
      | .host l _ _ => l.toNat
      | _ => if isStep r then r.queue.toNat else 0xFFFF
    raise s 0x3F1 (clusterIsland b)
      [(8, r.sa.toNat), (8, r.tracked.toNat), (2, b.toNat), (2, src), (1, m.counter.toNat + 1), (1, classCode r.cls),
       (1, rqkCode r.rqk), (1, min (m.skid - 1) 32), (2, lost), (1, 0)]

def doCrossing (s : State) (b : Option Bench) (n : BitVec 4) : State :=
  match takeFirst (fun (c : Crossing) => c.bench == b && c.n == n) s.obs.cross with
  | none => s
  | some (c, rest) =>
    let s := { s with obs := { s.obs with cross := rest } }
    match b with
    | none => raise s 0x3F2 164 [(1, n.toNat)]
    | some b =>
      if !s.obs.sampling then benchCrossing s b none
      else
        let last := tget 0 s.obs.sampLast b.toNat
        if s.obs.pend.any (fun p => p.1 == b.toNat) || (last != 0 && since s last < 10000) then
          { s with obs := { s.obs with sampLost := tinc s.obs.sampLost b.toNat } }
        else { s with obs := { s.obs with pend := s.obs.pend ++ [(b.toNat, ⟨n, c.at_, 0⟩)] } }

def execSamplingCrossing (bench : Option Bench) (n : BitVec 4) (s : State) : Host.Outcome State Fault Refusal :=
  actIf (counterOk bench n) s (fun s => doCrossing s bench n)

/-- A bench's sample has been taken or given up. -/
def endSample (s : State) (b : Bench) : State :=
  { s with obs := { s.obs with
      pend := s.obs.pend.filter (fun p => p.1 != b.toNat)
      sampLast := tput 0 s.obs.sampLast b.toNat s.now } }

/-- The request sampled has taken its tracker since the crossing, at most 33 request events after it. -/
def doSample (s : State) (b : Bench) (id : Nat) : State :=
  match s.obs.pend.find? (fun p => p.1 == b.toNat), reqOf s id with
  | some (_, m), some r =>
    if atBench b r && r.pool.isSome && 1 ≤ m.skid && m.skid ≤ 33 && since s r.tracked ≤ since s m.at_ then
      endSample (benchCrossing s b (some (r, m))) b
    else s
  | _, _ => s

def execSampleTaken (b : Bench) (id : Nat) (s : State) : Host.Outcome State Fault Refusal := act s (fun s => doSample s b id)

def doSampleTimeout (s : State) (b : Bench) : State :=
  match s.obs.pend.find? (fun p => p.1 == b.toNat) with
  | some (_, m) => if 1000000 ≤ since s m.at_ then endSample (benchCrossing s b none) b else s
  | none => s

def execSampleTimeout (b : Bench) (s : State) : Host.Outcome State Fault Refusal := act s (fun s => doSampleTimeout s b)

/-- A write of 0x60:0030: PERIODLOG in byte 0, SAMPLE in byte 1 bit 0. -/
def samplingOp (s : State) (v : Nat) : Ans :=
  if 10 ≤ v % 256 && v % 256 ≤ 48 && v / 256 ≤ 1 then
    ({ s with obs := { s.obs with samplingLog := BitVec.ofNat 8 v, sampling := v / 256 == 1 } }, .ok, 0)
  else (s, .range, 0)

def execSamplingControlWrite (acc : Accessor) (value : BitVec 32) (s : State) : Host.Outcome State Fault Refusal :=
  act s (fun s => front s acc plainGate noNote (fun s => samplingOp s value.toNat))

-- ===== histograms (R477) =====

def histClearOp (s : State) (v : Nat) : Ans :=
  ({ s with obs := { s.obs with
      hist := if v.testBit 0 then [] else s.obs.hist
      xhist := if v.testBit 1 then [] else s.obs.xhist } }, .ok, 0)

def execHistogramClear (acc : Accessor) (value : BitVec 32) (s : State) : Host.Outcome State Fault Refusal :=
  act s (fun s => front s acc plainGate noNote (fun s => histClearOp s value.toNat))

-- ===== Seam: its buffer (R480 to R482) =====

def seamOf (s : State) : SeamS := s.obs.seam
def setSeam (s : State) (m : SeamS) : State := { s with obs := { s.obs with seam := m } }

/-- The export port is enabled. -/
def exportOn (m : SeamS) : Bool := m.exportSet.getLsbD 0

/-- LEN of a record type (Table 17-10). -/
def seamLen (t : Nat) : Nat := if t = 6 then 96 else if t = 8 then 80 else 32

def recLen (r : SeamRec) : Nat := 16 + r.body.length

/-- A record with its LEN as given. -/
def recBytes (r : SeamRec) (len : Nat) : List Byte :=
  leBytes 2 len ++ [r.type, r.flags] ++ leBytes 4 r.seq.toNat ++ leBytes 8 r.time.toNat ++ r.body

def bufBytes (m : SeamS) : Nat := (m.buf.map recLen).foldl (· + ·) 0

/-- Drops what every enabled sink has taken; with no sink enabled the buffer keeps its records. -/
def seamTrim (m : SeamS) : SeamS :=
  let k := if m.ringOn && exportOn m then min m.ringNext m.expNext
           else if m.ringOn then m.ringNext else if exportOn m then m.expNext else 0
  { m with buf := m.buf.drop k, ringNext := m.ringNext - k, expNext := m.expNext - k }

/-- Drops the oldest records until `need` bytes fit. -/
def seamMakeRoom (need : Nat) : Nat → SeamS → SeamS
  | 0, m => m
  | n + 1, m =>
    if bufBytes m + need ≤ 4194304 then m
    else seamMakeRoom need n { m with buf := m.buf.drop 1, ringNext := m.ringNext - 1, expNext := m.expNext - 1 }

-- ===== capture (R481, R482) =====

/-- Bytes `off` to `off + n - 1` of filter `i`. -/
def filterField (m : SeamS) (i off n : Nat) : Nat := leNat ((m.filters.drop (16 * i + off)).take n)

/-- Filter `i` passes the observation, its SAMPLE aside. -/
def filterPasses (m : SeamS) (i : Nat) (o : SeamObs) : Bool :=
  let t := o.type.toNat
  let f := filterField m i
  let sel := fun (mask n : Nat) => mask == 0 || mask.testBit n
  (f 0 2).testBit t &&
  (!(t ≤ 3) || sel (f 2 1) (classCode o.cls)) &&
  (!(t == 1 || t == 3) || sel (f 4 1) o.link.toNat) &&
  (!(t == 2 || (4 ≤ t && t ≤ 7)) || sel (f 6 2) o.cluster.toNat) &&
  (!(t == 1 || t == 3) || !((f 12 4).testBit 31) ||
    ((f 8 4) % 2 ^ 18 ≤ o.gib.toNat && o.gib.toNat ≤ (f 12 4) % 2 ^ 18))

/-- Counts the filters an observation passes, and says whether one captures it: the first of every 2^SAMPLE. -/
def filterAll (m : SeamS) (o : SeamObs) : SeamS × Bool :=
  (List.range 4).foldl (fun (a : SeamS × Bool) i =>
    if !filterPasses a.1 i o then a else
    let n := tget 0 a.1.filterCount i
    let k := filterField a.1 i 3 1
    ({ a.1 with filterCount := tput 0 a.1.filterCount i (n + 1) }, a.2 || n.toNat % 2 ^ k == 0)) (m, false)

/-- The latest value of island 166's copy whose low bits are the tag. -/
def seamTime (s : State) (tag : BitVec 16) : Time :=
  let copy := islandTime s 166
  copy - ((copy.setWidth 16 - tag : BitVec 16).setWidth 64)

/-- A record enters the buffer, behind a LOST record where some were dropped. -/
def seamStore (s : State) (type : Nat) (time : Time) (body : List Byte) : State :=
  let m := seamOf s
  let free := if timeFree s then 2 else 0
  let lost := m.lostSince != 0
  let l : List SeamRec := if lost then
      [{ type := 0x0E, flags := BitVec.ofNat 8 (1 + free), seq := m.seq, time := islandTime s 166,
         body := List.replicate 8 0 ++ leBytes 8 m.lostSince.toNat }] else []
  let r : SeamRec := { type := BitVec.ofNat 8 type, flags := BitVec.ofNat 8 free, seq := m.seq + (if lost then 1 else 0),
                       time := time, body := body }
  setSeam s { m with buf := m.buf ++ l ++ [r], seq := r.seq + 1, lostSince := 0, captured := m.captured + 1 }

/-- A record that finds no room is dropped and counted (R480, R487). -/
def seamDrop (s : State) : State :=
  let m := seamOf s
  let s := setSeam s { m with dropped := m.dropped + 1, lostSince := m.lostSince + 1 }
  raiseFirst s 0x3F4 166 [(8, (m.dropped + 1).toNat)]

/-- A step record as Table 17-11 lays it out: 64 bytes, the bytes that it does not list 0 (R483). -/
def stepLayout (kind owner queue epoch jobseq cursor remain estimate checkval status : Nat) : List Byte :=
  leBytes 1 kind ++ leBytes 1 owner ++ leBytes 2 queue ++ leBytes 1 epoch ++ [0] ++ leBytes 2 jobseq ++ leBytes 8 cursor ++
  leBytes 4 remain ++ leBytes 2 estimate ++ [0, 0] ++ leBytes 8 checkval ++ leBytes 8 status ++ List.replicate 24 0

def stepBytes (s : State) (t : StepRec) : List Byte :=
  stepLayout (kindCode t.kind) t.owner.toNat t.queue.toNat t.epoch.toNat t.jobseq.toNat (cursorAddr s t).toNat t.remain.toNat
    t.estimate.toNat t.checkval.toNat t.status.toNat

/-- The step that a STEP observation of phase 0, 1 or 3 is about: the newest of the bench's deque, or the one it runs. -/
def seenStep (s : State) (phase : Nat) (b : Bench) : Option StepRec :=
  if phase = 0 then (benchOf s b).deque.getLast?
  else if phase = 1 || phase = 3 then (runOf s b).map (·.step)
  else none

/-- Bytes 32 to 95 of a STEP record: the step record of the bench, or, where the step has left it, the one observed
(log entry 115). -/
def stepPart (s : State) (body : List Byte) : List Byte :=
  let f := fun (off n : Nat) => leNat ((body.drop off).take n)
  match seenStep s (f 2 1) (BitVec.ofNat 8 (f 4 2)) with
  | some t => stepBytes s t
  | none => stepLayout (f 16 1 % 16) (f 17 1) (f 18 2 % 8192) (f 20 1) (f 22 2) (f 24 8) (f 32 4) (f 36 2 % 4096) (f 40 8) (f 48 8)

/-- The body of a record of type `t`: as long as its type says, a STEP record with its step record. -/
def seamBody (s : State) (t : Nat) (body : List Byte) : List Byte :=
  let l := (body ++ List.replicate 80 0).take (seamLen t - 16)
  if t = 6 then l.take 16 ++ stepPart s l else l

def doSeamCapture (s : State) (o : SeamObs) : State :=
  let t := o.type.toNat
  if (seamOf s).control != 1 || (seamOf s).fuse || s.clk.unlocked.contains 166 || t = 0 || 10 ≤ t then s else
  match filterAll (seamOf s) o with
  | (m, false) => setSeam s m
  | (m, true) =>
    let need := seamLen t + (if m.lostSince = 0 then 0 else 32)
    let m := if m.ringOn || exportOn m then m else seamMakeRoom need m.buf.length m
    let s := setSeam s m
    if 4194304 < bufBytes m + need then seamDrop s
    else
      countDev (seamStore s t (seamTime s o.tag) (seamBody s t o.body)) 0x10F 0

def execSeamCapture (o : SeamObs) (s : State) : Host.Outcome State Fault Refusal := act s (fun s => doSeamCapture s o)

-- ===== control, filters, export settings =====

def seamGate : Gate := { plainGate with fuse := true }

/-- R480: entering stopped leaves only a record the ring has begun to write. -/
def seamControlOp (s : State) (v : Nat) : Ans :=
  let m := seamOf s
  if 3 ≤ v then (s, .range, 0)
  else if v = 0 then
    let keep := if m.ringOn && m.ringPart != 0 then (m.buf.drop m.ringNext).take 1 else []
    (setSeam s (seamTrim { m with control := 0, buf := keep, ringNext := 0, expNext := keep.length }), .ok, 0)
  else (setSeam s { m with control := BitVec.ofNat 2 v }, .ok, 0)

def execSeamControlWrite (acc : Accessor) (value : Byte) (s : State) : Host.Outcome State Fault Refusal :=
  act s (fun s => front s acc seamGate noNote (fun s => seamControlOp s value.toNat))

/-- The reserved bits of filter `i` are 0, and SAMPLE is at most 16 (Table 17-8). -/
def filterOk (l : List Byte) (i : Nat) : Bool :=
  let f := fun (off n : Nat) => leNat ((l.drop (16 * i + off)).take n)
  f 0 2 % 2 == 0 && f 0 2 < 1024 && f 2 1 < 16 && f 3 1 ≤ 16 && f 5 1 == 0 && f 8 4 < 2 ^ 18 && f 12 4 % 2 ^ 31 < 2 ^ 18

def seamFilterOp (s : State) (l : List Byte) : Ans :=
  if l.length != 64 then (s, .type, 0)
  else if !((List.range 4).all (filterOk l)) then (s, .range, 0)
  else (setSeam s { seamOf s with filters := l, filterCount := [] }, .ok, 0)

def execSeamFilterWrite (acc : Accessor) (value : List Byte) (s : State) : Host.Outcome State Fault Refusal :=
  act s (fun s => front s acc seamGate noNote (fun s => seamFilterOp s value))

/-- The settings take effect; enabling or disabling raises E-0x3F5 (R486). -/
def applyExport (s : State) (v : BitVec 32) : State :=
  let m := seamOf s
  let change := m.exportSet.getLsbD 0 != v.getLsbD 0
  let s := setSeam s (seamTrim { m with exportSet := v, exportNext := none, expNext := if change then 0 else m.expNext })
  if change then raise s 0x3F5 166 [(1, v.toNat % 2)] else s

/-- A write of 0x68:0012: it waits for a frame boundary while the port is enabled. -/
def exportOp (s : State) (v : Nat) : Ans :=
  let w := BitVec.ofNat 32 v
  if 4 ≤ v then (s, .range, 0)
  else if exportOn (seamOf s) then (setSeam s { seamOf s with exportNext := some w }, .ok, 0)
  else (applyExport s w, .ok, 0)

def execExportSettingsWrite (acc : Accessor) (value : BitVec 32) (s : State) : Host.Outcome State Fault Refusal :=
  act s (fun s => front s acc seamGate noNote (fun s => exportOp s value.toNat))

/-- The whole records that a frame of at most 512 words takes. -/
def frameRecs : Nat → List SeamRec → List SeamRec
  | _, [] => []
  | room, r :: l => if recLen r ≤ room then r :: frameRecs (room - recLen r) l else []

/-- The bytes of an export frame: header, whole records, trailer (R486). -/
def exportBytes (m : SeamS) (l : List SeamRec) : List Byte :=
  let body := l.flatMap (fun r => recBytes r (recLen r))
  let head : List Byte := leBytes 2 0x5E4D ++ leBytes 2 m.frame.toNat ++ leBytes 2 (body.length / 8) ++
    [if m.exportSet.getLsbD 1 then 1 else 0, 0]
  head ++ body ++ leBytes 4 (crc32c (head ++ body)).toNat ++ [0, 0, 0, 0]

/-- The records of a frame leave: the sink has taken them. -/
def exportSend (s : State) (l : List SeamRec) : State :=
  let m := seamOf s
  emit (setSeam s (seamTrim { m with frame := m.frame + 1, sent := m.sent + BitVec.ofNat 64 l.length,
                                     expNext := m.expNext + l.length })) (.export_ (exportBytes m l))

/-- A frame of whole records; then the settings that wait for the boundary take effect. -/
def doExport (s : State) : State :=
  let m := seamOf s
  if m.fuse || !exportOn m then s else
  let l := frameRecs 4096 (m.buf.drop m.expNext)
  let s := if l.isEmpty then s else exportSend s l
  match (seamOf s).exportNext with
  | some v => applyExport s v
  | none => s

def execExportFrame (s : State) : Host.Outcome State Fault Refusal := act s doExport

-- ===== the privileged ring (R484, R485) =====

def ringSettings (m : SeamS) : List Byte := leBytes 8 m.ringBase.toNat ++ [m.ringLog, if m.ringOn then 1 else 0] ++ List.replicate 6 0

def ringOp (s : State) (l : List Byte) : Ans :=
  let m := seamOf s
  let base := leNat (l.take 8)
  let log := (l.getD 8 0).toNat
  let on := l.getD 9 0 == 1
  if l.length != 16 then (s, .type, 0)
  else if log < 16 || 30 < log || 2 ≤ (l.getD 9 0).toNat || !((l.drop 10).all (· == 0)) || base % 2 ^ log != 0 || 2 ^ 48 ≤ base then
    (s, .range, 0)
  else if m.ringOn && (BitVec.ofNat 64 base != m.ringBase || BitVec.ofNat 8 log != m.ringLog) then (s, .quiesceRequired, 0)
  else
    let m := if on && !m.ringOn then { m with ringPos := 0, ringPart := 0, ringNext := 0 } else m
    (setSeam s (seamTrim { m with ringBase := BitVec.ofNat 64 base, ringLog := BitVec.ofNat 8 log, ringOn := on }), .ok, 0)

def ringGate : Gate := { seamGate with attr := aS }

def execRingSettingsWrite (acc : Accessor) (value : List Byte) (s : State) : Host.Outcome State Fault Refusal :=
  act s (fun s => front s acc ringGate noNote (fun s => ringOp s value))

/-- A part of a record has been sent and not yet performed. -/
def ringBusy (s : State) : Bool := s.cache.reqs.any (fun r => r.org == .ring) || s.peer.txns.any (fun x => x.org == .ring)

/-- Writes bytes at an address, line by line; stops at a refusal. -/
def ringBytes : Nat → State → Nat → List Byte → State
  | 0, s, _, _ => s
  | n + 1, s, a, l =>
    if l.isEmpty || !(seamOf s).ringOn then s else
    let off := a % 64
    let k := min (64 - off) l.length
    let sa : SA := BitVec.ofNat 48 (a / 64 * 64)
    let data := bytesLine (List.replicate off 0 ++ l.take k)
    match ncIssue s .ncWritePtl .ring .management sa data (beRange off k) false 0 0 with
    | (s, none) => ringBytes n s (a + k) (l.drop k)
    | (s, bad) => ringRefused s (BitVec.ofNat 48 a) (mgmtStatus bad)

/-- The record the ring writes next: the next of the buffer, or the PAD that fills the space left before the end. -/
def ringRec (m : SeamS) : Option (SeamRec × Bool) :=
  match m.buf[m.ringNext]? with
  | none => none
  | some r =>
    let left := 2 ^ m.ringLog.toNat - m.ringPos.toNat
    if recLen r ≤ left then some (r, false)
    else some ({ type := 0x0F, flags := 0, seq := r.seq, time := r.time, body := List.replicate (left - 16) 0 }, true)

/-- A record has been written whole: the ring goes on behind it, and takes the next record unless this one was PAD. -/
def ringAdvance (s : State) (r : SeamRec) (pad : Bool) : State :=
  let m := seamOf s
  let pos := m.ringPos + BitVec.ofNat 64 (recLen r)
  setSeam s (seamTrim { m with
    ringPart := 0
    ringPos := if pos.toNat = 2 ^ m.ringLog.toNat then 0 else pos
    ringNext := if pad then m.ringNext else m.ringNext + 1 })

/-- The next of the three parts of a record: its first 8 bytes with LEN 0, the rest, its first 8 bytes (R485). -/
def doRingWrite (s : State) : State :=
  let m := seamOf s
  if m.fuse || !m.ringOn || !presented s || ringBusy s then s else
  match ringRec m with
  | none => s
  | some (r, pad) =>
    let a := m.ringBase.toNat + m.ringPos.toNat
    let bytes := recBytes r (recLen r)
    if m.ringPart = 0 then ringBytes 4 (setSeam s { m with ringPart := 1 }) a ((recBytes r 0).take 8)
    else if m.ringPart = 1 then ringBytes 4 (setSeam s { m with ringPart := 2 }) (a + 8) (bytes.drop 8)
    else ringAdvance (ringBytes 4 s a (bytes.take 8)) r pad

def execSeamRingWrite (s : State) : Host.Outcome State Fault Refusal := act s doRingWrite

-- ===== the observation fuse (R448, R449) =====

def fuseKey : Nat := 0x4F425346

def fuseOp (s : State) (v : Nat) : Ans :=
  let m := seamOf s
  if v != fuseKey then (s, .range, 0)
  else if m.fuse then (s, .ok, 0)
  else (setSeam s { m with blowing := true }, .ok, 0)

def fuseGate : Gate := { guardGate with attr := aOC }

def execBlowObservationFuse (acc : Accessor) (value : BitVec 32) (s : State) : Host.Outcome State Fault Refusal :=
  act s (fun s => front s acc fuseGate noNote (fun s => fuseOp s value.toNat))

/-- The [fuse] objects that a session can be held on. -/
def fuseSession (v : Session) : Bool := (v.group == 0x28 || v.group == 0x30) && v.item == 0x80

/-- The steps of R449; Seam's values are those of group 0x68, which no longer exists. -/
def doFuseBlown (s : State) : State :=
  let m := seamOf s
  if !m.blowing then s else
  let s := { s with hen := { s.hen with sessions := s.hen.sessions.filter (fun v => !fuseSession v) } }
  raise (setSeam s { m with control := 0, buf := [], ringOn := false, ringPart := 0, ringNext := 0, expNext := 0,
                            exportSet := m.exportSet &&& ~~~1, exportNext := none, fuse := true, blowing := false })
    0x3F0 164 []

def execFuseBlowComplete (s : State) : Host.Outcome State Fault Refusal := act s doFuseBlown

end Sys2Proof.Machine
end

