-- ==== Sys2Proof/Machine/Clock.lean ====
section
/-!
DEFINITION. Rails, clock islands, the time base and thermal control (R358, R372 to R380).
-/

namespace Sys2Proof.Machine

def setClk (s : State) (f : ClkS → ClkS) : State := { s with clk := f s.clk }

-- ===== rails (R358) =====

/-- Nominal voltage in mV and tolerance in per cent of each rail (Table 12-1). -/
def rails : List (Nat × Nat) := [(1800, 5), (1800, 5), (750, 3), (800, 3), (1050, 3), (400, 3), (850, 3), (1200, 3)]

def railOut (r : Nat × Nat) (mv : Nat) : Bool := mv * 100 < r.1 * (100 - r.2) || r.1 * (100 + r.2) < mv * 100

/-- The rails are measured; each one outside its tolerance raises E-0x38B. -/
def doRails (s : State) (volts amps : List (BitVec 16)) : State :=
  let s := setClk s (fun c => { c with volts := volts, amps := amps })
  (List.range 8).foldl (fun s i =>
    let mv := (volts.getD i 0).toNat
    if railOut (rails.getD i (0, 0)) mv then raise s 0x38B 164 [(1, i), (4, mv), (8, s.now.toNat)] else s) s

def execRailMonitor (volts amps : List (BitVec 16)) (s : State) : Host.Outcome State Fault Refusal :=
  actIf (railsOk volts amps) s (fun s => doRails s volts amps)

-- ===== cluster clocks (R372, R379) =====

/-- A cluster's clock starts to change (R372). -/
def startClock (s : State) (c : Nat) (mhz : Nat) (thermal : Bool) : State :=
  let now := match s.clk.target.find? (fun p => p.1 == c) with
    | some p => p.2.1.toNat
    | none => clockOf s (BitVec.ofNat 4 c)
  if now = mhz then s else
  let s := foldCycles s c true
  setClk s (fun k => { k with target := tput (0, 0, false) k.target c (BitVec.ofNat 12 mhz, s.now, thermal) })

/-- 2 µs after a change started the cluster goes on at the new rate; what waited meanwhile waited for a fault only if
thermal control made the change. -/
def doClockDone (s : State) (c : Cluster) : State :=
  match s.clk.target.find? (fun p => p.1 == c.toNat) with
  | none => s
  | some (_, mhz, start, thermal) =>
    if since s start < 2000 then s else
    let s := if thermal then markFault s (fun r => clusterOf (benchOfDla r.dla) == c) (fun _ => false) (fun _ => false) else s
    let s := foldCycles s c.toNat false
    setClk s (fun k => { k with
      target := k.target.filter (fun p => p.1 != c.toNat), clock := tput 1500 k.clock c.toNat mhz })

def execClockChangeComplete (c : Cluster) (s : State) : Host.Outcome State Fault Refusal := act s (fun s => doClockDone s c)

def capOf (s : State) (c : Nat) : Nat := (tget (1500 : BitVec 12) s.clk.cap c).toNat
/-- The rate a cluster is running at or changing to. -/
def rateOf (s : State) (c : Nat) : Nat :=
  match s.clk.target.find? (fun p => p.1 == c) with
  | some p => p.2.1.toNat
  | none => clockOf s (BitVec.ofNat 4 c)

def mhzOk (n : Nat) : Bool := 600 ≤ n && n ≤ 1500 && n % 100 == 0

/-- R379 -/
def capOp (s : State) (c : Nat) (mhz : Nat) : Ans :=
  if !mhzOk mhz then (s, .range, 0)
  else if (failing s (.thermal (BitVec.ofNat 4 c) (BitVec.ofNat 12 mhz))).isSome then (s, .full, 0)
  else
    let s := setClk s (fun k => { k with cap := tput 1500 k.cap c (BitVec.ofNat 12 mhz) })
    let want := if s.clk.throttled.contains c then min (rateOf s c) mhz else mhz
    (startClock s c want false, .ok, 0)

def execClockCapWrite (acc : Accessor) (c : Cluster) (mhz : BitVec 16) (s : State) : Host.Outcome State Fault Refusal :=
  act s (fun s => front s acc plainGate noNote (fun s => capOp s c.toNat mhz.toNat))

-- ===== locks (R373, R376) =====

/-- An island whose loss of lock leads to containment (R373). -/
def coreIsland (i : Nat) : Bool := 128 ≤ i && i ≤ 159

/-- The clock of a cluster's benches stands. -/
def foldIsland (s : State) (i : Nat) (ran : Bool) : State := if 128 ≤ i && i ≤ 143 then foldCycles s (i - 128) ran else s

def loseLock (s : State) (i : Nat) : State :=
  if s.clk.unlocked.contains i then s else
  setClk (foldIsland s i true) (fun k => { k with unlocked := k.unlocked ++ [i] })

def doPllLoss (s : State) (i : Nat) : State :=
  let s := raise (loseLock s i) 0x388 164 []
  if coreIsland i then contain s 8 i else s

def execPllLockLoss (island : Byte) (s : State) : Host.Outcome State Fault Refusal :=
  actIf (islandOk island) s (fun s => doPllLoss s island.toNat)

/-- The time base holds over; every other island's PLL loses lock (R376). -/
def doRefclkLoss (s : State) : State :=
  if !s.clk.refclk then s else
  let s := setClk s (fun k => { k with refclk := false, holdover := true })
  let s := ((List.range 168).filter (· != 165)).foldl loseLock s
  contain (raise s 0x388 164 []) 8 164

def execRefclkLoss (s : State) : Host.Outcome State Fault Refusal := act s doRefclkLoss

/-- The time base leaves holdover and the PLLs lock again. -/
def doRefclkReturn (s : State) : State :=
  let s := s.clk.unlocked.foldl (fun s i => foldIsland s i false) s
  deliverHeld (setClk s (fun k => { k with refclk := true, holdover := false, unlocked := [] }))

def execRefclkReturn (s : State) : Host.Outcome State Fault Refusal := act s doRefclkReturn

-- ===== the sync word (R375) =====

/-- Island `i` compares its copy with the word. -/
def syncIsland (s : State) (i : Nat) : State :=
  let d := tget 0 s.clk.island i
  let s := setClk s (fun k => { k with islandDiff := if k.islandDiff < d then d else k.islandDiff })
  if d.toNat ≤ 4 then s else
  raise (setClk s (fun k => { k with island := tput 0 k.island i 0 })) 0x389 i [(2, i), (4, d.toNat)]

/-- The word holds the exact device time. -/
def doSyncWord (s : State) (t : Time) : State :=
  if t != s.now then s else (s.clk.island.map (·.1)).foldl syncIsland s

def execTimeSyncWord (t : Time) (s : State) : Host.Outcome State Fault Refusal := act s (fun s => doSyncWord s t)

-- ===== thermal limits (R377) =====

/-- Region of a sensor: 0 Logic, 1 SRAM, 2 HBM (Table 12-7). -/
def regionOf (i : Nat) : Nat := if 16 ≤ i && i ≤ 23 then 2 else if 40 ≤ i then 1 else 0
def tempOf (s : State) (i : Nat) : Int := (s.clk.temps.getD i 0).toInt
/-- Limit `k` of a region: 0 warning, 1 throttle, 2 critical. -/
def limitOf (s : State) (region k : Nat) : Int := (s.clk.limits.getD (region * 3 + k) 0).toInt
def sensors : List Nat := List.range 44
def atLimit (s : State) (k i : Nat) : Bool := limitOf s (regionOf i) k ≤ tempOf s i

/-- Each limit is at most its default and at most 20 °C below it, and the three of a region are in order. -/
def limitsOk (l : List (BitVec 32)) : Bool :=
  (List.range 9).all (fun i =>
    let v := (l.getD i 0).toInt
    let d := (thermalDefault.getD i 0).toInt
    v ≤ d && d - 160 ≤ v) &&
  (List.range 3).all (fun r =>
    (l.getD (r * 3) 0).toInt ≤ (l.getD (r * 3 + 1) 0).toInt && (l.getD (r * 3 + 1) 0).toInt ≤ (l.getD (r * 3 + 2) 0).toInt)

def limitsOp (s : State) (l : List (BitVec 32)) : Ans :=
  if l.length != 9 then (s, .type, 0)
  else if limitsOk l then (setClk s (fun k => { k with limits := l }), .ok, 0) else (s, .range, 0)

def execThermalLimitsWrite (acc : Accessor) (limits : List (BitVec 32)) (s : State) : Host.Outcome State Fault Refusal :=
  act s (fun s => front s acc plainGate noNote (fun s => limitsOp s limits))

-- ===== thermal control (R378, R380) =====

/-- The clusters whose clock a hot sensor lowers: its own, or the four of its quadrant. -/
def hotClusters (i : Nat) : List Nat :=
  if i < 16 then [i]
  else if i < 24 then []
  else
    let q := if i < 40 then (i - 24) / 4 else i - 40
    [4 * q, 4 * q + 1, 4 * q + 2, 4 * q + 3]

/-- A throttle action on `key`; the first of an episode raises E-0x386. -/
def throttle (s : State) (key : Nat) : State :=
  let s := setClk s (fun k => { k with thrSteps := k.thrSteps + 1 })
  if s.clk.throttled.contains key then s
  else raise (setClk s (fun k => { k with throttled := k.throttled ++ [key] })) 0x386 164 []

/-- One step of the command rate of a hot stack, down to half. -/
def hotStack (s : State) (st : Nat) : State :=
  if 5 ≤ tget 0 s.clk.rateStep st then s else
  throttle (setClk s (fun k => { k with rateStep := tmod 0 k.rateStep st (· + 1) })) (16 + st)

/-- One step of a hot cluster's clock; shares that would no longer fit are revoked first (R167). -/
def hotCluster (s : State) (c : Nat) : State :=
  let mhz := rateOf s c - 100
  if rateOf s c < 700 then s
  else
    let p : PassCause := .thermal (BitVec.ofNat 4 c) (BitVec.ofNat 12 mhz)
    if (failing s p).isSome then
      if s.contract.passes.contains p then s
      else capChange (setClk s (fun k => { k with thrPasses := k.thrPasses + 1 })) p
    else throttle (startClock s c mhz true) c

/-- One step upward of what is throttled; an episode ends at the cap and the full command rate. -/
def coolKey (s : State) (key : Nat) : State :=
  let done := fun (s : State) => setClk s (fun k => { k with throttled := k.throttled.filter (· != key) })
  if key < 16 then
    let up := min (rateOf s key + 100) (capOf s key)
    let s := if rateOf s key < up then startClock s key up true else s
    if capOf s key ≤ rateOf s key then done s else s
  else
    let n := tget 0 s.clk.rateStep (key - 16)
    let s := setClk s (fun k => { k with rateStep := tput 0 k.rateStep (key - 16) (n - 1) })
    if n ≤ 1 then done s else s

/-- The sensors at or above their warning limit. -/
def warmSensors (s : State) : List Nat := sensors.filter (atLimit s 0)

/-- The sensors are read: the alert output, E-0x385 for each that newly reached its warning limit, and doubled refresh above
it (R378). -/
def readTemps (s : State) (temps : List (BitVec 32)) : State :=
  let s := setClk s (fun k => { k with temps := temps })
  let warm := warmSensors s
  let s := if s.clk.alert != !warm.isEmpty then emit s (.thermAlert (!warm.isEmpty)) else s
  let s := (warm.filter (fun i => !s.clk.warned.contains i)).foldl (fun s _ => raise s 0x385 164 []) s
  setClk s (fun k => { k with
    alert := !warm.isEmpty, warned := warm
    refresh2 := (List.range 8).filter (fun t => limitOf s 2 0 < tempOf s (16 + t)) })

/-- What is at or above its throttle limit is throttled by one step (R378). -/
def throttleHot (s : State) : State :=
  let hot := sensors.filter (atLimit s 1)
  let s := (hot.filter (fun i => 16 ≤ i && i ≤ 23)).foldl (fun s i => hotStack s (i - 16)) s
  ((hot.flatMap hotClusters).eraseDups).foldl hotCluster s

/-- Every sensor has been 5 degrees below its throttle limit for 100 ms: one step upward of each (R378). -/
def coolDown (s : State) : State :=
  let s := if sensors.all (fun i => tempOf s i ≤ limitOf s (regionOf i) 1 - 40) then s
           else setClk s (fun k => { k with coolSince := s.now })
  if 100000000 ≤ since s s.clk.coolSince then s.clk.throttled.foldl coolKey s else s

/-- A sensor at its critical limit ends start-up, or leads to containment (R380). -/
def criticalCheck (s : State) : State :=
  if !(sensors.any (atLimit s 2)) then s
  else if presented s then contain (raise s 0x387 164 []) 7 164
  else if starting s then halt s 0x14
  else s

def doSensors (s : State) (temps : List (BitVec 32)) : State := criticalCheck (coolDown (throttleHot (readTemps s temps)))

def execSensorRead (temps : List (BitVec 32)) (s : State) : Host.Outcome State Fault Refusal :=
  actIf (readingOk temps) s (fun s => doSensors s temps)

/-- Every island but 165 stops and domain-fatal is asserted; only a power-on reset ends this (R380). -/
def doTrip (s : State) : State :=
  emit { s with dev := { s.dev with tripped := true }, rel := { s.rel with domFatal := true } } (.domFatal true)

def execHardwareTrip (s : State) : Host.Outcome State Fault Refusal := act s doTrip

end Sys2Proof.Machine
end

