-- ==== Sys2Proof/Machine/Reset.lean ====
section
/-!
DEFINITION. Resets and what they keep (R357, R361, R362, R371), the commits that a reset waits for (R270, R399), and the
containment steps that lead to a reset (R275).
-/

namespace Sys2Proof.Machine

/-- The form of a meaning that may restart device time: `f` acts while the device runs, and the queue stays. -/
def actReset (s : State) (f : State → State) : Host.Outcome State Fault Refusal :=
  .next (if alive s then { f s with pending := s.pending } else s)

-- ===== stored images and commits (R364, R395, R399) =====

def imgOf (s : State) (b : Bool) : Image := if b then s.dev.imgB else s.dev.imgA
def setImg (s : State) (b : Bool) (v : Image) : State :=
  { s with dev := if b then { s.dev with imgB := v } else { s.dev with imgA := v } }

/-- `a` is newer than `b` in 32-bit serial order. -/
def newerGen (a b : BitVec 32) : Bool := a != b && !(a - b).msb

def entryFor (g item i : Nat) (e : ImgEntry) : Bool := e.group.toNat == g && e.item.toNat == item && e.index.toNat == i

/-- The retired-way list, each entry laid out as BCH_MSW (R95). -/
def retiredEntries (s : State) : List (List Byte) := s.cache.retiredList.map (fun e => leBytes 4 e.toNat)
/-- The remap table of a stack: the failed row's codeword address and the spare row. -/
def remapEntries (s : State) (st : Nat) : List (List Byte) :=
  (s.rel.remap.filter (fun p => p.1 / 2 ^ 26 == st)).map (fun p =>
    leBytes 4 ((p.1 / 2 ^ 17 % 512) * 2 ^ 22 + (p.1 % 2 ^ 17) * 32) ++ leBytes 4 p.2.toNat)

/-- Live values of the auto-persisted objects: the retired-way list, the remap tables, the retired-stack mask (R95, R270). -/
def autoEntries (s : State) : List ImgEntry :=
  ⟨0x28, 0x61, 0, (retiredEntries s).flatten⟩ ::
  ⟨0x50, 0x35, 0, [s.rel.retiredMask]⟩ ::
  (List.range 8).map (fun st => ⟨0x50, 0x32, BitVec.ofNat 16 st, (remapEntries s st).flatten⟩)

/-- What a commit writes: the pending image, and the live auto-persisted values it does not hold. -/
def commitEntries (s : State) : List ImgEntry :=
  (autoEntries s).filter (fun e => !(s.hen.pending.any (entryFor e.group.toNat e.item.toNat e.index.toNat))) ++ s.hen.pending

/-- R399 step 1. With both copies valid and none loaded, the older one. -/
def commitTargetOf (s : State) : Bool :=
  if !s.dev.imgA.valid then false
  else if !s.dev.imgB.valid then true
  else match s.dev.loaded with
    | some b => !b
    | none => newerGen s.dev.imgA.gen s.dev.imgB.gen

/-- A commit starts: its target is invalid from here on (R399). -/
def startCommit (s : State) : State :=
  let t := commitTargetOf s
  let s := setImg s t ⟨(imgOf s (!t)).gen + 1, false, commitEntries s⟩
  { s with
    hen := { s.hen with commitRun := some (t, s.now), commitTarget := some t, commitAuto := s.rel.persistSince.isSome, changed := [] }
    rel := { s.rel with persistSince := none } }

-- ===== what a whole-device reset keeps (R361) =====

/-- The hard faults of the array stay: they are the stacks' own. -/
def hardOnly (t : Tab Codeword) : Tab Codeword :=
  (t.filter (fun p => p.2.fault != 0)).map (fun p => (p.1, { Codeword.init with err := p.2.fault, fault := p.2.fault }))

/-- A machine at the start of boot with its fuses, its flash, the pins and sensors, and nothing else of `s`. -/
def flashOnly (s : State) (straps : Straps) : State :=
  let t := State.start straps
  { t with
    dev := { t.dev with slotA := s.dev.slotA, slotB := s.dev.slotB, imgA := s.dev.imgA, imgB := s.dev.imgB }
    rel := { t.rel with fatal := s.rel.fatal, array := hardOnly s.rel.array }
    obs := { t.obs with seam := { t.obs.seam with fuse := s.obs.seam.fuse } }
    clk := { t.clk with refclk := s.clk.refclk, holdover := s.clk.holdover, unlocked := if s.clk.refclk then [] else s.clk.unlocked,
                        temps := s.clk.temps, volts := s.clk.volts, amps := s.clk.amps }
    freeCount := s.freeCount
    out := s.out
    pending := s.pending }

/-- Outputs return to their reset level (R356, R362). -/
def dropOutputs (s : State) : State :=
  let s := if s.rel.domFatal then emit s (.domFatal false) else s
  let s := if s.clk.alert then emit s (.thermAlert false) else s
  match s.dev.stage with
  | .memoryActive | .containment => emit s (.memoryActive false)
  | _ => s

/-- Beside flash: the error log, the objects of attribute K (Table 13-3) and the PERST pins; for a reset that leaves
island 165 alone, device time (R361). -/
def keptOver (s t : State) (time : Bool) : State :=
  { t with
    dev := { t.dev with resets := s.dev.resets }
    rel := { t.rel with log := s.rel.log, logNext := s.rel.logNext, logAck := s.rel.logAck, logLost := s.rel.logLost,
                        fatalDue := s.rel.fatalDue, result := s.rel.result, dirtyShutdowns := s.rel.dirtyShutdowns }
    hen := { t.hen with commitsOk := s.hen.commitsOk, commitsBad := s.hen.commitsBad }
    port := { t.port with host := (s.port.host.filter (fun p => !p.2.perst)).map (fun p => (p.1, { HLinkS.init with perst := false })) }
    clk := if time then { t.clk with lastStep := s.clk.lastStep, lastStepAt := s.clk.lastStepAt } else t.clk
    now := if time then s.now else 0 }

/-- Entry into ROM: the stages POWER and ROM are entered now (Table 12-4). -/
def enterRom (s : State) : State := setStage (setStage s .power 0) .rom 1

/-- Number of a reset kind (R509). -/
def resetCode : ResetKind → Nat
  | .powerOn => 0 | .cold => 1 | .warm => 2 | .containment => 3 | .management => 4 | .perst => 5 | .flr => 6

/-- The fatal records not yet in flash are copied, each once (R264). -/
def copyFatal (s : State) : State :=
  { s with rel := { s.rel with fatal := (s.rel.fatalDue ++ s.rel.fatal).take 64, fatalDue := [] } }

/-- A warm, containment or cold reset takes place (R361); one that ends a containment copies the fatal records, unless it
comes from a pin. -/
def wholeReset (s : State) (k : ResetKind) (straps : Straps) (pin : Bool) : State :=
  let s := if s.dev.stage == .containment && !pin then copyFatal s else s
  let s := dropOutputs s
  let t := keptOver s (flashOnly s straps) (k != .cold)
  enterRom { countReset t k (resetCode k) with obs := t.obs }

/-- The reset waits for containment to reach step 4 (R362), or for a commit that carries an auto-persisted change (R270). -/
def resetWaits (s : State) : Bool :=
  (s.dev.stage == .containment && (s.rel.cphase == .stop || s.rel.cphase == .writeBack)) ||
  s.hen.commitAuto || s.rel.persistSince.isSome

/-- A commit that a waiting reset needs starts at once. -/
def commitNow (s : State) : State :=
  if s.rel.persistSince.isSome && s.hen.commitRun.isNone && engineUp s then startCommit s else s

/-- A reset that is waiting takes place if nothing holds it any more. -/
def tryReset (s : State) : State :=
  match s.dev.pendingReset with
  | none => s
  | some (k, straps) =>
    let s := commitNow s
    if resetWaits s then s else wholeReset s k straps false

/-- A warm, cold or containment reset is asked for (R270, R275, R362). -/
def askReset (s : State) (k : ResetKind) (straps : Straps) : State :=
  tryReset { s with dev := { s.dev with pendingReset := some (k, straps) } }

-- ===== power-on and power-down (R357, R361) =====

/-- PWRGD is asserted: flash, and nothing else, is kept. -/
def doPowerOn (s : State) (straps : Straps) : State := enterRom (flashOnly (dropOutputs s) straps)

/-- PWRGD acts at once in every state, after a hardware trip too (R362, R380). -/
def execPowerOnReset (straps : Straps) (s : State) : Host.Outcome State Fault Refusal :=
  .next { doPowerOn s straps with pending := s.pending }

/-- PWRGD is deasserted: every island is held in reset and what is not in flash is lost. -/
def doPowerDown (s : State) : State :=
  let t := flashOnly (dropOutputs s) s.dev.straps
  { t with dev := { t.dev with powered := false, stage := .power, resets := [] } }

def execPowerDown (s : State) : Host.Outcome State Fault Refusal := .next { doPowerDown s with pending := s.pending }

-- ===== cold and warm resets =====

/-- Access of a reset object (Table 15-2); the cold reset is in the recovery subset (R413). GCTL is its register. -/
def resetGate (rom : Bool) : Gate := { guardGate with rom := rom, off := some 0xC }

def gctlNote (e : DStatus) (s : State) : State := { s with reg := { s.reg with lasterr := e } }

/-- A BOOL is written to 0x01:0010 to 0x01:0012: 1 resets, 0 does nothing. -/
def resetOp (s : State) (k : ResetKind) (straps : Straps) (mgmt : State → State) (v : Nat) : Ans :=
  if 2 ≤ v then (s, .range, 0)
  else if v = 0 then (s, .ok, 0)
  else (if k == .management then mgmt s else askReset s k straps, .ok, 0)

/-- The write through an accessor: the completion leaves before the reset clears the engine. -/
def resetWrite (s : State) (acc : Accessor) (k : ResetKind) (straps : Straps) (mgmt : State → State) : State :=
  let g := resetGate (k == .cold)
  let acc := normAcc acc
  if !served s acc g then s else
  let s := opCount s
  let (s, armed) := takeUnlock s acc
  match gateCheck s acc g armed with
  | some e =>
    let bar := acc.transport == .bar0
    let s := if e == .locked && bar then accessError s 4 acc.link 0xC 0 true 1 15 else s
    status (if bar then gctlNote e s else s) acc e []
  | none =>
    let s := status (if acc.transport == .bar0 then gctlNote .ok s else s) acc .ok (leBytes 4 0)
    (resetOp s k straps mgmt 1).1

/-- The COLDRST# pin acts at once in every state; a write waits as R270 and R362 say. -/
def execColdReset (pin : Bool) (acc : Accessor) (straps : Straps) (s : State) : Host.Outcome State Fault Refusal :=
  actReset s (fun s => if pin then wholeReset s .cold straps true else resetWrite s acc .cold straps id)

def execWarmReset (acc : Accessor) (s : State) : Host.Outcome State Fault Refusal :=
  actReset s (fun s => resetWrite s acc .warm s.dev.straps id)

-- ===== the management reset (R361) =====

/-- Slot verified with the higher version, else the other (R363); true: slot B. -/
def chooseSlot (s : State) : Option (Bool × Bool) :=
  let b := s.dev.slotA.version < s.dev.slotB.version
  let ok := fun (x : Bool) => if x then s.dev.slotB.valid else s.dev.slotA.valid
  if ok b then some (b, false) else if ok (!b) then some (!b, true) else none

/-- An admission in progress is aborted (R142 step 7); the write that started it has no response. -/
def abortAdmission (s : State) (i : CIdx) : State :=
  let c := contractOf s i
  if c.phase != .proposing then setContract s i { c with by_ := none } else
  let s := (homes s c.ctr).foldl (fun s d => shareSend s d 5 i []) s
  let s := if covers c.ctr (devId s) then dropShare s (devId s) i else s
  freeContract s i

/-- The management cores and the engine restart: what they hold is lost, the data path and the retained partition stay. -/
def doMgmtReset (s : State) : State :=
  let s := countReset s .management 4
  let s := { s with
    contract := { s.contract with waiting := [] }
    rel := { s.rel with persistSince := if s.hen.commitAuto then some s.now else s.rel.persistSince, remapAsks := [] }
    hen := { s.hen with cycle := [], queue := [], mbox := [], kept := [], armed := [], sessions := [], install := none, commitRun := none,
                        commitAuto := false, i3cPartial := [], conBuf := [], clears := [] } }
  let s := (s.contract.table.map (·.1)).foldl (fun s i => abortAdmission s (BitVec.ofNat 12 i)) s
  let s := match chooseSlot s with
    | some (b, other) =>
      let s := { s with dev := { s.dev with running := some b } }
      if other then raise s 0x381 164 [] else s
    | none => s
  raise s 0x38A 164 []

def execManagementReset (acc : Accessor) (s : State) : Host.Outcome State Fault Refusal :=
  act s (fun s => resetWrite s acc .management s.dev.straps doMgmtReset)

/-- Firmware has not serviced the management watchdog for 2 s. -/
def execWatchdogExpiry (s : State) : Host.Outcome State Fault Refusal :=
  act s (fun s => if engineUp s then doMgmtReset s else s)

-- ===== a GCTL write (R440) =====

/-- The value of GCTL's reset bits; `armed` says that they take effect (R430). -/
def gctlOp (armed : Bool) (s : State) (v : Nat) : Ans :=
  match v % 8 with
  | 0 => (s, .ok, 0)
  | 1 => (if armed then askReset (gctlNote .ok s) .warm s.dev.straps else s, .ok, 0)
  | 2 => (if armed then askReset (gctlNote .ok s) .cold s.dev.straps else s, .ok, 0)
  | 4 => (if armed then doMgmtReset s else s, .ok, 0)
  | _ => (s, .range, 0)

-- ===== the end of a commit (R399) =====

/-- Commit attempts end: the image is valid from here, or the target stays invalid. -/
def doCommitEnd (s : State) (good : Bool) : State :=
  match s.hen.commitRun with
  | none => s
  | some (t, _) =>
    let auto := s.hen.commitAuto
    let s := { s with hen := { s.hen with commitRun := none, commitAuto := false, commitResult := if good then 1 else 2 } }
    let s :=
      if good then
        let s := setImg s t { imgOf s t with valid := true }
        raise { s with
          dev := { s.dev with loaded := some t }
          hen := { s.hen with commitsOk := s.hen.commitsOk + 1 } } 0x3C0 164 []
      else
        raise { s with
          hen := { s.hen with commitsBad := s.hen.commitsBad + 1 }
          rel := { s.rel with persistSince := if auto && s.dev.pendingReset.isNone then some s.now else s.rel.persistSince } }
          0x3C1 164 []
    tryReset s

def execCommitComplete (good : Bool) (s : State) : Host.Outcome State Fault Refusal := actReset s (fun s => doCommitEnd s good)

/-- Firmware starts its own commit of an auto-persisted change, once none runs (R270). -/
def doAutoCommit (s : State) : State := commitNow s

def execAutoPersistCommit (s : State) : Host.Outcome State Fault Refusal := act s doAutoCommit

-- ===== the end of containment (R273, R275) =====

def execContainmentWritebackComplete (s : State) : Host.Outcome State Fault Refusal := actReset s (fun s => tryReset (doWrittenBack s))

def execWritebackLimitExpiry (s : State) : Host.Outcome State Fault Refusal := actReset s (fun s => tryReset (doWbLimit s))

/-- Cause 0x07 from a critical temperature: the reset is withheld until every sensor is below its warning limit (R380). -/
def stillWarm (s : State) : Bool := s.rel.cause == 7 && sensors.any (atLimit s 0)

/-- The hold has passed: with auto-reset a containment reset follows. -/
def doHoldEnd (s : State) : State :=
  if s.dev.stage != .containment || s.rel.cphase != .holding || !s.rel.autoReset || s.now < s.rel.holdEnd || stillWarm s then s
  else askReset s .containment s.dev.straps

def execContainmentHoldExpiry (s : State) : Host.Outcome State Fault Refusal := actReset s doHoldEnd

end Sys2Proof.Machine
end

