-- ==== Sys2Proof/Machine/Objects.lean ====
section
/-!
DEFINITION. The object tables (Tables 15-1 to 15-17), and what each object reads as (Table 15-18 and the home chapters).
-/

namespace Sys2Proof.Machine

-- ===== the attribute tables (R442, R443) =====

/-- A row of the object tables: group, item, type (Table 13-1), access attribute (R384), persistence (Table 13-3), array
length or 0, record length or 0, byte 3 of Table 13-8, critical, removed by the observation fuse, scalar default,
write-only action. -/
structure Obj where
  group : Nat
  item : Nat
  type : Nat
  access : Nat
  pers : Nat
  len : Nat
  size : Nat
  flags : Nat
  crit : Bool
  fuse : Bool
  dflt : Nat
  action : Bool
  deriving DecidableEq, Repr

/-- Group 0x00. -/
def objs00 : List Obj :=
  [⟨0x00, 0x0000, 8, 21, 4, 0, 16, 0, false, false, 0, false⟩,
   ⟨0x00, 0x0001, 8, 21, 4, 0, 16, 0, false, false, 0, false⟩,
   ⟨0x00, 0x0002, 4, 21, 4, 0, 0, 0, false, false, 1314555154, false⟩,
   ⟨0x00, 0x0003, 3, 21, 4, 0, 0, 0, false, false, 20058, false⟩,
   ⟨0x00, 0x0004, 2, 21, 4, 0, 0, 0, false, false, 16, false⟩,
   ⟨0x00, 0x0005, 5, 21, 4, 0, 0, 0, false, false, 0, false⟩,
   ⟨0x00, 0x0006, 3, 21, 4, 0, 0, 0, false, false, 256, false⟩]
/-- Group 0x01. -/
def objs01 : List Obj :=
  [⟨0x01, 0x0000, 8, 21, 0, 0, 8, 0, false, false, 0, false⟩,
   ⟨0x01, 0x0001, 8, 21, 0, 0, 4, 0, false, false, 0, false⟩,
   ⟨0x01, 0x0002, 2, 21, 0, 0, 0, 0, false, false, 0, false⟩,
   ⟨0x01, 0x0003, 8, 21, 3, 0, 56, 0, false, false, 0, false⟩,
   ⟨0x01, 0x0004, 5, 21, 0, 10, 0, 0, false, false, 0, false⟩,
   ⟨0x01, 0x0005, 8, 21, 0, 0, 16, 0, false, false, 0, false⟩,
   ⟨0x01, 0x0010, 1, 63, 0, 0, 0, 1, false, false, 0, true⟩,
   ⟨0x01, 0x0011, 1, 63, 0, 0, 0, 1, false, false, 0, true⟩,
   ⟨0x01, 0x0012, 1, 63, 0, 0, 0, 1, false, false, 0, true⟩]
/-- Group 0x10. -/
def objs10 : List Obj :=
  [⟨0x10, 0x0000, 2, 21, 0, 0, 0, 0, false, false, 128, false⟩,
   ⟨0x10, 0x0010, 4, 63, 1, 32, 0, 4, true, false, 0, false⟩,
   ⟨0x10, 0x0020, 4, 63, 1, 8, 0, 4, true, false, 0, false⟩,
   ⟨0x10, 0x0021, 8, 21, 0, 8, 8, 0, false, false, 0, false⟩,
   ⟨0x10, 0x0028, 2, 63, 1, 32, 0, 0, false, false, 1, false⟩,
   ⟨0x10, 0x0029, 8, 21, 0, 32, 24, 0, false, false, 0, false⟩,
   ⟨0x10, 0x0030, 8, 21, 0, 128, 8, 0, false, false, 0, false⟩,
   ⟨0x10, 0x0031, 8, 21, 0, 128, 16, 0, false, false, 0, false⟩,
   ⟨0x10, 0x0040, 3, 63, 0, 0, 0, 0, false, false, 0, true⟩,
   ⟨0x10, 0x0041, 3, 63, 0, 0, 0, 0, false, false, 0, true⟩,
   ⟨0x10, 0x0042, 2, 63, 0, 0, 0, 0, false, false, 0, true⟩,
   ⟨0x10, 0x0050, 5, 21, 0, 128, 0, 0, false, false, 0, false⟩,
   ⟨0x10, 0x0051, 5, 21, 0, 128, 0, 0, false, false, 0, false⟩,
   ⟨0x10, 0x0052, 5, 21, 0, 128, 0, 0, false, false, 0, false⟩,
   ⟨0x10, 0x0053, 8, 21, 0, 128, 24, 0, false, false, 0, false⟩,
   ⟨0x10, 0x0054, 8, 21, 0, 128, 16, 0, false, false, 0, false⟩,
   ⟨0x10, 0x0060, 3, 63, 1, 0, 0, 0, false, false, 256, false⟩,
   ⟨0x10, 0x0061, 3, 63, 1, 0, 0, 0, false, false, 10, false⟩,
   ⟨0x10, 0x0062, 2, 63, 1, 0, 0, 0, false, false, 3, false⟩,
   ⟨0x10, 0x0063, 3, 63, 1, 0, 0, 0, false, false, 2000, false⟩,
   ⟨0x10, 0x0064, 3, 63, 1, 0, 0, 0, false, false, 4, false⟩,
   ⟨0x10, 0x0065, 3, 63, 1, 0, 0, 0, false, false, 128, false⟩]
/-- Group 0x18. -/
def objs18 : List Obj :=
  [⟨0x18, 0x0000, 2, 21, 0, 0, 0, 0, false, false, 0, false⟩,
   ⟨0x18, 0x0001, 5, 61, 1, 0, 0, 4, false, false, 0, false⟩,
   ⟨0x18, 0x0002, 4, 61, 1, 0, 0, 4, false, false, 4294967295, false⟩,
   ⟨0x18, 0x0003, 4, 21, 0, 0, 0, 0, false, false, 0, false⟩,
   ⟨0x18, 0x0004, 3, 21, 0, 0, 0, 0, false, false, 256, false⟩,
   ⟨0x18, 0x0010, 8, 21, 0, 0, 8, 0, false, false, 0, false⟩,
   ⟨0x18, 0x0011, 8, 21, 0, 8, 8, 0, false, false, 0, false⟩,
   ⟨0x18, 0x0012, 8, 21, 0, 14, 4, 0, false, false, 0, false⟩,
   ⟨0x18, 0x0013, 8, 21, 0, 0, 96, 0, false, false, 0, false⟩,
   ⟨0x18, 0x0020, 3, 63, 1, 0, 0, 0, false, false, 400, false⟩,
   ⟨0x18, 0x0021, 3, 63, 1, 0, 0, 0, false, false, 50, false⟩,
   ⟨0x18, 0x0030, 3, 63, 1, 0, 0, 0, false, false, 2, false⟩,
   ⟨0x18, 0x0031, 3, 63, 1, 0, 0, 0, false, false, 100, false⟩,
   ⟨0x18, 0x0040, 8, 21, 0, 0, 24, 0, false, false, 0, false⟩,
   ⟨0x18, 0x0041, 3, 63, 1, 0, 0, 0, false, false, 100, false⟩,
   ⟨0x18, 0x0042, 3, 63, 1, 0, 0, 0, false, false, 40, false⟩,
   ⟨0x18, 0x0050, 8, 21, 0, 8, 80, 0, false, false, 0, false⟩,
   ⟨0x18, 0x0051, 8, 21, 0, 0, 32, 0, false, false, 0, false⟩]
/-- Group 0x20. -/
def objs20 : List Obj :=
  [⟨0x20, 0x0000, 2, 21, 0, 0, 0, 0, false, false, 64, false⟩,
   ⟨0x20, 0x0010, 4, 63, 1, 64, 0, 0, true, false, 0, false⟩,
   ⟨0x20, 0x0011, 4, 63, 1, 64, 0, 4, true, false, 0, false⟩,
   ⟨0x20, 0x0012, 4, 63, 1, 64, 0, 4, true, false, 0, false⟩,
   ⟨0x20, 0x0013, 4, 63, 1, 64, 0, 4, true, false, 0, false⟩,
   ⟨0x20, 0x0014, 4, 63, 1, 64, 0, 4, true, false, 0, false⟩,
   ⟨0x20, 0x0015, 4, 21, 0, 64, 0, 0, false, false, 0, false⟩,
   ⟨0x20, 0x0016, 5, 63, 0, 64, 0, 0, false, false, 0, false⟩,
   ⟨0x20, 0x0017, 5, 63, 0, 64, 0, 0, false, false, 0, false⟩,
   ⟨0x20, 0x0018, 5, 21, 0, 64, 0, 0, false, false, 0, false⟩,
   ⟨0x20, 0x0019, 4, 63, 0, 64, 0, 0, false, false, 0, false⟩,
   ⟨0x20, 0x0030, 5, 21, 0, 0, 0, 0, false, false, 0, false⟩,
   ⟨0x20, 0x0031, 5, 21, 0, 0, 0, 0, false, false, 0, false⟩,
   ⟨0x20, 0x0100, 4, 63, 1, 8, 0, 4, true, false, 0, false⟩,
   ⟨0x20, 0x0101, 4, 63, 1, 8, 0, 4, true, false, 0, false⟩,
   ⟨0x20, 0x0102, 4, 63, 1, 8, 0, 4, true, false, 0, false⟩,
   ⟨0x20, 0x0103, 2, 63, 1, 8, 0, 4, true, false, 0, false⟩,
   ⟨0x20, 0x0104, 4, 63, 1, 8, 0, 4, true, false, 0, false⟩,
   ⟨0x20, 0x0105, 4, 21, 0, 0, 0, 0, false, false, 0, false⟩]
/-- Group 0x28. -/
def objs28 : List Obj :=
  [⟨0x28, 0x0000, 3, 21, 0, 0, 0, 0, false, false, 256, false⟩,
   ⟨0x28, 0x0001, 3, 21, 0, 0, 0, 0, false, false, 32768, false⟩,
   ⟨0x28, 0x0002, 3, 21, 0, 0, 0, 0, false, false, 16, false⟩,
   ⟨0x28, 0x0010, 4, 63, 1, 0, 0, 1, false, false, 1, false⟩,
   ⟨0x28, 0x0011, 4, 63, 0, 0, 0, 0, false, false, 0, false⟩,
   ⟨0x28, 0x0012, 5, 21, 0, 0, 0, 0, false, false, 0, false⟩,
   ⟨0x28, 0x0020, 4, 63, 0, 0, 0, 0, false, false, 0, true⟩,
   ⟨0x28, 0x0021, 4, 63, 0, 0, 0, 1, false, false, 0, true⟩,
   ⟨0x28, 0x0022, 4, 63, 0, 0, 0, 0, false, false, 0, false⟩,
   ⟨0x28, 0x0023, 4, 63, 0, 0, 0, 4, false, false, 0, false⟩,
   ⟨0x28, 0x0024, 5, 21, 0, 0, 0, 0, false, false, 0, false⟩,
   ⟨0x28, 0x0025, 5, 21, 0, 0, 0, 0, false, false, 0, false⟩,
   ⟨0x28, 0x0026, 5, 63, 0, 0, 0, 4, false, false, 0, false⟩,
   ⟨0x28, 0x0027, 5, 63, 0, 0, 0, 4, false, false, 0, false⟩,
   ⟨0x28, 0x0028, 5, 21, 0, 0, 0, 0, false, false, 0, false⟩,
   ⟨0x28, 0x0030, 2, 63, 1, 0, 0, 0, false, false, 48, false⟩,
   ⟨0x28, 0x0031, 2, 63, 1, 0, 0, 0, false, false, 16, false⟩,
   ⟨0x28, 0x0032, 1, 63, 1, 0, 0, 0, false, false, 1, false⟩,
   ⟨0x28, 0x0033, 5, 21, 0, 256, 0, 0, false, false, 0, false⟩,
   ⟨0x28, 0x0040, 2, 21, 0, 256, 0, 0, false, false, 0, false⟩,
   ⟨0x28, 0x0041, 2, 21, 0, 256, 0, 0, false, false, 0, false⟩,
   ⟨0x28, 0x0042, 2, 21, 0, 256, 0, 0, false, false, 0, false⟩,
   ⟨0x28, 0x0043, 2, 21, 0, 256, 0, 0, false, false, 0, false⟩,
   ⟨0x28, 0x0050, 1, 63, 1, 0, 0, 0, false, false, 1, false⟩] ++
  [⟨0x28, 0x0051, 4, 63, 1, 0, 0, 0, false, false, 131072, false⟩,
   ⟨0x28, 0x0060, 3, 21, 0, 256, 0, 0, false, false, 0, false⟩,
   ⟨0x28, 0x0061, 8, 21, 2, 0, 1008, 0, false, false, 0, false⟩,
   ⟨0x28, 0x0062, 4, 63, 0, 0, 0, 0, false, false, 0, false⟩,
   ⟨0x28, 0x0070, 2, 21, 0, 0, 0, 0, false, false, 64, false⟩,
   ⟨0x28, 0x0071, 2, 21, 0, 0, 0, 0, false, false, 8, false⟩,
   ⟨0x28, 0x0072, 2, 21, 0, 0, 0, 0, false, false, 4, false⟩,
   ⟨0x28, 0x0073, 2, 63, 1, 0, 0, 0, false, false, 16, false⟩,
   ⟨0x28, 0x0074, 3, 63, 1, 0, 0, 0, false, false, 32, false⟩,
   ⟨0x28, 0x0075, 3, 63, 1, 0, 0, 0, false, false, 2000, false⟩,
   ⟨0x28, 0x0076, 3, 63, 1, 0, 0, 0, false, false, 64, false⟩,
   ⟨0x28, 0x0077, 2, 21, 0, 256, 0, 0, false, false, 0, false⟩,
   ⟨0x28, 0x0078, 6, 21, 0, 256, 0, 0, false, false, 0, false⟩,
   ⟨0x28, 0x0079, 8, 21, 0, 256, 48, 0, false, false, 0, false⟩,
   ⟨0x28, 0x007A, 8, 21, 0, 256, 16, 0, false, false, 0, false⟩,
   ⟨0x28, 0x007B, 5, 21, 0, 256, 0, 0, false, false, 0, false⟩,
   ⟨0x28, 0x0080, 9, 21, 0, 0, 0, 2, false, true, 0, false⟩]
/-- Group 0x30. -/
def objs30 : List Obj :=
  [⟨0x30, 0x0000, 4, 21, 0, 0, 0, 0, false, false, 67108864, false⟩,
   ⟨0x30, 0x0001, 2, 21, 0, 0, 0, 0, false, false, 16, false⟩,
   ⟨0x30, 0x0010, 3, 63, 1, 0, 0, 0, false, false, 256, false⟩,
   ⟨0x30, 0x0011, 3, 63, 1, 0, 0, 0, false, false, 50, false⟩,
   ⟨0x30, 0x0012, 4, 63, 1, 0, 0, 0, false, false, 100000, false⟩,
   ⟨0x30, 0x0020, 4, 21, 0, 4, 0, 0, false, false, 0, false⟩,
   ⟨0x30, 0x0021, 5, 21, 0, 0, 0, 0, false, false, 0, false⟩,
   ⟨0x30, 0x0022, 5, 21, 0, 3, 0, 0, false, false, 0, false⟩,
   ⟨0x30, 0x0023, 5, 21, 0, 0, 0, 0, false, false, 0, false⟩,
   ⟨0x30, 0x0024, 5, 21, 0, 16, 0, 0, false, false, 0, false⟩,
   ⟨0x30, 0x0025, 5, 21, 0, 16, 0, 0, false, false, 0, false⟩,
   ⟨0x30, 0x0026, 5, 21, 0, 0, 0, 0, false, false, 0, false⟩,
   ⟨0x30, 0x0027, 5, 21, 0, 8, 0, 0, false, false, 0, false⟩,
   ⟨0x30, 0x0030, 8, 21, 0, 16, 4, 0, false, false, 0, false⟩,
   ⟨0x30, 0x0080, 9, 21, 0, 0, 0, 2, false, true, 0, false⟩]
/-- Group 0x38. -/
def objs38 : List Obj :=
  [⟨0x38, 0x0000, 3, 21, 0, 0, 0, 0, false, false, 4096, false⟩,
   ⟨0x38, 0x0001, 3, 21, 0, 0, 0, 0, false, false, 0, false⟩,
   ⟨0x38, 0x0002, 3, 63, 1, 0, 0, 0, false, false, 2, false⟩,
   ⟨0x38, 0x0003, 2, 63, 1, 0, 0, 0, false, false, 75, false⟩,
   ⟨0x38, 0x0004, 2, 63, 1, 0, 0, 0, false, false, 25, false⟩,
   ⟨0x38, 0x0005, 3, 63, 1, 0, 0, 0, false, false, 2000, false⟩,
   ⟨0x38, 0x0006, 3, 63, 1, 0, 0, 0, false, false, 16, false⟩,
   ⟨0x38, 0x0010, 8, 21, 0, 4096, 32, 0, true, false, 0, false⟩,
   ⟨0x38, 0x0011, 8, 63, 0, 0, 32, 0, false, false, 0, true⟩,
   ⟨0x38, 0x0012, 3, 63, 0, 0, 0, 0, false, false, 0, true⟩,
   ⟨0x38, 0x0013, 8, 21, 0, 0, 8, 0, false, false, 0, false⟩,
   ⟨0x38, 0x0020, 8, 21, 0, 4096, 40, 0, false, false, 0, false⟩,
   ⟨0x38, 0x0021, 8, 21, 0, 4096, 40, 0, false, false, 0, false⟩,
   ⟨0x38, 0x0030, 8, 21, 0, 32, 40, 0, false, false, 0, false⟩,
   ⟨0x38, 0x0031, 5, 21, 0, 32, 0, 0, false, false, 0, false⟩,
   ⟨0x38, 0x0032, 2, 63, 0, 0, 0, 0, false, false, 0, true⟩,
   ⟨0x38, 0x0040, 8, 21, 0, 8, 32, 0, false, false, 0, false⟩,
   ⟨0x38, 0x0050, 5, 21, 0, 0, 0, 0, false, false, 0, false⟩]
/-- Group 0x40. -/
def objs40 : List Obj :=
  [⟨0x40, 0x0000, 3, 21, 0, 0, 0, 0, false, false, 8192, false⟩,
   ⟨0x40, 0x0001, 3, 21, 0, 0, 0, 0, false, false, 0, false⟩,
   ⟨0x40, 0x0002, 3, 21, 0, 0, 0, 0, false, false, 16384, false⟩,
   ⟨0x40, 0x0003, 3, 21, 0, 0, 0, 0, false, false, 0, false⟩,
   ⟨0x40, 0x0010, 8, 55, 0, 0, 64, 0, false, false, 0, true⟩,
   ⟨0x40, 0x0011, 8, 21, 0, 8192, 64, 0, false, false, 0, false⟩,
   ⟨0x40, 0x0012, 1, 55, 0, 8192, 0, 0, false, false, 0, true⟩,
   ⟨0x40, 0x0013, 3, 55, 0, 0, 0, 0, false, false, 0, true⟩,
   ⟨0x40, 0x0014, 8, 55, 0, 0, 4, 0, false, false, 0, true⟩,
   ⟨0x40, 0x0015, 2, 55, 0, 8192, 0, 0, false, false, 0, false⟩,
   ⟨0x40, 0x0016, 4, 55, 0, 8192, 0, 0, false, false, 0, false⟩,
   ⟨0x40, 0x0017, 3, 55, 0, 0, 0, 0, false, false, 0, true⟩,
   ⟨0x40, 0x0020, 2, 55, 0, 8192, 0, 0, false, false, 4, false⟩,
   ⟨0x40, 0x0030, 3, 63, 1, 0, 0, 0, false, false, 128, false⟩,
   ⟨0x40, 0x0031, 8, 21, 0, 8192, 88, 0, false, false, 0, false⟩,
   ⟨0x40, 0x0032, 5, 21, 0, 0, 0, 0, false, false, 0, false⟩,
   ⟨0x40, 0x0033, 5, 21, 0, 0, 0, 0, false, false, 0, false⟩,
   ⟨0x40, 0x0034, 5, 21, 0, 7, 0, 0, false, false, 0, false⟩]
/-- Group 0x48. -/
def objs48 : List Obj :=
  [⟨0x48, 0x0000, 2, 21, 0, 0, 0, 0, false, false, 32, false⟩,
   ⟨0x48, 0x0001, 8, 21, 0, 4, 32, 0, false, false, 0, false⟩,
   ⟨0x48, 0x0010, 8, 21, 0, 32, 32, 0, false, false, 0, false⟩,
   ⟨0x48, 0x0011, 1, 63, 0, 32, 0, 0, false, false, 0, true⟩,
   ⟨0x48, 0x0020, 5, 21, 0, 0, 0, 0, false, false, 0, false⟩,
   ⟨0x48, 0x0021, 5, 21, 0, 0, 0, 0, false, false, 0, false⟩,
   ⟨0x48, 0x0022, 5, 21, 0, 0, 0, 0, false, false, 0, false⟩,
   ⟨0x48, 0x0023, 5, 21, 0, 0, 0, 0, false, false, 0, false⟩]
/-- Group 0x50. -/
def objs50 : List Obj :=
  [⟨0x50, 0x0000, 2, 21, 0, 0, 0, 0, false, false, 8, false⟩,
   ⟨0x50, 0x0001, 2, 21, 0, 8, 0, 0, false, false, 0, false⟩,
   ⟨0x50, 0x0002, 4, 21, 0, 8, 0, 0, false, false, 0, false⟩,
   ⟨0x50, 0x0010, 8, 21, 3, 4096, 64, 0, false, false, 0, false⟩,
   ⟨0x50, 0x0011, 4, 21, 3, 0, 0, 0, false, false, 4294967295, false⟩,
   ⟨0x50, 0x0012, 4, 63, 3, 0, 0, 0, false, false, 4294967295, false⟩,
   ⟨0x50, 0x0013, 5, 21, 3, 0, 0, 0, false, false, 0, false⟩,
   ⟨0x50, 0x0014, 3, 63, 1, 0, 0, 0, false, false, 64, false⟩,
   ⟨0x50, 0x0015, 8, 21, 2, 64, 64, 0, false, false, 0, false⟩,
   ⟨0x50, 0x0020, 8, 21, 0, 8, 48, 0, false, false, 0, false⟩,
   ⟨0x50, 0x0021, 5, 21, 0, 0, 0, 0, false, false, 0, false⟩,
   ⟨0x50, 0x0022, 2, 63, 1, 0, 0, 0, false, false, 24, false⟩,
   ⟨0x50, 0x0023, 8, 21, 0, 256, 12, 0, false, false, 0, false⟩,
   ⟨0x50, 0x0024, 1, 63, 1, 0, 0, 0, false, false, 1, false⟩,
   ⟨0x50, 0x0030, 8, 63, 0, 0, 8, 0, false, false, 0, true⟩,
   ⟨0x50, 0x0031, 3, 63, 1, 0, 0, 0, false, false, 256, false⟩,
   ⟨0x50, 0x0032, 8, 21, 2, 8, 1008, 0, false, false, 0, false⟩,
   ⟨0x50, 0x0033, 8, 21, 0, 0, 16, 0, false, false, 0, false⟩,
   ⟨0x50, 0x0034, 2, 63, 0, 0, 0, 1, false, false, 0, true⟩,
   ⟨0x50, 0x0035, 2, 63, 2, 0, 0, 0, false, false, 0, false⟩,
   ⟨0x50, 0x0036, 4, 63, 0, 0, 0, 0, false, false, 0, false⟩,
   ⟨0x50, 0x0040, 3, 21, 0, 0, 0, 0, false, false, 0, false⟩,
   ⟨0x50, 0x0041, 5, 21, 0, 4096, 0, 0, false, false, 0, false⟩,
   ⟨0x50, 0x0042, 1, 63, 0, 0, 0, 0, false, false, 0, false⟩] ++
  [⟨0x50, 0x0050, 8, 21, 0, 0, 4, 0, false, false, 0, false⟩,
   ⟨0x50, 0x0051, 3, 63, 1, 0, 0, 0, false, false, 2000, false⟩,
   ⟨0x50, 0x0052, 3, 63, 1, 0, 0, 0, false, false, 100, false⟩,
   ⟨0x50, 0x0053, 1, 63, 1, 0, 0, 0, false, false, 1, false⟩,
   ⟨0x50, 0x0054, 2, 61, 0, 0, 0, 1, false, false, 0, true⟩,
   ⟨0x50, 0x0055, 8, 21, 3, 0, 8, 0, false, false, 0, false⟩,
   ⟨0x50, 0x0060, 4, 21, 0, 0, 0, 0, false, false, 0, false⟩,
   ⟨0x50, 0x0061, 4, 21, 0, 0, 0, 0, false, false, 262144, false⟩,
   ⟨0x50, 0x0062, 5, 21, 0, 0, 0, 0, false, false, 0, false⟩,
   ⟨0x50, 0x0063, 5, 21, 0, 0, 0, 0, false, false, 0, false⟩,
   ⟨0x50, 0x0064, 5, 21, 0, 32, 0, 0, false, false, 0, false⟩,
   ⟨0x50, 0x0070, 4, 63, 0, 8, 0, 5, false, false, 0, false⟩,
   ⟨0x50, 0x0071, 5, 63, 0, 8, 0, 4, false, false, 0, false⟩,
   ⟨0x50, 0x0072, 8, 63, 0, 8, 72, 4, false, false, 0, false⟩,
   ⟨0x50, 0x0073, 5, 21, 0, 8, 0, 0, false, false, 0, false⟩,
   ⟨0x50, 0x0078, 4, 63, 0, 256, 0, 5, false, false, 0, false⟩,
   ⟨0x50, 0x0079, 8, 63, 0, 256, 20, 4, false, false, 0, false⟩]
/-- Group 0x58. -/
def objs58 : List Obj :=
  [⟨0x58, 0x0000, 3, 21, 0, 0, 0, 0, false, false, 2048, false⟩,
   ⟨0x58, 0x0001, 3, 21, 0, 0, 0, 0, false, false, 2048, false⟩,
   ⟨0x58, 0x0002, 3, 21, 0, 0, 0, 0, false, false, 40, false⟩,
   ⟨0x58, 0x0010, 8, 63, 1, 2048, 8, 0, false, false, 0, false⟩,
   ⟨0x58, 0x0011, 8, 21, 0, 2048, 16, 0, false, false, 0, false⟩,
   ⟨0x58, 0x0012, 3, 63, 0, 0, 0, 0, false, false, 0, true⟩,
   ⟨0x58, 0x0020, 8, 21, 0, 1024, 64, 0, false, false, 0, false⟩,
   ⟨0x58, 0x0021, 4, 21, 0, 0, 0, 0, false, false, 0, false⟩]
/-- Group 0x60. -/
def objs60 : List Obj :=
  [⟨0x60, 0x0000, 8, 21, 0, 0, 8, 0, false, false, 0, false⟩,
   ⟨0x60, 0x0001, 2, 61, 1, 0, 0, 0, false, false, 0, false⟩,
   ⟨0x60, 0x0010, 8, 63, 0, 256, 16, 0, false, false, 0, false⟩,
   ⟨0x60, 0x0011, 8, 21, 0, 256, 144, 0, false, false, 0, false⟩,
   ⟨0x60, 0x0012, 3, 63, 0, 256, 0, 0, false, false, 0, false⟩,
   ⟨0x60, 0x0020, 8, 63, 0, 0, 32, 0, false, false, 0, false⟩,
   ⟨0x60, 0x0021, 8, 21, 0, 0, 256, 0, false, false, 0, false⟩,
   ⟨0x60, 0x0022, 3, 63, 0, 0, 0, 0, false, false, 0, false⟩,
   ⟨0x60, 0x0030, 8, 63, 0, 0, 8, 0, false, false, 0, false⟩,
   ⟨0x60, 0x0040, 8, 21, 0, 8, 512, 0, false, false, 0, false⟩,
   ⟨0x60, 0x0041, 8, 21, 0, 32, 256, 0, false, false, 0, false⟩,
   ⟨0x60, 0x0042, 2, 63, 0, 0, 0, 0, false, false, 0, true⟩]
/-- Group 0x68. -/
def objs68 : List Obj :=
  [⟨0x68, 0x0000, 8, 21, 0, 0, 8, 0, false, true, 0, false⟩,
   ⟨0x68, 0x0010, 8, 63, 0, 0, 64, 0, false, true, 0, false⟩,
   ⟨0x68, 0x0011, 2, 63, 0, 0, 0, 0, false, true, 0, false⟩,
   ⟨0x68, 0x0012, 8, 63, 1, 0, 16, 0, false, true, 0, false⟩,
   ⟨0x68, 0x0013, 8, 23, 0, 0, 16, 0, false, true, 0, false⟩,
   ⟨0x68, 0x0014, 8, 21, 0, 0, 32, 0, false, true, 0, false⟩]
/-- Group 0x70. -/
def objs70 : List Obj :=
  [⟨0x70, 0x0000, 2, 21, 0, 0, 0, 0, false, false, 168, false⟩,
   ⟨0x70, 0x0001, 8, 21, 0, 168, 8, 0, false, false, 0, false⟩,
   ⟨0x70, 0x0002, 3, 63, 1, 16, 0, 0, false, false, 1500, false⟩,
   ⟨0x70, 0x0010, 5, 21, 0, 0, 0, 0, false, false, 0, false⟩,
   ⟨0x70, 0x0011, 8, 21, 0, 0, 24, 0, false, false, 0, false⟩,
   ⟨0x70, 0x0012, 4, 21, 0, 0, 0, 0, false, false, 0, false⟩,
   ⟨0x70, 0x0020, 6, 21, 0, 44, 0, 0, false, false, 0, false⟩,
   ⟨0x70, 0x0021, 8, 63, 1, 0, 36, 0, false, false, 0, false⟩,
   ⟨0x70, 0x0022, 8, 21, 0, 0, 16, 0, false, false, 0, false⟩,
   ⟨0x70, 0x0023, 8, 21, 0, 0, 16, 0, false, false, 0, false⟩,
   ⟨0x70, 0x0030, 8, 21, 0, 8, 8, 0, false, false, 0, false⟩,
   ⟨0x70, 0x0031, 3, 21, 0, 0, 0, 0, false, false, 0, false⟩,
   ⟨0x70, 0x0040, 2, 63, 1, 0, 0, 0, false, false, 0, false⟩,
   ⟨0x70, 0x0041, 3, 63, 1, 0, 0, 0, false, false, 800, false⟩]
/-- Group 0x78. -/
def objs78 : List Obj :=
  [⟨0x78, 0x0000, 8, 21, 0, 0, 4, 0, false, false, 0, false⟩,
   ⟨0x78, 0x0001, 8, 21, 0, 0, 16, 0, false, false, 0, false⟩,
   ⟨0x78, 0x0010, 4, 21, 0, 0, 0, 0, false, false, 0, false⟩,
   ⟨0x78, 0x0011, 8, 21, 0, 0, 16, 0, false, false, 0, false⟩,
   ⟨0x78, 0x0012, 8, 21, 3, 0, 16, 0, false, false, 0, false⟩,
   ⟨0x78, 0x0013, 4, 21, 0, 0, 0, 0, false, false, 0, false⟩,
   ⟨0x78, 0x0020, 4, 63, 1, 0, 0, 0, false, false, 115200, false⟩,
   ⟨0x78, 0x0021, 1, 29, 1, 0, 0, 0, false, false, 1, false⟩,
   ⟨0x78, 0x0030, 8, 21, 0, 4, 16, 0, false, false, 0, false⟩,
   ⟨0x78, 0x0040, 9, 63, 0, 0, 0, 2, false, false, 0, false⟩,
   ⟨0x78, 0x0041, 2, 63, 0, 0, 0, 1, false, false, 0, true⟩,
   ⟨0x78, 0x0042, 9, 21, 0, 0, 0, 2, false, false, 0, false⟩,
   ⟨0x78, 0x0050, 8, 21, 0, 4, 40, 0, false, false, 0, false⟩,
   ⟨0x78, 0x0051, 5, 21, 0, 0, 0, 0, false, false, 0, false⟩,
   ⟨0x78, 0x0060, 8, 21, 0, 0, 64, 0, false, false, 0, false⟩]
/-- Group 0x7F. -/
def objs7F : List Obj :=
  [⟨0x7F, 0x0000, 8, 21, 4, 0, 8, 0, false, false, 0, false⟩,
   ⟨0x7F, 0x0001, 8, 21, 4, 0, 48, 0, false, false, 0, false⟩,
   ⟨0x7F, 0x0010, 1, 61, 1, 0, 0, 0, false, false, 0, false⟩,
   ⟨0x7F, 0x0020, 1, 21, 4, 0, 0, 0, false, false, 0, false⟩,
   ⟨0x7F, 0x0021, 4, 61, 0, 0, 0, 1, false, false, 0, true⟩]

def objsOf (g : Nat) : List Obj :=
  if g = 0x00 then objs00
  else if g = 0x01 then objs01
  else if g = 0x10 then objs10
  else if g = 0x18 then objs18
  else if g = 0x20 then objs20
  else if g = 0x28 then objs28
  else if g = 0x30 then objs30
  else if g = 0x38 then objs38
  else if g = 0x40 then objs40
  else if g = 0x48 then objs48
  else if g = 0x50 then objs50
  else if g = 0x58 then objs58
  else if g = 0x60 then objs60
  else if g = 0x68 then objs68
  else if g = 0x70 then objs70
  else if g = 0x78 then objs78
  else if g = 0x7F then objs7F
  else []
def groups : List Nat := [0x00, 0x01, 0x10, 0x18, 0x20, 0x28, 0x30, 0x38, 0x40, 0x48, 0x50, 0x58, 0x60, 0x68, 0x70, 0x78, 0x7F]

/-- The row of an object, whether or not the fuse has removed it. -/
def rowOfObj (g i : Nat) : Option Obj := (objsOf g).find? (fun o => o.item == i)

/-- Width in bytes of an object's value (Table 13-1); 0 for a session object. -/
def Obj.width (o : Obj) : Nat :=
  match o.type with
  | 1 => 1 | 2 => 1 | 3 => 2 | 4 => 4 | 5 => 8 | 6 => 4 | 7 => 8 | 8 => o.size
  | _ => 0

/-- The recovery subset of the boot ROM (R413). -/
def inRom (g i : Nat) : Bool :=
  g == 0 || (g == 1 && (i ≤ 5 || i == 0x11)) || (g == 0x78 && (i == 0x40 || i == 0x41))

/-- The object exists now (R389 check 3). -/
def objAt (s : State) (g i : Nat) : Option Obj :=
  match rowOfObj g i with
  | none => none
  | some o =>
    if o.fuse && s.obs.seam.fuse then none
    else if (recovery s || !engineUp s) && !inRom g i then none
    else some o

-- ===== value bytes =====

def pad (n : Nat) (l : List Byte) : List Byte := (l ++ List.replicate n 0).take n
def b1 (n : Nat) : List Byte := leBytes 1 n
def b2 (n : Nat) : List Byte := leBytes 2 n
def b4 (n : Nat) : List Byte := leBytes 4 n
def b8 (n : Nat) : List Byte := leBytes 8 n
def ascii (t : String) : List Byte := t.toList.map (fun c => BitVec.ofNat 8 c.toNat)

/-- Bytes of an object whose content no rule gives (log entry 14). -/
def openBytes (g i n : Nat) : List Byte := (List.range n).map (fun k => Config.openByte ((g * 65536 + i) * 1024 + k))

-- ===== record layouts =====

/-- Table 5-3 -/
def contractBytes (c : Contract) : List Byte :=
  b1 c.link.toNat ++ b1 (classCode c.cls) ++ b1 c.win.toNat ++ b1 c.homemask.toNat ++ b2 c.rate.toNat ++ b2 c.burst.toNat ++
  b2 c.miss.toNat ++ b2 c.write.toNat ++ b1 c.state.toNat ++ b1 c.reason.toNat ++ b2 c.tag.toNat ++ b8 c.admitted.toNat ++ b8 0

/-- Table 7-1 -/
def queueBytes (v : QueueS) : List Byte :=
  let st := match v.state with
    | .free => 0 | .active => 1 | .stopped => 2
  b8 (v.ctx.sqBase.toNat * 4096) ++ b8 (v.ctx.cqBase.toNat * 4096) ++ b1 v.ctx.sqLog.toNat ++ b1 v.ctx.cqLog.toNat ++
  b1 (b2n v.ctx.priv) ++ b1 v.ctx.link.toNat ++ b2 v.ctx.notify.toNat ++ b1 v.ctx.maxJobs.toNat ++ b1 st ++
  b4 v.ctx.tlimit.toNat ++ b1 v.epoch.toNat ++ b1 v.why.toNat ++ List.replicate 34 0

/-- Table 9-6 -/
def logBytes (r : LogRec) : List Byte :=
  b4 r.seq.toNat ++ [r.type, r.sev, r.flags, r.unit] ++ b2 r.island.toNat ++ b2 r.count.toNat ++ b4 r.loc.toNat ++
  b8 r.time.toNat ++ b8 r.addr.toNat ++ b8 r.dla.toNat ++ [r.stack, r.device] ++ b2 r.bench.toNat ++ b4 r.setway.toNat ++
  leBytes 6 r.syndrome.toNat ++ [0, 0] ++ b8 r.detail.toNat

/-- The slot whose ports include `p`: lead port, width in ports, slot. -/
def slotOver (s : State) (p : Nat) : Option (Nat × Nat × Slot) := (allSlots s).find? (fun t => t.1 ≤ p && p < t.1 + t.2.1)

/-- 0x10:0030: the four lanes of a port. -/
def laneBytes (s : State) (p : Nat) : List Byte :=
  match slotOver s p with
  | none => []
  | some (lead, _, _) =>
    let v := linkOf s lead
    let k := 4 * (p - lead)
    b2 (faultBits ((v.faults.drop k).take 4)) ++ b1 ((v.polarity.toNat / 2 ^ k) % 16)

/-- 0x10:0031: state of a member link. -/
def linkStateCode (s : State) (p : Nat) (t : Slot) : Nat :=
  match (linkOf s p).state with
  | .training => 1
  | .l0 | .ioOnly => if t.role == .peer && (plinkOf s t.lnum.toNat).fence != 0 then 4 else 2
  | .recovery | .grace => 3
  | .held => 5
  | _ => 0

def linkBytes (s : State) (p : Nat) : List Byte :=
  match slotAt s p with
  | none => []
  | some (_, _, t) =>
    let v := linkOf s p
    let st := linkStateCode s p t
    b1 (roleCode t.role) ++ b1 t.lnum.toNat ++ b1 st ++ b1 (if st = 2 || st = 4 then v.speed else 0) ++ b1 v.width ++
      b1 (b2n v.reversed) ++ [v.flit]

/-- 0x10:0029 -/
def xBytes (v : XLinkS) : List Byte :=
  b1 (xcode v.state) ++ [v.reason, v.version, v.flit] ++ b4 (b2n v.ide) ++ b8 v.serial.toNat ++ b4 v.capacity.toNat

/-- 0x10:0021 -/
def hostBytes (s : State) (l : HLink) : List Byte :=
  let mem := membersOf s l
  b1 mem.length ++
  b1 (sumNat (mem.map (fun t => if memberUp s l (BitVec.ofNat 2 t.1) then 2 ^ t.1 else 0))) ++
  b1 (sumNat ((List.range 4).map (fun i => if (hdmOf s l i).committed then 2 ^ i else 0)))

def formCode (s : State) : Nat :=
  if standalone s then 0 else
  match s.peer.form with
  | .none => 0 | .waiting => 1 | .committed => 2 | .active => 3 | .failed => 4

/-- 0x18:0010; members recorded missing are those of the domain that a COMMIT left out. -/
def formBytes (s : State) : List Byte :=
  let lead := match s.peer.leader with
    | some d => d.toNat
    | none => 0xFF
  let dom := sumNat ((domainDevs s).map (fun d => 2 ^ d.toNat))
  let missing := if committed s then dom - (dom &&& s.peer.members.toNat) else 0
  b1 (formCode s) ++ b1 lead ++ [s.peer.members, s.peer.cause] ++ b1 missing

/-- 0x18:0011 -/
def routeBytes (s : State) (d : DevId) : List Byte :=
  if d == devId s || !(domainDevs s).contains d then [3, 0xFF] else
  let (r, v) := match routeOf s d with
    | .direct => (0, 0xFF)
    | .detour v => (1, v.toNat)
    | .unreachable => (2, 0xFF)
  b1 r ++ b1 v ++ b2 (unitsOf s (bundleTo s d)) ++ b2 (unitsOf s (availTo s d))

/-- 0x18:0013 -/
def lsdbBytes (s : State) : List Byte :=
  (List.range 8).flatMap (fun i => (List.range 8).flatMap (fun j =>
    b1 (if i = j then 0 else dbUnits s (BitVec.ofNat 3 i) (BitVec.ofNat 3 j)))) ++
  (List.range 8).flatMap (fun i => b4 (tget ((0 : BitVec 32), (0 : BitVec 64)) s.peer.lsdb i).1.toNat)

/-- 0x18:0040 -/
def boardTimeBytes (s : State) : List Byte :=
  let parent := match s.peer.parent with
    | some d => d.toNat
    | none => 0xFF
  let st := match s.peer.sync with
    | .free => 0 | .locking => 1 | .locked => 2 | .unlocked => 3
  encFields [(1, parent), (1, s.peer.hops.toNat), (8, s.peer.offset.toNat), (4, s.peer.rate.toNat), (1, st)]

/-- 0x30:0030 -/
def attachBytes (s : State) (h : Nat) : List Byte :=
  let links := (List.range 8).filter (fun l => (hlinkOf s (BitVec.ofNat 3 l)).hsock.toNat == h && !(leadsOf s .host l).isEmpty)
  if standalone s then
    (if links.isEmpty then [0xFF, 0] else b1 (devId s).toNat ++ b1 (sumNat (links.map (2 ^ ·))))
  else match s.snoop.attach.find? (fun p => p.1 == h) with
    | some p => b1 p.2.1.toNat ++ [p.2.2]
    | none => [0xFF, 0]

/-- 0x38:0030 -/
def assayBytes (a : AssayRec) : List Byte :=
  let mean := if a.count = 0 then 0 else a.sum.toNat / a.count.toNat
  b8 a.count.toNat ++ b4 mean ++ b4 a.p99.toNat ++ b4 a.p9999.toNat ++ b4 a.max.toNat ++ b4 a.a.toNat ++
    [a.classes.setWidth 8, 0, 0, 0] ++ b8 a.time.toNat

/-- 0x38:0040 -/
def shareBytes (s : State) (h : Nat) : List Byte :=
  let l := (committedShares s).filter (fun x => x.origin.toNat == h)
  let lam := fun (c : LClass) => sumNat ((l.filter (fun x => x.ctr.cls == c)).map (fun x => lamD s x.ctr)) * 65536 / 840
  b4 l.length ++ b4 0 ++ b8 (lam .vermilion) ++ b8 (lam .ochre) ++ b8 (lam .slate)

/-- 0x48:0001: Table 8-1. -/
def polyBytes (p : Nat) : List Byte :=
  let f := fun (w r poly x : Nat) => b8 (w + 256 * r) ++ b8 poly ++ b8 x ++ b8 x
  if p = 0 then f 32 1 0x1EDC6F41 0xFFFFFFFF else if p = 1 then f 32 1 0x04C11DB7 0xFFFFFFFF
  else if p = 2 then f 64 0 0x42F0E1EBA9EA3693 0 else f 16 0 0x8BB7 0

/-- 0x48:0010 -/
def engineBytes (e : EngineS) : List Byte :=
  let (busy, q, j, b) := match e.busy with
    | some (b, q, j) => (1, q.toNat, j.toNat, b.toNat)
    | none => (0, 0, 0, 0xFFFF)
  b1 (b2n e.service) ++ b1 busy ++ b2 q ++ b2 j ++ b2 b ++ b8 e.cursor.toNat ++ b8 e.value.toNat ++ b8 0

/-- 0x28:0061 and 0x50:0032: the count, 0, and the entries from the cursor. -/
def pageBytes (l : List (List Byte)) (cursor most : Nat) : List Byte :=
  b4 l.length ++ b4 0 ++ ((l.drop cursor).take most).flatten

/-- Free spare rows of a stack: 512 in each of 512 banks, less those passed and those found faulty (R247, R367). -/
def freeSpares (s : State) (st : Nat) : Nat :=
  262144 - sumNat ((s.rel.spares.filter (fun p => p.1 / 512 == st)).map (·.2)) -
    (s.rel.badSpare.filter (fun k => k / 2 ^ 26 == st)).length

def contStep : ContPhase → Nat
  | .none => 0 | .stop => 1 | .writeBack => 3 | .holding => 4

/-- 0x50:0050 -/
def containBytes (s : State) : List Byte :=
  if s.dev.stage == .containment then b1 (contStep s.rel.cphase) ++ [s.rel.cause] else [0, 0]

/-- 0x58:0011 -/
def sourceBytes (v : EvSrc) : List Byte := b4 v.count.toNat ++ b4 (b2n v.acked) ++ b8 v.last.toNat

/-- The newest record in place `i` of the recent ring (R456). -/
def recentAt (s : State) (m i : Nat) : List Byte :=
  match s.evt.ring.find? (fun r => r.seq.toNat % m == i) with
  | some r => recordOf s r false
  | none => List.replicate 64 0

def selBytes (s : State) (b : Option Bench) : List Byte :=
  (List.range (if b.isSome then 8 else 16)).flatMap (fun n => b2 ((cntOf s (cntKey b n)).sel.toNat % 65536))

/-- A counter and its read time (R473). -/
def counterBytes (s : State) (b : Option Bench) (n : Nat) (t : Time) : List Byte := b8 (cntValue s b n) ++ b8 t.toNat

/-- 0x60:0011: the cycle counter, then counters 0 to 7. -/
def benchCounters (s : State) (b : Bench) : List Byte := (8 :: List.range 8).flatMap (fun n => counterBytes s (some b) n s.now)
def deviceCounters (s : State) : List Byte := (List.range 16).flatMap (fun n => counterBytes s none n s.now)

def histBytes (s : State) (l : Nat) : List Byte := (List.range 128).flatMap (fun k => b4 (tget 0 s.obs.hist (l * 128 + k)).toNat)
def xhistBytes (s : State) (x : Nat) : List Byte := (List.range 32).flatMap (fun k => b8 (tget 0 s.obs.xhist (x * 32 + k)).toNat)

/-- Nominal and current rate in MHz, and whether the island is clock-gated (Table 12-6, R372, R373). -/
def islandRate (s : State) (i : Nat) : Nat × Nat × Bool :=
  if i < 128 then
    match slotOver s i with
    | some (lead, _, _) =>
      let v := linkOf s lead
      let up := portUp s lead || v.state == .ioOnly || v.state == .training
      (1000, if v.speed = 16 then 250 else if v.speed = 32 then 500 else 1000, !up)
    | none => (1000, 1000, true)
  else if i < 144 then (1500, clockOf s (BitVec.ofNat 4 (i - 128)), false)
  else if i < 152 then (1600, 1600, s.rel.retired.getLsbD (i - 144))
  else if i < 160 then (1500, 1500, false)
  else if i < 164 then (2000, 2000, false)
  else if i < 166 then (1000, 1000, false)
  else if i = 166 then (781, 781, s.obs.seam.fuse)
  else (1500, 1500, false)

/-- 0x70:0001 -/
def islandBytes (s : State) (i : Nat) : List Byte :=
  let (nom, cur, gated) := islandRate s i
  b2 nom ++ b2 cur ++ b1 (b2n gated) ++ b1 (b2n (!(s.clk.unlocked.contains i)))

/-- 0x70:0022: the highest sensor, the regions with a sensor at its throttle limit, the command rates in per cent. -/
def thermalBytes (s : State) : List Byte :=
  let hottest := (List.range 44).foldl (fun m i => if tempOf s m < tempOf s i then i else m) 0
  let regions := sumNat ((List.range 3).map (fun r =>
    if s.clk.throttled.any (fun k => (if k < 16 then 0 else 2) == r) || sensors.any (fun i => regionOf i == r && atLimit s 1 i)
    then 2 ^ r else 0))
  encFields ([(2, hottest), (1, regions)] ++ (List.range 8).map (fun st => (1, 100 - 10 * tget 0 s.clk.rateStep st)))

/-- Module power in W: mV times 0.1 A is a ten-thousandth of a watt. -/
def powerW (s : State) : Nat :=
  sumNat ((List.range 8).map (fun i => (s.clk.volts.getD i 0).toNat * (s.clk.amps.getD i 0).toNat)) / 10000

/-- 0x78:0011 -/
def commitBytes (s : State) : List Byte :=
  let copy := fun (b : Option Bool) => match b with
    | some b => b2n b
    | none => 0xFF
  b1 (b2n s.hen.commitRun.isSome) ++ b1 (copy s.hen.commitTarget) ++
  b1 (b2n s.dev.imgA.valid + 2 * b2n s.dev.imgB.valid) ++ [s.hen.commitResult] ++ b4 (copy s.dev.loaded) ++
  b4 s.dev.imgA.gen.toNat ++ b4 s.dev.imgB.gen.toNat

def accBytes (a : Accessor) : List Byte := [BitVec.ofNat 8 (transportNo a.transport), if a.transport == .mailbox || a.transport == .bar0 then a.link.setWidth 8 else a.eid]

/-- 0x78:0030: holder, handle, remaining time in µs. -/
def sessionBytes (s : State) (k : Nat) : List Byte :=
  let (g, i) := if k = 0 then (0x28, 0x80) else if k = 1 then (0x30, 0x80) else if k = 2 then (0x78, 0x40) else (0x78, 0x42)
  match s.hen.sessions.find? (fun v => v.group.toNat == g && v.item.toNat == i) with
  | some v => accBytes v.acc ++ [0, 0] ++ b4 v.handle.toNat ++ b4 (((v.until_ - s.now).toNat + 999) / 1000)
  | none => [0xFF, 0xFF]

/-- The generation of the image loaded, 0 under factory defaults. -/
def loadedGen (s : State) : Nat :=
  match s.dev.loaded with
  | some b => (imgOf s b).gen.toNat
  | none => 0

def stageCode : Stage → Nat
  | .power => 0 | .rom => 1 | .firmware => 2 | .config => 3 | .memory => 4 | .localReady => 5 | .memoryActive => 6
  | .containment => 7 | .halted => 8 | .service => 9

/-- 0x01:0005 -/
def firmwareBytes (s : State) : List Byte :=
  let run := match s.dev.running with
    | some b => b2n b
    | none => 0xFF
  let ver := fun (f : FwSlot) => if f.valid then f.version.toNat else 0
  b2 run ++ b2 (ver s.dev.slotA) ++ b2 (ver s.dev.slotB) ++ b2 0 ++ b4 (loadedGen s)

-- ===== status words that registers and objects share =====

/-- The SEQ of the newest event record; 0 before the first one (Table 16-5). -/
def newestSeq (s : State) : Nat := if s.evt.ring.isEmpty then 0 else (s.evt.nextSeq - 1).toNat

/-- The retired ways of a bench, from either cause (R94; 0x28:0060 shows at most 65,535, log entry 112): all but the orphans' where its stack is retired (R271). -/
def retiredWays (s : State) (b : Bench) : Nat :=
  let l := s.cache.tags.filter (fun p => benchOfKey p.1 == b)
  if s.rel.retired.getLsbD (stackOf b).toNat then 524288 - (l.filter (fun p => p.2.state == .orphan)).length
  else (l.filter (fun p => p.2.state == .retired)).length

/-- CACHE_STAT (Table 3-12). -/
def cacheStat (s : State) : Nat :=
  statusCode s.cache.cLasterr * 2 ^ 28 + b2n (!s.cache.orphans.isEmpty) * 32 + b2n s.cache.stale * 16 + cstateCode s.cache.cstate

/-- BCH_MSTAT (Table 3-9). -/
def maintStat (s : State) : Nat :=
  let st := match s.cache.mOp with
    | none => 0
    | some (.range ..) => 1
    | some (.setWay ..) => 2
  statusCode s.cache.mLasterr * 2 ^ 28 + b2n s.cache.mRefused * 256 + b2n s.cache.mDone * 16 + st

/-- HBC_FLIP_CTL (Table 9-9). -/
def flipCtl (f : HbcFlip) : Nat :=
  statusCode f.lasterr * 2 ^ 28 + f.msel.toNat * 512 + b2n f.done * 256 + b2n f.match_ * 4 + b2n f.meta_ * 2 + b2n f.arm

/-- BFLIP_CTL (Table 9-10). -/
def bflipCtl (v : BenchS) : Nat :=
  statusCode v.flipErr * 2 ^ 28 + v.flipTgt.toNat * 65536 + b2n v.flipDone * 256 + b2n v.flipArm

/-- GSTAT (Table 14-6). -/
def gstat (s : State) : Nat :=
  statusCode s.reg.lasterr * 2 ^ 28 + b2n (s.dev.stage == .containment) * 2 ^ 13 + b2n (presented s) * 2 ^ 12 +
    (devId s).toNat * 512 + s.dev.straps.mode.toNat * 128 + stageCode s.dev.stage

-- ===== reads by group =====

def read00 (i : Nat) : List Byte :=
  if i = 0 then ascii "NZ-GK8512" else if i = 1 then ascii "Sulvenne" else if i = 2 then b4 0x4E5A8512
  else if i = 3 then b2 0x4E5A else if i = 4 then b1 0x10 else if i = 5 then b8 Config.serial.toNat else b2 0x0100

def read01 (s : State) (i k : Nat) : List Byte :=
  if i = 0 then b1 (stageCode s.dev.stage) ++ [if s.dev.stage == .halted then s.dev.haltCause else 0]
  else if i = 1 then b1 (devId s).toNat ++ b1 s.dev.straps.mode.toNat ++ b1 (b2n s.dev.straps.defcfg)
  else if i = 2 then b1 (resetCode s.dev.lastReset)
  else if i = 3 then (List.range 7).flatMap (fun n => b8 (tget 0 s.dev.resets n).toNat)
  else if i = 4 then b8 (tget 0 s.dev.entry k).toNat
  else if i = 5 then firmwareBytes s else []

def read10 (s : State) (i k : Nat) : List Byte :=
  let p := linkOf s k
  if i = 0x00 then b1 128
  else if i = 0x10 then b4 (tget (0 : BitVec 32) s.port.quad k).toNat
  else if i = 0x20 then b4 (hostParam (hlinkOf s (BitVec.ofNat 3 k))).toNat
  else if i = 0x21 then hostBytes s (BitVec.ofNat 3 k)
  else if i = 0x28 then b1 (xlinkOf s (BitVec.ofNat 5 k)).idepol.toNat
  else if i = 0x29 then xBytes (xlinkOf s (BitVec.ofNat 5 k))
  else if i = 0x30 then laneBytes s k
  else if i = 0x31 then linkBytes s k
  else if i = 0x50 then b8 p.crc.toNat
  else if i = 0x51 then b8 p.naks.toNat
  else if i = 0x52 then b8 p.fec.toNat
  else if i = 0x53 then b8 p.retThr.toNat ++ b8 p.retUnc.toNat ++ b8 p.retOther.toNat
  else if i = 0x54 then b8 p.graces.toNat ++ b8 p.urgent.toNat
  else if i = 0x60 then b2 s.port.thr.toNat
  else if i = 0x61 then b2 s.port.window.toNat
  else if i = 0x62 then b1 s.port.dropAfter.toNat
  else if i = 0x63 then b2 s.port.xTimeout.toNat
  else if i = 0x64 then b2 s.port.xLoss.toNat
  else if i = 0x65 then b2 s.port.cut.toNat else []

def read18 (s : State) (i k : Nat) : List Byte :=
  let d : DevId := BitVec.ofNat 3 k
  if i = 0x00 then b1 (s.dev.straps.mode.toNat * 8 + (devId s).toNat)
  else if i = 0x01 then b8 s.peer.boardId.toNat
  else if i = 0x02 then b4 s.peer.dmap.toNat
  else if i = 0x03 then b4 (crc32c (b4 s.peer.dmap.toNat)).toNat
  else if i = 0x04 then b2 s.peer.version.toNat
  else if i = 0x10 then formBytes s
  else if i = 0x11 then routeBytes s d
  else if i = 0x12 then
    (match (plinkOf s k).peer with
     | some e => b1 e.toNat
     | none => [0xFF]) ++ b1 (plinkOf s k).peerLink.toNat ++ [(plinkOf s k).fence]
  else if i = 0x13 then lsdbBytes s
  else if i = 0x20 then b2 s.peer.formTimeout.toNat
  else if i = 0x21 then b2 s.peer.settle.toNat
  else if i = 0x30 then b2 s.peer.detourDelay.toNat
  else if i = 0x31 then b2 s.peer.reconTimeout.toNat
  else if i = 0x40 then boardTimeBytes s
  else if i = 0x41 then b2 s.peer.syncEvery.toNat
  else if i = 0x42 then b2 s.peer.syncFault.toNat
  else if i = 0x50 then
    (List.range 5).flatMap (fun c => b8 (tget 0 s.peer.sentBy (k * 5 + c)).toNat) ++
    (List.range 5).flatMap (fun c => b8 (tget 0 s.peer.recvBy (k * 5 + c)).toNat)
  else if i = 0x51 then b8 s.peer.resent.toNat ++ b8 s.peer.salvaged.toNat ++ b8 s.peer.detoured.toNat ++ b8 s.peer.discarded.toNat
  else []

def read20 (s : State) (i k : Nat) : List Byte :=
  let w : WinId := BitVec.ofNat 6 k
  let v := winOf s w
  let h := tget HomeRange.init s.region.hr k
  if i = 0x00 then b1 64
  else if i = 0x10 then b4 (winCtl v).toNat
  else if i = 0x11 then b4 v.geo.base.toNat
  else if i = 0x12 then b4 v.geo.limit.toNat
  else if i = 0x13 then b4 (winTgt v).toNat
  else if i = 0x14 then b4 (winAttr v).toNat
  else if i = 0x15 then b4 (winStat s w).toNat
  else if i = 0x16 then b8 v.acc.toNat
  else if i = 0x17 then b8 v.drt.toNat
  else if i = 0x18 then b8 v.pnd.toNat
  else if i = 0x19 then b4 v.mcmd.toNat
  else if i = 0x30 then b8 s.region.rightsCount.toNat
  else if i = 0x31 then b8 s.region.unmappedCount.toNat
  else if i = 0x100 then b4 h.base.toNat
  else if i = 0x101 then b4 h.limit.toNat
  else if i = 0x102 then b4 h.lbase.toNat
  else if i = 0x103 then [h.ways]
  else if i = 0x104 then b4 h.devlist.toNat
  else if i = 0x105 then b4 (homeDigest s).toNat else []

def read28 (s : State) (i k : Nat) : List Byte :=
  let b : Bench := BitVec.ofNat 8 k
  let v := benchOf s b
  if i = 0x00 then b2 256 else if i = 0x01 then b2 32768 else if i = 0x02 then b2 16
  else if i = 0x10 then b4 (b2n s.cache.enable)
  else if i = 0x11 then b4 (cacheStat s)
  else if i = 0x12 then b8 s.cache.bypw.toNat
  else if i = 0x22 then b4 (maintStat s)
  else if i = 0x23 then b4 s.cache.msw.toNat
  else if i = 0x24 then b8 s.cache.discarded.toNat
  else if i = 0x25 then b8 s.cache.orphSkipped.toNat
  else if i = 0x26 then b8 s.cache.mbase.toNat
  else if i = 0x27 then b8 s.cache.mlim.toNat
  else if i = 0x28 then b8 s.cache.mProg.toNat
  else if i = 0x30 then b1 s.cache.scanEngage.toNat
  else if i = 0x31 then b1 s.cache.scanRelease.toNat
  else if i = 0x32 then b1 (b2n s.cache.scanOn)
  else if i = 0x33 then b8 v.demoted.toNat
  else if i = 0x40 then b1 v.poolV.toNat
  else if i = 0x41 then b1 v.poolO.toNat
  else if i = 0x42 then b1 (inPool s b .vermilion + inPool s b .ochre + inPool s b .shared)
  else if i = 0x43 then b1 (v.wbuf.filter (fun e => e.slot.toNat < 32)).length
  else if i = 0x50 then b1 (b2n s.cache.sweepOn)
  else if i = 0x51 then b4 s.cache.sweepThreshold.toNat
  else if i = 0x60 then b2 (min 0xFFFF (retiredWays s b))
  else if i = 0x61 then pageBytes (retiredEntries s) s.cache.retiredCursor.toNat 250
  else if i = 0x62 then b4 s.cache.retiredCursor.toNat
  else if i = 0x70 then b1 64 else if i = 0x71 then b1 8 else if i = 0x72 then b1 4
  else if i = 0x73 then b1 s.cache.haulCap.toNat
  else if i = 0x74 then b2 s.cache.loadThreshold.toNat
  else if i = 0x75 then b2 s.cache.imbalance.toNat
  else if i = 0x76 then b2 s.cache.releaseCap.toNat
  else if i = 0x77 then b1 v.deque.length
  else if i = 0x78 then b4 (BitVec.ofInt 32 v.k).toNat
  else if i = 0x79 then (List.range 6).flatMap (fun n => b8 (tget 0 v.ran n).toNat)
  else if i = 0x7A then b8 v.stolen.toNat ++ b8 v.stolenX.toNat
  else if i = 0x7B then b8 v.floorOps.toNat else []

def read30 (s : State) (i k : Nat) : List Byte :=
  if i = 0x00 then b4 67108864 else if i = 0x01 then b1 16
  else if i = 0x10 then b2 s.snoop.holdTime.toNat
  else if i = 0x11 then b2 s.snoop.biTimeout.toNat
  else if i = 0x12 then b4 s.snoop.evictThreshold.toNat
  else if i = 0x20 then b4 (s.snoop.entries.filter (fun p => p.1 / (64 * 262144) == k && p.2.state != .invalid)).length
  else if i = 0x21 then b8 s.snoop.evictions.toNat
  else if i = 0x22 then b8 (tget 0 s.snoop.sent k).toNat
  else if i = 0x23 then b8 s.snoop.delayed.toNat
  else if i = 0x24 then b8 (tget 0 s.snoop.timeouts k).toNat
  else if i = 0x25 then b8 (tget 0 s.snoop.violations k).toNat
  else if i = 0x26 then b8 s.snoop.corrected.toNat
  else if i = 0x27 then b8 (tget 0 s.snoop.flits k).toNat
  else if i = 0x30 then attachBytes s k else []

def read38 (s : State) (i k : Nat) : List Byte :=
  let c := contractOf s (BitVec.ofNat 12 k)
  if i = 0x00 then b2 4096
  else if i = 0x01 then b2 (s.contract.table.filter (fun p => p.2.ctr.state != 0)).length
  else if i = 0x02 then b2 s.contract.spread.toNat
  else if i = 0x03 then b1 s.contract.ceil.toNat
  else if i = 0x04 then b1 s.contract.margin.toNat
  else if i = 0x05 then b2 s.contract.window.toNat
  else if i = 0x06 then b2 s.contract.disq.toNat
  else if i = 0x10 then contractBytes c.ctr
  else if i = 0x13 then
    let r := s.contract.result
    [r.1, r.2.1, r.2.2.1, r.2.2.2.1] ++ b2 r.2.2.2.2.toNat
  else if i = 0x20 then (List.range 5).flatMap (fun n => b8 (tget 0 c.breaches (n + 1)).toNat)
  else if i = 0x21 then (List.range 5).flatMap (fun n => b8 (tget 0 c.counts n).toNat)
  else if i = 0x30 then assayBytes (assayOf s (BitVec.ofNat 5 k))
  else if i = 0x31 then b8 (tget 0 s.contract.exceed k).toNat
  else if i = 0x40 then shareBytes s k
  else if i = 0x50 then b8 s.contract.starved.toNat else []

def read40 (s : State) (i k : Nat) : List Byte :=
  let v := queueOf s (BitVec.ofNat 13 k)
  if i = 0x00 then b2 8192
  else if i = 0x01 then b2 (s.job.queues.filter (fun p => p.2.state != .free)).length
  else if i = 0x02 then b2 16384
  else if i = 0x03 then b2 s.job.jobs.length
  else if i = 0x11 then (if v.state == .free then [] else queueBytes v)
  else if i = 0x15 then b1 v.ctx.maxJobs.toNat
  else if i = 0x16 then b4 v.ctx.tlimit.toNat
  else if i = 0x20 then b1 (weightOf s (BitVec.ofNat 13 k))
  else if i = 0x30 then b2 s.job.threshold.toNat
  else if i = 0x31 then (List.range 11).flatMap (fun n => b8 (tget 0 v.done n).toNat)
  else if i = 0x32 then b8 s.job.ignored.toNat
  else if i = 0x33 then b8 s.job.inert.toNat
  else if i = 0x34 then b8 (tget 0 s.job.lost k).toNat else []

def read48 (s : State) (i k : Nat) : List Byte :=
  if i = 0x00 then b1 32
  else if i = 0x01 then polyBytes k
  else if i = 0x10 then engineBytes (engineOf s k)
  else if i = 0x20 then b8 s.job.ckBytes.toNat
  else if i = 0x21 then b8 s.job.ckMismatch.toNat
  else if i = 0x22 then b8 s.job.ckParity.toNat
  else if i = 0x23 then b8 s.job.ckWait.toNat else []

def read50 (s : State) (i k : Nat) : List Byte :=
  let f := flipOf s k
  let v := benchOf s (BitVec.ofNat 8 k)
  if i = 0x00 then b1 8
  else if i = 0x01 then b1 (b2n (s.rel.retired.getLsbD k))
  else if i = 0x02 then b4 (freeSpares s k)
  else if i = 0x10 then (match s.rel.log.find? (fun r => r.seq.toNat % 4096 == k) with
    | some r => logBytes r
    | none => [])
  else if i = 0x11 then b4 (s.rel.logNext - 1).toNat
  else if i = 0x12 then b4 s.rel.logAck.toNat
  else if i = 0x13 then b8 s.rel.logLost.toNat
  else if i = 0x14 then b2 s.rel.logLimit.toNat
  else if i = 0x15 then (match s.rel.fatal[k]? with
    | some r => logBytes r
    | none => [])
  else if i = 0x20 then (List.range 6).flatMap (fun n => b8 (tget 0 s.rel.outcomes (k * 6 + n)).toNat)
  else if i = 0x21 then b8 s.rel.metaCorrected.toNat
  else if i = 0x22 then b1 s.rel.scrubPeriod.toNat
  else if i = 0x23 then b8 v.scrubPass.toNat ++ b2 v.scrubNext.toNat ++ b2 (min (scrubLag s (BitVec.ofNat 8 k)) 0xFFFF)
  else if i = 0x24 then b1 (b2n s.rel.scrubOn)
  else if i = 0x31 then b2 s.rel.reserve.toNat
  else if i = 0x32 then pageBytes (remapEntries s k) s.rel.remapCursor.toNat 125
  else if i = 0x33 then
    let r := s.rel.lastRemap
    encFields [(1, statusCode r.1), (1, r.2.1.toNat), (4, r.2.2.1.toNat), (4, r.2.2.2.toNat)]
  else if i = 0x35 then [s.rel.retiredMask]
  else if i = 0x36 then b4 s.rel.remapCursor.toNat
  else if i = 0x40 then b2 s.rel.poison.length
  else if i = 0x41 then (match s.rel.poison[k]? with
    | some a => b8 a.toNat
    | none => b8 0)
  else if i = 0x42 then b1 (b2n s.rel.poisonOver)
  else if i = 0x50 then containBytes s
  else if i = 0x51 then b2 s.rel.wbLimit.toNat
  else if i = 0x52 then b2 s.rel.hold.toNat
  else if i = 0x53 then b1 (b2n s.rel.autoReset)
  else if i = 0x55 then b8 s.rel.result.toNat
  else if i = 0x60 then b4 s.cache.orphans.length
  else if i = 0x61 then b4 262144
  else if i = 0x62 then b8 s.rel.tlDiscarded.toNat
  else if i = 0x63 then b8 s.rel.orphLost.toNat
  else if i = 0x64 then b8 (tget 0 s.rel.lostSerial k).toNat
  else if i = 0x70 then b4 (flipCtl f)
  else if i = 0x71 then b8 f.dla.toNat
  else if i = 0x72 then leBytes 70 f.mask.toNat
  else if i = 0x73 then b8 f.count.toNat
  else if i = 0x78 then b4 (bflipCtl v)
  else if i = 0x79 then leBytes 20 v.flipMask.toNat else []

def read58 (s : State) (i k : Nat) : List Byte :=
  if i = 0x00 then b2 2048 else if i = 0x01 then b2 2048 else if i = 0x02 then b2 40
  else if i = 0x10 then b8 (tget (0 : BitVec 32) s.evt.route k).toNat
  else if i = 0x11 then sourceBytes (evSrc s k)
  else if i = 0x20 then recentAt s 1024 k
  else if i = 0x21 then b4 (newestSeq s) else []

def read60 (s : State) (i k : Nat) : List Byte :=
  let b : Bench := BitVec.ofNat 8 k
  if i = 0x00 then openBytes 0x60 0 8
  else if i = 0x01 then b1 s.reg.counterPage.toNat
  else if i = 0x10 then selBytes s (some b)
  else if i = 0x11 then benchCounters s b
  else if i = 0x12 then b2 (overBits s (some b))
  else if i = 0x20 then selBytes s none
  else if i = 0x21 then deviceCounters s
  else if i = 0x22 then b2 (overBits s none)
  else if i = 0x30 then [s.obs.samplingLog] ++ b1 (b2n s.obs.sampling)
  else if i = 0x40 then histBytes s k
  else if i = 0x41 then xhistBytes s k else []

def read68 (s : State) (i : Nat) : List Byte :=
  let m := s.obs.seam
  if i = 0x00 then [4, 2, 25, 0] ++ b2 0x03FE
  else if i = 0x10 then m.filters
  else if i = 0x11 then b1 m.control.toNat
  else if i = 0x12 then b4 (match m.exportNext with
    | some v => v.toNat
    | none => m.exportSet.toNat)
  else if i = 0x13 then ringSettings m
  else if i = 0x14 then
    b1 m.control.toNat ++ b1 (b2n (exportOn m) + 2 * b2n m.ringOn) ++ List.replicate 6 0 ++
      b8 m.captured.toNat ++ b8 m.dropped.toNat ++ b8 m.sent.toNat
  else []

def read70 (s : State) (i k : Nat) : List Byte :=
  if i = 0x00 then b1 168
  else if i = 0x01 then islandBytes s k
  else if i = 0x02 then b2 (capOf s k)
  else if i = 0x10 then b8 s.now.toNat
  else if i = 0x11 then encFields [(1, b2n s.clk.refclk), (1, b2n s.clk.holdover), (8, s.clk.lastStep.toNat), (8, s.clk.lastStepAt.toNat)]
  else if i = 0x12 then b4 (min s.clk.islandDiff.toNat 0xFFFFFFFF)
  else if i = 0x20 then b4 (s.clk.temps.getD k 0).toNat
  else if i = 0x21 then s.clk.limits.flatMap (fun l => b4 l.toNat)
  else if i = 0x22 then thermalBytes s
  else if i = 0x23 then b8 s.clk.thrSteps.toNat ++ b8 s.clk.thrPasses.toNat
  else if i = 0x30 then b4 (s.clk.volts.getD k 0).toNat ++ b4 (s.clk.amps.getD k 0).toNat
  else if i = 0x31 then b2 (powerW s)
  else if i = 0x40 then [s.dev.testSel]
  else if i = 0x41 then b2 s.dev.waitLimit.toNat else []

def read78 (s : State) (i k : Nat) : List Byte :=
  if i = 0x00 then [0x0F, if s.hen.conOn then 0x0F else 0x07]
  else if i = 0x01 then b8 s.hen.cycles.toNat ++ b8 s.hen.ops.toNat
  else if i = 0x10 then b4 s.hen.changed.length
  else if i = 0x11 then commitBytes s
  else if i = 0x12 then b8 s.hen.commitsOk.toNat ++ b8 s.hen.commitsBad.toNat
  else if i = 0x13 then b4 s.hen.ignored.toNat
  else if i = 0x20 then b4 s.hen.conRate.toNat
  else if i = 0x21 then b1 (b2n s.hen.conOn)
  else if i = 0x30 then sessionBytes s k
  else if i = 0x50 then (List.range 5).flatMap (fun n => b8 (tget 0 s.hen.tcount (k * 5 + n)).toNat)
  else if i = 0x51 then b8 s.hen.wrongKeys.toNat
  else if i = 0x60 then s.hen.subs.flatMap (fun b => accBytes b.acc) else []

def read7F (s : State) (i : Nat) : List Byte :=
  if i = 0x00 then openBytes 0x7F 0 8
  else if i = 0x01 then openBytes 0x7F 1 48
  else if i = 0x10 then b1 (b2n s.hen.lock)
  else if i = 0x20 then b1 (b2n s.obs.seam.fuse) else []

/-- The live value of element `k` of an object, at its width; a write-only action reads 0 (R394). -/
def objRead (s : State) (o : Obj) (k : Nat) : List Byte :=
  let g := o.group
  let v :=
    if o.action then []
    else if g = 0x00 then read00 o.item
    else if g = 0x01 then read01 s o.item k
    else if g = 0x10 then read10 s o.item k
    else if g = 0x18 then read18 s o.item k
    else if g = 0x20 then read20 s o.item k
    else if g = 0x28 then read28 s o.item k
    else if g = 0x30 then read30 s o.item k
    else if g = 0x38 then read38 s o.item k
    else if g = 0x40 then read40 s o.item k
    else if g = 0x48 then read48 s o.item k
    else if g = 0x50 then read50 s o.item k
    else if g = 0x58 then read58 s o.item k
    else if g = 0x60 then read60 s o.item k
    else if g = 0x68 then read68 s o.item
    else if g = 0x70 then read70 s o.item k
    else if g = 0x78 then read78 s o.item k
    else read7F s o.item
  pad o.width v

/-- A READ of 0x70:0012 resets it (R445); no other read changes anything. -/
def afterRead (s : State) (o : Obj) : State :=
  if o.group = 0x70 && o.item = 0x12 then setClk s (fun k => { k with islandDiff := 0 }) else s

/-- DESCRIBE's value (Table 13-8). -/
def describeBytes (o : Obj) : List Byte :=
  b1 o.type ++ b1 o.access ++ b1 o.pers ++ b1 o.flags ++ b2 o.len ++ b2 o.size ++ b8 (if o.type < 8 then o.dflt else 0)

end Sys2Proof.Machine
end

