-- ==== Sys2Proof/Machine/Writes.lean ====
section
/-!
DEFINITION. Writes of the dictionary: what a WRITE of each object checks and does (R385, R396, R404, R408, R412, R445 and the
home chapters).
-/

namespace Sys2Proof.Machine

-- ===== decoding of values =====

/-- The field of `n` bytes at byte `off`. -/
def fieldAt (l : List Byte) (off n : Nat) : Nat := leNat ((l.drop off).take n)

/-- A proposed contract (Table 5-3); a set reserved bit makes it fail check 1 (R142), as a STATE other than 0 does. -/
def contractOfBytes (l : List Byte) : Contract :=
  let ok := fieldAt l 0 1 < 8 && fieldAt l 1 1 < 4 && fieldAt l 2 1 < 64 && fieldAt l 4 2 < 4096 && fieldAt l 6 2 < 8192 &&
    fieldAt l 8 2 < 512 && fieldAt l 10 2 < 512 && fieldAt l 12 1 < 4 && fieldAt l 24 8 == 0
  { link := BitVec.ofNat 3 (fieldAt l 0 1), cls := classOf (BitVec.ofNat 2 (fieldAt l 1 1)), win := BitVec.ofNat 6 (fieldAt l 2 1),
    homemask := BitVec.ofNat 8 (fieldAt l 3 1), rate := BitVec.ofNat 12 (fieldAt l 4 2), burst := BitVec.ofNat 13 (fieldAt l 6 2),
    miss := BitVec.ofNat 9 (fieldAt l 8 2), write := BitVec.ofNat 9 (fieldAt l 10 2),
    state := if ok then BitVec.ofNat 2 (fieldAt l 12 1) else 3, reason := BitVec.ofNat 8 (fieldAt l 13 1),
    tag := BitVec.ofNat 16 (fieldAt l 14 2), admitted := BitVec.ofNat 64 (fieldAt l 16 8) }

/-- A proposed context (Table 7-1); none: a field is not valid, or a field the Goraskey writes is not 0 (R193). -/
def queueOfBytes (l : List Byte) : Option QueueRec :=
  if fieldAt l 0 8 % 4096 == 0 && fieldAt l 0 8 < 2 ^ 48 && fieldAt l 8 8 % 4096 == 0 && fieldAt l 8 8 < 2 ^ 48 &&
      fieldAt l 16 1 < 32 && fieldAt l 17 1 < 32 && fieldAt l 18 1 < 2 && fieldAt l 19 1 < 8 && fieldAt l 20 2 < 1024 &&
      fieldAt l 22 1 < 128 && fieldAt l 23 1 == 0 && (l.drop 28).all (· == 0) then
    some { sqBase := BitVec.ofNat 36 (fieldAt l 0 8 / 4096), cqBase := BitVec.ofNat 36 (fieldAt l 8 8 / 4096),
           sqLog := BitVec.ofNat 5 (fieldAt l 16 1), cqLog := BitVec.ofNat 5 (fieldAt l 17 1), priv := fieldAt l 18 1 == 1,
           link := BitVec.ofNat 3 (fieldAt l 19 1), notify := BitVec.ofNat 10 (fieldAt l 20 2),
           maxJobs := BitVec.ofNat 7 (fieldAt l 22 1), tlimit := BitVec.ofNat 32 (fieldAt l 24 4) }
  else none

-- ===== simple parameters =====

/-- A value that is accepted, or RANGE. -/
def rangeW (s : State) (ok : Bool) (t : State) : Ans := if ok then (t, .ok, 0) else (s, .range, 0)

/-- The stages in which the home map is fixed (R33). -/
def mapFixed (s : State) : Bool :=
  match s.dev.stage with
  | .config | .memory | .localReady | .memoryActive | .containment => true
  | _ => false

def write10 (s : State) (i k : Nat) (v : Nat) : Ans :=
  let p := s.port
  let x : XLink := BitVec.ofNat 5 k
  let linkCmd := fun (f : Role → Byte → Ans) =>
    if v / 32 % 8 ≠ 0 ∨ 1024 ≤ v then (s, .range, 0) else f (roleOf (BitVec.ofNat 2 (v / 256))) (BitVec.ofNat 8 (v % 32))
  if i = 0x10 then quadWriteOp s k (BitVec.ofNat 32 v)
  else if i = 0x20 then hostParamOp s (BitVec.ofNat 3 k) (BitVec.ofNat 32 v)
  else if i = 0x28 then rangeW s (v ≤ 2) (setXlink s x { xlinkOf s x with idepol := BitVec.ofNat 2 v })
  else if i = 0x40 then linkCmd (linkDownOp s)
  else if i = 0x41 then linkCmd (linkTrainOp s)
  else if i = 0x42 then (if v < 32 then removalOp s (BitVec.ofNat 5 v) else (s, .range, 0))
  else if i = 0x60 then (({ s with port := { p with thr := BitVec.ofNat 16 v } } : State), .ok, 0)
  else if i = 0x61 then rangeW s (1 ≤ v && v ≤ 1000) { s with port := { p with window := BitVec.ofNat 10 v } }
  else if i = 0x62 then (({ s with port := { p with dropAfter := BitVec.ofNat 8 v } } : State), .ok, 0)
  else if i = 0x63 then rangeW s (100 ≤ v && v ≤ 50000) { s with port := { p with xTimeout := BitVec.ofNat 16 v } }
  else if i = 0x64 then rangeW s (1 ≤ v && v ≤ 1000) { s with port := { p with xLoss := BitVec.ofNat 10 v } }
  else if i = 0x65 then rangeW s (v == 64 || v == 128 || v == 192 || v == 256) { s with port := { p with cut := BitVec.ofNat 9 v } }
  else (s, .access, 0)

/-- Group 0x18: the board identifier and the domain map are fixed like the home map (log entry 23). -/
def write18 (s : State) (i : Nat) (v : Nat) : Ans :=
  let p := s.peer
  let w : BitVec 16 := BitVec.ofNat 16 v
  if i = 0x01 then
    (if mapFixed s then (s, .quiesceRequired, 0) else ({ s with peer := { p with boardId := BitVec.ofNat 64 v } }, .ok, 0))
  else if i = 0x02 then
    (if mapFixed s then (s, .quiesceRequired, 0) else ({ s with peer := { p with dmap := BitVec.ofNat 32 v } }, .ok, 0))
  else if i = 0x20 then rangeW s (50 ≤ v && v ≤ 5000) { s with peer := { p with formTimeout := w } }
  else if i = 0x21 then rangeW s (10 ≤ v && v ≤ 1000) { s with peer := { p with settle := w } }
  else if i = 0x30 then rangeW s (v ≤ 1000) { s with peer := { p with detourDelay := w } }
  else if i = 0x31 then rangeW s (10 ≤ v && v ≤ 10000) { s with peer := { p with reconTimeout := w } }
  else if i = 0x41 then rangeW s (25 ≤ v && v ≤ 1000) { s with peer := { p with syncEvery := w } }
  else if i = 0x42 then rangeW s (8 ≤ v && v ≤ 1000) { s with peer := { p with syncFault := w } }
  else (s, .access, 0)

-- ===== home ranges (R29, R33) =====

/-- A home range with one field replaced; none: a bit that must be 0 or a WAYS that is not valid. -/
def homeWith (h : HomeRange) (i v : Nat) : Option HomeRange :=
  if i = 0x100 then (if v < 2 ^ 18 then some { h with base := BitVec.ofNat 18 v } else none)
  else if i = 0x101 then (if v < 2 ^ 18 then some { h with limit := BitVec.ofNat 18 v } else none)
  else if i = 0x102 then (if v < 2 ^ 15 then some { h with lbase := BitVec.ofNat 15 v } else none)
  else if i = 0x103 then (if v = 0 ∨ v = 1 ∨ v = 2 ∨ v = 4 ∨ v = 8 then some { h with ways := BitVec.ofNat 8 v } else none)
  else if v < 2 ^ 24 then some { h with devlist := BitVec.ofNat 24 v } else none

def setHome (s : State) (r : Nat) (h : HomeRange) : State :=
  { s with region := { s.region with hr := tput HomeRange.init s.region.hr r h } }

def homeWrite (s : State) (i r v : Nat) : Ans :=
  match homeWith (tget HomeRange.init s.region.hr r) i v with
  | none => (s, .range, 0)
  | some h => if mapFixed s then (s, .quiesceRequired, 0) else (setHome s r h, .ok, 0)

def write20 (s : State) (i k : Nat) (v : Nat) : Ans :=
  let w : WinId := BitVec.ofNat 6 k
  if i = 0x10 then ctlWrite s w (BitVec.ofNat 32 v)
  else if i = 0x11 then geoWrite s w 0 (BitVec.ofNat 32 v)
  else if i = 0x12 then geoWrite s w 1 (BitVec.ofNat 32 v)
  else if i = 0x13 then geoWrite s w 2 (BitVec.ofNat 32 v)
  else if i = 0x14 then attrWrite s w (BitVec.ofNat 32 v)
  else if i = 0x19 then mcmdWrite s w (BitVec.ofNat 32 v)
  else if 0x100 ≤ i then homeWrite s i k v
  else (s, .access, 0)

-- ===== the bench array =====

/-- A write of CACHE_STAT: STALE is W1C. -/
def cacheStatWrite (s : State) (v : Nat) : Ans :=
  ({ s with cache := { s.cache with stale := s.cache.stale && !v.testBit 4 } }, .ok, 0)

/-- A write of BCH_MSTAT: DONE and REFUSED are W1C. -/
def maintStatWrite (s : State) (v : Nat) : Ans :=
  ({ s with cache := { s.cache with mDone := s.cache.mDone && !v.testBit 4, mRefused := s.cache.mRefused && !v.testBit 8 } }, .ok, 0)

/-- 0x28:0032; 0 clears every demotion. -/
def scanWrite (s : State) (v : Nat) : Ans :=
  if 2 ≤ v then (s, .range, 0)
  else if v = 1 then ({ s with cache := { s.cache with scanOn := true } }, .ok, 0)
  else ({ s with cache := { s.cache with scanOn := false, bench := s.cache.bench.map (fun p => (p.1, { p.2 with demoted := 0 })) } }, .ok, 0)

def write28 (s : State) (i : Nat) (v : Nat) : Ans :=
  let c := s.cache
  let r := fun (ok : Bool) (c : CacheS) => rangeW s ok { s with cache := c }
  if i = 0x10 then cacheCtlWrite true s (BitVec.ofNat 32 v)
  else if i = 0x11 then cacheStatWrite s v
  else if i = 0x20 then maintWrite s (BitVec.ofNat 32 v)
  else if i = 0x21 then maintxWrite true s (BitVec.ofNat 32 v)
  else if i = 0x22 then maintStatWrite s v
  else if i = 0x23 then maintParamOp s 2 (BitVec.ofNat 64 v)
  else if i = 0x26 then maintParamOp s 0 (BitVec.ofNat 64 v)
  else if i = 0x27 then maintParamOp s 1 (BitVec.ofNat 64 v)
  else if i = 0x30 then r (1 ≤ v && v ≤ 63 && c.scanRelease.toNat < v) { c with scanEngage := BitVec.ofNat 6 v }
  else if i = 0x31 then r (v ≤ 62 && v < c.scanEngage.toNat) { c with scanRelease := BitVec.ofNat 6 v }
  else if i = 0x32 then scanWrite s v
  else if i = 0x50 then r (v ≤ 1) { c with sweepOn := v == 1 }
  else if i = 0x51 then r (v ≤ 524288) { c with sweepThreshold := BitVec.ofNat 20 v }
  else if i = 0x62 then r true { c with retiredCursor := BitVec.ofNat 32 v }
  else if i = 0x73 then r (1 ≤ v && v ≤ 16) { c with haulCap := BitVec.ofNat 5 v }
  else if i = 0x74 then r (2 ≤ v && v ≤ 1024) { c with loadThreshold := BitVec.ofNat 11 v }
  else if i = 0x75 then r (500 ≤ v && v ≤ 20000) { c with imbalance := BitVec.ofNat 15 v }
  else if i = 0x76 then r (1 ≤ v && v ≤ 1024) { c with releaseCap := BitVec.ofNat 11 v }
  else (s, .access, 0)

def write30 (s : State) (i : Nat) (v : Nat) : Ans :=
  let c := s.snoop
  if i = 0x10 then rangeW s (64 ≤ v && v ≤ 1024 && v % 16 == 0) { s with snoop := { c with holdTime := BitVec.ofNat 11 v } }
  else if i = 0x11 then rangeW s (10 ≤ v && v ≤ 10000) { s with snoop := { c with biTimeout := BitVec.ofNat 14 v } }
  else if i = 0x12 then ({ s with snoop := { c with evictThreshold := BitVec.ofNat 32 v } }, .ok, 0)
  else (s, .access, 0)

-- ===== queues =====

def write40 (s : State) (acc : Accessor) (i k : Nat) (l : List Byte) : Ans :=
  let v := leNat l
  let q : QueueId := BitVec.ofNat 13 k
  if i = 0x10 then (match queueOfBytes l with
    | some r => queueCreateOp s (classOfAcc acc == .s) r
    | none => (s, .range, 0))
  else if i = 0x12 then queueRestartOp s q v
  else if i = 0x13 then queueResetOp s v false
  else if i = 0x14 then
    (if 8192 ≤ fieldAt l 0 2 then (s, .range, 0) else jobAbortOp s (BitVec.ofNat 13 (fieldAt l 0 2)) (BitVec.ofNat 16 (fieldAt l 2 2)))
  else if i = 0x15 then queueLimitOp s q false (BitVec.ofNat 32 v)
  else if i = 0x16 then queueLimitOp s q true (BitVec.ofNat 32 v)
  else if i = 0x17 then queueResetOp s v true
  else if i = 0x20 then rangeW s (1 ≤ v && v ≤ 16) { s with job := { s.job with weights := tput 4 s.job.weights q.toNat (BitVec.ofNat 5 v) } }
  else if i = 0x30 then rangeW s (v == 64 || v == 128 || v == 192 || v == 256) { s with job := { s.job with threshold := BitVec.ofNat 9 v } }
  else (s, .access, 0)

-- ===== reliability =====

/-- 0x50:0035: the mask of the next whole-device reset, auto-persisted (R271). A value written to the pending image alone
is overtaken. -/
def maskWrite (s : State) (v : Nat) : Ans :=
  (persistChange { s with
    rel := { s.rel with retiredMask := BitVec.ofNat 8 v }
    hen := { s.hen with pending := s.hen.pending.filter (fun e => !entryFor 0x50 0x35 0 e) } }, .ok, 0)

def write50 (s : State) (i k : Nat) (l : List Byte) : Ans :=
  let v := leNat l
  let c := s.rel
  let r := fun (ok : Bool) (c : RelS) => rangeW s ok { s with rel := c }
  if i = 0x12 then logAckOp s (BitVec.ofNat 32 v)
  else if i = 0x14 then r (v ≤ 1000) { c with logLimit := BitVec.ofNat 11 v }
  else if i = 0x22 then scrubPeriodOp s v
  else if i = 0x24 then scrubEnableOp s v
  else if i = 0x31 then r (v ≤ 512) { c with reserve := BitVec.ofNat 10 v }
  else if i = 0x34 then stackRetireWrite s v
  else if i = 0x35 then maskWrite s v
  else if i = 0x36 then r true { c with remapCursor := BitVec.ofNat 32 v }
  else if i = 0x42 then r (v ≤ 1) { c with poisonOver := c.poisonOver && v != 1 }
  else if i = 0x51 then r (100 ≤ v && v ≤ 10000) { c with wbLimit := BitVec.ofNat 14 v }
  else if i = 0x52 then r (10 ≤ v && v ≤ 10000) { c with hold := BitVec.ofNat 14 v }
  else if i = 0x53 then r (v ≤ 1) { c with autoReset := v == 1 }
  else if i = 0x54 then enterContainOp s v
  else if i = 0x70 then flipCtlWrite k true s (BitVec.ofNat 32 v)
  else if i = 0x71 then flipDlaWrite k s (BitVec.ofNat 64 v)
  else if i = 0x72 then flipMaskWrite k s (BitVec.ofNat 560 v)
  else if i = 0x78 then bflipCtlWrite (BitVec.ofNat 8 k) true s (BitVec.ofNat 32 v)
  else if i = 0x79 then bflipMaskWrite (BitVec.ofNat 8 k) s (BitVec.ofNat 153 v)
  else (s, .access, 0)

-- ===== counters and Seam =====

def u16s : List Byte → List Nat
  | a :: b :: t => (a.toNat + 256 * b.toNat) :: u16s t
  | _ => []

def write60 (s : State) (i k : Nat) (l : List Byte) : Ans :=
  let v := leNat l
  let b : Bench := BitVec.ofNat 8 k
  if i = 0x01 then rangeW s (v < 16) { s with reg := { s.reg with counterPage := BitVec.ofNat 4 v } }
  else if i = 0x10 then selectorOp s (some b) 0 (u16s l)
  else if i = 0x12 then overClear s (some b) v
  else if i = 0x20 then selectorOp s none 0 (u16s l)
  else if i = 0x22 then overClear s none v
  else if i = 0x30 then samplingOp s v
  else if i = 0x42 then histClearOp s v
  else (s, .access, 0)

def write68 (s : State) (i : Nat) (l : List Byte) : Ans :=
  if i = 0x10 then seamFilterOp s l
  else if i = 0x11 then seamControlOp s (leNat l)
  else if i = 0x12 then exportOp s (leNat l)
  else if i = 0x13 then ringOp s l
  else (s, .access, 0)

-- ===== clocks and start-up =====

def i32s : List Byte → List (BitVec 32)
  | a :: b :: c :: d :: t => BitVec.ofNat 32 (leNat [a, b, c, d]) :: i32s t
  | _ => []

def write70 (s : State) (i k : Nat) (l : List Byte) : Ans :=
  let v := leNat l
  if i = 0x02 then capOp s k v
  else if i = 0x21 then limitsOp s (i32s l)
  else if i = 0x40 then rangeW s (v ≤ 1) { s with dev := { s.dev with testSel := BitVec.ofNat 8 v } }
  else if i = 0x41 then rangeW s (200 ≤ v && v ≤ 5000) { s with dev := { s.dev with waitLimit := BitVec.ofNat 16 v } }
  else (s, .access, 0)

-- ===== the dictionary's own objects =====

/-- R408 -/
def rates : List Nat := [115200, 230400, 460800, 921600, 1000000, 1500000, 2000000, 3000000]
def rateOp (s : State) (v : Nat) : Ans := rangeW s (rates.contains v) { s with hen := { s.hen with conRate := BitVec.ofNat 32 v } }

/-- R412 -/
def conOp (s : State) (v : Nat) : Ans := rangeW s (v ≤ 1) { s with hen := { s.hen with conOn := v == 1 } }

def slotVer (s : State) (b : Bool) : FwSlot := if b then s.dev.slotB else s.dev.slotA
def setSlot (s : State) (b : Bool) (v : FwSlot) : State :=
  { s with dev := if b then { s.dev with slotB := v } else { s.dev with slotA := v } }

/-- R404: the owner, the slot, the running slot, the verification; then the install starts, and the slot verifies again only
when it has ended. -/
def installOp (s : State) (acc : Accessor) (v : Nat) : Ans :=
  if s.hen.stagingOwner != some acc then (s, .access, 0)
  else if 2 ≤ v then (s, .range, 0)
  else if s.dev.running == some (v == 1) then (s, .quiesceRequired, 0)
  else if s.hen.install.isSome then (s, .busy, 0)
  else if !Config.fwVerifies s.hen.staging then (s, .range, 0)
  else (setSlot { s with hen := { s.hen with install := some (BitVec.ofNat 8 v, s.now) } } (v == 1) ⟨Config.fwStaged s.hen.staging, false⟩,
    .ok, 0)

/-- The lock; each change raises E-0x3C4 (R385). -/
def lockOp (s : State) (v : Nat) : Ans :=
  if 2 ≤ v then (s, .range, 0)
  else if s.hen.lock == (v == 1) then (s, .ok, 0)
  else (raise { s with hen := { s.hen with lock := v == 1 } } 0x3C4 164 [], .ok, 0)

def write78 (s : State) (acc : Accessor) (i : Nat) (v : Nat) : Ans :=
  if i = 0x20 then rateOp s v
  else if i = 0x21 then conOp s v
  else if i = 0x41 then installOp s acc v
  else (s, .access, 0)

/-- The writes that are answered at once. -/
def writeNow (s : State) (acc : Accessor) (o : Obj) (k : Nat) (l : List Byte) : Ans :=
  let v := leNat l
  let i := o.item
  let g := o.group
  if g = 0x01 then (s, .ok, 0)
  else if g = 0x10 then write10 s i k v
  else if g = 0x18 then write18 s i v
  else if g = 0x20 then write20 s i k v
  else if g = 0x28 then write28 s i v
  else if g = 0x30 then write30 s i v
  else if g = 0x38 then (if i = 0x32 then assayWrite s v else paramWrite s i v)
  else if g = 0x40 then write40 s acc i k l
  else if g = 0x48 then engineServiceOp s k v
  else if g = 0x50 then write50 s i k l
  else if g = 0x58 then (if i = 0x10 then routeOp s k v else ackOp s v)
  else if g = 0x60 then write60 s i k l
  else if g = 0x68 then write68 s i l
  else if g = 0x70 then write70 s i k l
  else if g = 0x78 then write78 s acc i v
  else if i = 0x21 then fuseOp s v
  else lockOp s v

/-- A WRITE of element `k` of an object after checks 1 to 8 of R389: the object's own checks and its effect. Without a
status it is answered when its action ends (R391). -/
def writeObj (s : State) (acc : Accessor) (f : Option Frame) (o : Obj) (k : Nat) (l : List Byte) : State × Option (DStatus × Nat) :=
  if o.group = 0x38 ∧ o.item = 0x11 then (admitWrite s (acc, f) (contractOfBytes l), none)
  else if o.group = 0x38 ∧ o.item = 0x12 then deleteWrite s (acc, f) (leNat l)
  else if o.group = 0x20 ∧ o.item = 0x16 then accWrite s (acc, f) (BitVec.ofNat 6 k) (BitVec.ofNat 64 (leNat l))
  else if o.group = 0x20 ∧ o.item = 0x17 then drtWrite s (acc, f) (BitVec.ofNat 6 k) (BitVec.ofNat 64 (leNat l))
  else if o.group = 0x50 ∧ o.item = 0x30 then remapWrite s (acc, f) (fieldAt l 0 1) (fieldAt l 4 4)
  else if o.type = 1 && 2 ≤ leNat l then (s, some (.range, 0))
  else
    let (t, e, aux) := writeNow s acc o k l
    (t, some (e, aux))

/-- The LASTERR of a block, where the object has one (Table 14-3). -/
def noteOf (o : Obj) (k : Nat) : DStatus → State → State :=
  if o.group = 0x20 && 0x10 ≤ o.item && o.item ≤ 0x19 then winNote (BitVec.ofNat 6 k)
  else if o.group = 0x28 && o.item = 0x10 then cNote
  else if o.group = 0x28 && 0x20 ≤ o.item && o.item ≤ 0x28 then mNote
  else if o.group = 0x50 && 0x70 ≤ o.item && o.item ≤ 0x72 then flipNote k
  else if o.group = 0x50 && 0x78 ≤ o.item then bflipNote (BitVec.ofNat 8 k)
  else noNote

/-- What a write does once its response has left: the resets of group 0x01 (R361). -/
def afterWrite (s : State) (o : Obj) (l : List Byte) : State :=
  if o.group != 0x01 || leNat l != 1 then s
  else if o.item = 0x10 then askReset s .warm s.dev.straps
  else if o.item = 0x11 then askReset s .cold s.dev.straps
  else doMgmtReset s

-- ===== commands that write one object =====

def execConsoleRateWrite (acc : Accessor) (rate : BitVec 32) (s : State) : Host.Outcome State Fault Refusal :=
  act s (fun s => front s acc plainGate noNote (fun s => rateOp s rate.toNat))

/-- Class O writes the console enable; the disabled console may write 1 to it under its own unlock (R412). -/
def conGate (s : State) (acc : Accessor) (v : Nat) : Gate :=
  if (normAcc acc).transport == .console && !s.hen.conOn && v == 1 then { guardGate with attr := 0x3D } else { plainGate with attr := aO }

def execConsoleEnableWrite (acc : Accessor) (value : Byte) (s : State) : Host.Outcome State Fault Refusal :=
  act s (fun s => front s acc (conGate s acc value.toNat) noNote (fun s => conOp s value.toNat))

def lockGate : Gate := { plainGate with attr := aOC }
def execConfigLockWrite (acc : Accessor) (value : Byte) (s : State) : Host.Outcome State Fault Refusal :=
  act s (fun s => front s acc lockGate noNote (fun s => lockOp s value.toNat))

def installGate : Gate := { guardGate with rom := true }
def execFirmwareInstall (acc : Accessor) (slot : Byte) (s : State) : Host.Outcome State Fault Refusal :=
  act s (fun s => front s acc installGate noNote (fun s => installOp s (normAcc acc) slot.toNat))

/-- The install ends: the slot verifies, or it is left invalid (R404). -/
def doInstalled (s : State) (good : Bool) : State :=
  match s.hen.install with
  | none => s
  | some (n, _) =>
    let s := { s with hen := { s.hen with install := none } }
    let b : Bool := n == 1
    if good then raise (setSlot s b { slotVer s b with valid := true }) 0x3C0 164 [] else raise s 0x3C1 164 []

def execFirmwareInstallComplete (good : Bool) (s : State) : Host.Outcome State Fault Refusal := act s (fun s => doInstalled s good)

end Sys2Proof.Machine
end

