-- ==== Sys2Proof/Machine/StartUp.lean ====
section
/-!
DEFINITION. Start-up: the SRAM self-test, the firmware slot, the dictionary image and the checks of CONFIG, stack training and
the memory test (R31, R34, R95, R285, R360 to R371, R395).
-/

namespace Sys2Proof.Machine

-- ===== ROM and FIRMWARE (R363, R366) =====

/-- The SRAM self-test ends; the number of repairs is not given by any rule, so it is a free value. -/
def doSramDone (s : State) (pass : Bool) : State :=
  if !starting s || s.dev.sramDone then s
  else if !pass then halt s 0x11
  else
    let n := (Config.freeValue s.freeCount).toNat
    let s := takeFree { s with dev := { s.dev with sramDone := true }, snoop := { s.snoop with entries := [] },
                               cache := { s.cache with resident := [] } }
    (List.range n).foldl (fun s _ => raise s 0x383 164 []) s

def execSramSelfTestComplete (pass : Bool) (s : State) : Host.Outcome State Fault Refusal := act s (fun s => doSramDone s pass)

/-- The boot ROM starts a slot (R363). -/
def doFirmware (s : State) : State :=
  if s.dev.stage != .rom then s else
  match chooseSlot s with
  | none => halt s 0x10
  | some (b, other) =>
    let s := setStage { s with dev := { s.dev with running := some b, fwStarted := true } } .firmware 2
    if other then raise s 0x381 164 [] else s

def execFirmwareVerified (s : State) : Host.Outcome State Fault Refusal := act s doFirmware

-- ===== the dictionary image (R364, R395) =====

/-- The live value of a persisted object from an image entry, with the object's own checks. Nothing runs yet, so the fields
that live writes guard take their values as they stand; sets of records are checked when all are loaded (R31, R285). -/
def loadValue (s : State) (o : Obj) (k : Nat) (l : List Byte) : Ans :=
  let v := leNat l
  let g := o.group
  let i := o.item
  if o.type = 1 && 2 ≤ v then (s, .range, 0)
  else if g = 0x20 ∧ i = 0x10 then
    (modWin s (BitVec.ofNat 6 k) (fun w => { w with enable := v.testBit 0, flush := v.testBit 1 }), .ok, 0)
  else if g = 0x10 ∧ i = 0x10 then
    rangeW s (recordOk (BitVec.ofNat 32 v)) { s with port := { s.port with quad := tput 0 s.port.quad k (BitVec.ofNat 32 v) } }
  else if g = 0x28 ∧ i = 0x10 then
    ({ s with cache := { s.cache with enable := v.testBit 0, cstate := if v.testBit 0 then .enabled else .bypass } }, .ok, 0)
  else if g = 0x70 ∧ i = 0x02 then
    rangeW s (mhzOk v) (setClk s (fun c => { c with
      cap := tput 1500 c.cap k (BitVec.ofNat 12 v), clock := tput 1500 c.clock k (BitVec.ofNat 12 v) }))
  else if g = 0x7F ∧ i = 0x10 then ({ s with hen := { s.hen with lock := v == 1 } }, .ok, 0)
  else writeNow s ⟨.console, 0, 0⟩ o k l

/-- The object of an entry exists, is persisted, has the element, and its width is that of the value. -/
def entryObj (s : State) (e : ImgEntry) : Option Obj :=
  match objAt s e.group.toNat e.item.toNat with
  | none => none
  | some o =>
    if (o.pers == 1 || o.pers == 2) && (if o.len = 0 then e.index == 0 else e.index.toNat < o.len) && e.value.length == o.width
    then some o else none

/-- Loads an entry; none: the entry is not taken. -/
def loadEntry (s : State) (e : ImgEntry) : Option State :=
  match entryObj s e with
  | none => none
  | some o =>
    match loadValue s o e.index.toNat e.value with
    | (t, .ok, _) => some t
    | _ => none

/-- One pass over entries: the state and the entries not taken. Parameters that check each other need a second pass. -/
def loadPass (s : State) (l : List ImgEntry) : State × List ImgEntry :=
  l.foldl (fun (a : State × List ImgEntry) e => match loadEntry a.1 e with
    | some t => (t, a.2)
    | none => (a.1, a.2 ++ [e])) (s, [])

/-- The bytes of the entry of an object element, if the image holds one. -/
def entryBytes (l : List ImgEntry) (g i k : Nat) : List Byte :=
  match l.find? (entryFor g i k) with
  | some e => e.value
  | none => []

/-- Fields of `n` bytes each. -/
def chunks (n : Nat) : Nat → List Byte → List (List Byte)
  | 0, _ => []
  | fuel + 1, l => if l.length < n then [] else l.take n :: chunks n fuel (l.drop n)

/-- The remap table of a stack, and the spare rows it has taken (R270). -/
def loadRemap (s : State) (st : Nat) (l : List Byte) : State :=
  (chunks 8 (l.length / 8) l).foldl (fun s e =>
    let cw := fieldAt e 0 4
    let spare := fieldAt e 4 4
    { s with rel := { s.rel with
      remap := tput 0 s.rel.remap (rowKey st cw) (BitVec.ofNat 17 spare)
      spares := tput 0 s.rel.spares (bankKey st cw) (max (sparesPassed s st cw) (spare - 65855)) } }) s

/-- The auto-persisted objects an entry may hold: the retired-way list, the remap tables, the mask. -/
def autoEntry (e : ImgEntry) : Bool :=
  entryFor 0x28 0x61 0 e || (e.group == 0x50 && e.item == 0x32 && e.index.toNat < 8) || entryFor 0x50 0x35 0 e

/-- The auto-persisted objects take their stored values (R95, R270, R365). -/
def loadAuto (s : State) (l : List ImgEntry) : State :=
  let ways := entryBytes l 0x28 0x61 0
  let mask : BitVec 8 := BitVec.ofNat 8 (leNat (entryBytes l 0x50 0x35 0))
  let s := { s with
    cache := { s.cache with retiredList := (chunks 4 16384 ways).map (fun e => BitVec.ofNat 27 (leNat e)) }
    rel := { s.rel with retiredMask := mask, retired := mask } }
  (List.range 8).foldl (fun s st => loadRemap s st (entryBytes l 0x50 0x32 st)) s

/-- The image becomes the pending image and the live values (R395). -/
def loadImage (s : State) (l : List ImgEntry) : State :=
  let own := l.filter (fun e => !autoEntry e)
  let (s, left) := loadPass s own
  let (s, bad) := loadPass s left
  let s := loadAuto s l
  let s := { s with
    hen := { s.hen with pending := own.filter (fun e => !bad.contains e), changed := [], ignored := BitVec.ofNat 32 bad.length }
    contract := { s.contract with passes := [] }
    rel := { s.rel with persistSince := none } }
  if bad.isEmpty then s else raise s 0x3C5 164 []

-- ===== the home map (R31, R34) =====

def homeRange (s : State) (r : Nat) : HomeRange := tget HomeRange.init s.region.hr r
/-- The enabled ranges. -/
def homeOn (s : State) : List Nat := (List.range 8).filter (fun r => (homeRange s r).ways != 0)
def usedSlots (h : HomeRange) : List DevId := (List.range h.ways.toNat).map (devSlot h.devlist)

/-- Conditions 1, 3 and 5 for one range; in standalone mode R34. -/
def rangeValid (s : State) (h : HomeRange) : Bool :=
  h.base.toNat ≤ h.limit.toNat && (h.limit.toNat - h.base.toNat + 1) % h.ways.toNat == 0 &&
  (usedSlots h).eraseDups.length == (usedSlots h).length && (usedSlots h).all (domainDevs s).contains &&
  (h.devlist >>> (3 * h.ways.toNat)) == 0 && (!standalone s || h.ways == 1)

/-- Two spans, given by first granule and length, share none. -/
def apart (a b : Nat × Nat) : Bool := a.1 + a.2 ≤ b.1 || b.1 + b.2 ≤ a.1

def allApart : List (Nat × Nat) → Bool
  | [] => true
  | a :: l => l.all (apart a) && allApart l

/-- The device-local spans a device receives. -/
def localSpans (s : State) (d : DevId) : List (Nat × Nat) :=
  ((homeOn s).filter (fun r => (usedSlots (homeRange s r)).contains d)).map (fun r =>
    let h := homeRange s r
    (h.lbase.toNat, (h.limit.toNat - h.base.toNat + 1) / h.ways.toNat))

/-- R31 -/
def homeMapValid (s : State) : Bool :=
  (homeOn s).all (fun r => rangeValid s (homeRange s r)) &&
  allApart ((homeOn s).map (fun r => ((homeRange s r).base.toNat, (homeRange s r).limit.toNat - (homeRange s r).base.toNat + 1))) &&
  (List.range 8).all (fun d =>
    let l := localSpans s (BitVec.ofNat 3 d)
    allApart l && l.all (fun p => p.1 + p.2 ≤ 32768))

-- ===== CONFIG (R365, R368) =====

/-- Links start to train when CONFIG is entered (R368). -/
def trainLinks (s : State) : State :=
  let s := (List.range 32).foldl (fun s x =>
    if (leadsOf s .expander x).isEmpty then s else startX s (BitVec.ofNat 5 x) 0) s
  let s := (List.range 14).foldl (fun s l => match plPort s l with
    | some p => startTraining s p
    | none => s) s
  (List.range 8).foldl (fun s l =>
    if (hlinkOf s (BitVec.ofNat 3 l)).perst then s else trainHost s (BitVec.ofNat 3 l)) s

/-- The copy that is loaded, and whether it is the only valid one (R364). -/
def imageToLoad (s : State) : Option (Bool × Bool) :=
  match s.dev.imgA.valid, s.dev.imgB.valid with
  | true, true => some (newerGen s.dev.imgB.gen s.dev.imgA.gen, false)
  | true, false => some (false, true)
  | false, true => some (true, true)
  | false, false => none

/-- The checks of CONFIG and the entry into the stage. -/
def enterConfig (s : State) : State :=
  let s := if quadSetOk s.port.quad then s else raise { s with port := { s.port with quad := [] } } 0x0A4 164 []
  if !homeMapValid s then halt (raise s 0x184 164 []) 0x15
  else
    let s := trainLinks (setStage s .config 3)
    if boardMode s then topology { s with peer := { s.peer with form := .waiting } } else s

def doConfig (s : State) : State :=
  if s.dev.stage != .firmware then s else
  match (if s.dev.straps.defcfg || 2 ≤ s.dev.straps.mode.toNat then none else imageToLoad s) with
  | none => setStage { s with dev := { s.dev with loaded := none } } .service 9
  | some (b, only) =>
    let s := { s with dev := { s.dev with loaded := some b } }
    let s := if only then raise s 0x382 164 [] else s
    enterConfig (loadImage s (imgOf s b).entries)

/-- A domain of one device may commit at once, which steps its time (R349). -/
def execConfigComplete (s : State) : Host.Outcome State Fault Refusal := actTime s doConfig

-- ===== MEMORY (R367) =====

def doStackTraining (s : State) (failed : BitVec 8) : State :=
  if s.dev.stage != .config then s else
  let bad := bitsOf (failed &&& ~~~s.rel.retired)
  if bad.isEmpty then setStage { s with dev := { s.dev with trained := true } } .memory 4
  else halt (bad.foldl (fun s st => raise s 0x384 (144 + st) []) s) 0x12

def execStackTrainingComplete (failed : BitVec 8) (s : State) : Host.Outcome State Fault Refusal :=
  act s (fun s => doStackTraining s failed)

/-- A spare row that has taken the place of a row. -/
def spareInUse (s : State) (st cw : Nat) : Bool :=
  s.rel.remap.any (fun p => p.1 / 2 ^ 17 == bankKey st cw && p.2.toNat == rowOf cw)

/-- The record of a hard fault that the memory test found (R367). -/
def testRec (st cw : Nat) : LogRec :=
  let isMeta := 65536 ≤ rowOf cw
  { LogRec.init with
    type := if isMeta then 7 else 1, sev := 0, flags := 16, unit := if isMeta then 1 else 0, island := BitVec.ofNat 16 (144 + st),
    loc := BitVec.ofNat 32 cw, stack := BitVec.ofNat 8 st }

/-- An error of one device at a codeword, which and how is free. -/
def freeFault (v : BitVec 64) : BitVec 560 :=
  let sym : BitVec 16 := v.setWidth 16
  ((if sym = 0 then (1 : BitVec 16) else sym).setWidth 560) <<< (16 * ((v >>> 16).toNat % 35))

/-- A hard fault found by the test: false when it ends start-up. The remap is made at once, since no request waits. -/
def testFault (s : State) (st cw : Nat) : State × Bool :=
  let row := rowOf cw
  if s.rel.retired.getLsbD st || 66368 ≤ row then (s, true)
  else if 65856 ≤ row && !spareInUse s st cw then
    ({ s with rel := { s.rel with badSpare := (s.rel.badSpare.filter (· != rowKey st cw)) ++ [rowKey st cw] } }, true)
  else if s.rel.remap.any (fun p => p.1 == rowKey st cw) then (s, true)
  else
    let isMeta := 65536 ≤ rowOf (logicalCw s st cw)
    let s := hardFault s st cw (testRec st (logicalCw s st cw))
    if s.rel.remapRun.any (fun p => p.1 == st) then (doRemapComplete s (BitVec.ofNat 3 st), true)
    else if isMeta then (s, false)
    else
      let k := st * 2 ^ 31 + cw
      let e := freeFault (Config.freeValue s.freeCount)
      (takeFree { s with rel := { s.rel with array := tput Codeword.init s.rel.array k { Codeword.init with err := e, fault := e } } }, true)

/-- Every listed way is retired before LOCAL_READY (R95). -/
def retireListed (s : State) : State :=
  s.cache.retiredList.foldl (fun s e => tagPut s e.toNat { TagRec.init with state := .retired }) s

/-- The test ends on every stack; the quick test reads nothing, so it finds nothing. -/
def doMemoryTest (s : State) (faults : List (Stack × BitVec 31)) : State :=
  if s.dev.stage != .memory || s.dev.testDone then s else
  let l := if s.dev.testSel = 1 then [] else faults
  match l.foldl (fun (a : State × Bool) f => if a.2 then testFault a.1 f.1.toNat f.2.toNat else a) (s, true) with
  | (s, false) => halt s 0x13
  | (s, true) =>
    let s := retireListed s
    tryLocalReady { s with dev := { s.dev with testDone := true } }

def execMemoryTestComplete (faults : List (Stack × BitVec 31)) (s : State) : Host.Outcome State Fault Refusal :=
  act s (fun s => doMemoryTest s faults)

/-- Device time has reached the expander wait limit (R369). -/
def doWaitLimit (s : State) : State :=
  if !starting s || s.now.toNat < s.dev.waitLimit.toNat * 1000000 then s
  else tryLocalReady { s with dev := { s.dev with waitEnded := true } }

def execExpanderWaitLimit (s : State) : Host.Outcome State Fault Refusal := act s doWaitLimit

end Sys2Proof.Machine
end

