-- ==== Sys2Proof/Machine/Henos.lean ====
section
/-!
DEFINITION. The dictionary engine: frames, management cycles, the operations, the replay cache, sessions and subscribers
(R387 to R404, R413, R414, R462, R478), and the service console (R409 to R412).
-/

namespace Sys2Proof.Machine

-- ===== frames (R387, R389) =====

/-- A frame that passes step 1 of R389: MAGIC, the major version, the CRC over LEN bytes; it arrived on member `m`. -/
def parseFrame (m : BitVec 2) (l : List Byte) : Option Frame :=
  let len := fieldAt l 6 2
  if l.length != 12 + len then none
  else if l.headD 0 != 0xA7 || fieldAt l 1 1 / 16 != 1 then none
  else if (crc32c (l.take (8 + len))).toNat != fieldAt l (8 + len) 4 then none
  else
    let b := (l.drop 8).take len
    some { kind := BitVec.ofNat 8 (fieldAt l 2 1), flags := BitVec.ofNat 8 (fieldAt l 3 1), seq := BitVec.ofNat 16 (fieldAt l 4 2),
           len := BitVec.ofNat 16 len, op := BitVec.ofNat 8 (fieldAt b 0 1), type := BitVec.ofNat 8 (fieldAt b 1 1),
           group := BitVec.ofNat 8 (fieldAt b 2 1), item := BitVec.ofNat 16 (fieldAt b 4 2), index := BitVec.ofNat 16 (fieldAt b 6 2),
           arg := BitVec.ofNat 32 (fieldAt b 8 4), value := b.drop 12, crc := BitVec.ofNat 32 (fieldAt l (8 + len) 4), member := m }

/-- The operations the boot ROM serves (R413). -/
def romOps : List Nat := [1, 2, 6, 7, 9, 10, 11]

/-- Step 2 of R389, and an OP that is not served (R388, R413). -/
def badFrame (s : State) (f : Frame) : Bool :=
  f.kind != 1 || 2 ≤ f.flags.toNat || f.len.toNat < 12 || 1020 < f.len.toNat || f.op == 0 || 14 < f.op.toNat ||
  (recovery s && !romOps.contains f.op.toNat)

-- ===== arrival (R390, R405 to R407, R411 to R415) =====

/-- A transport's frames reach the engine in this stage; BAR0 brings no frames. -/
def reaches (s : State) (t : Transport) : Bool :=
  t != .bar0 && ((engineUp s && !recovery s) || (recovery s && (t == .i3c || t == .console)))

def tcountAt (s : State) (t n : Nat) : State := { s with hen := { s.hen with tcount := tinc s.hen.tcount (t * 5 + n) } }

/-- A frame is discarded: 1 it is no frame, 2 no buffer was free, 3 it was left incomplete; `n` is its counter of R414. -/
def discardFrame (s : State) (t n reason : Nat) : State :=
  let s := tcountAt s t n
  if s.hen.discards.contains t then s
  else raise { s with hen := { s.hen with discards := s.hen.discards ++ [t] } } 0x3C2 164 [(1, t), (1, reason)]

/-- Requests not answered yet, of those that `mine` picks by accessor and frame. -/
def unanswered (s : State) (mine : Accessor → Frame → Bool) : Nat :=
  let late := fun (w : Accessor × Option Frame) => w.2.any (mine w.1)
  ((s.hen.cycle ++ s.hen.queue).filter (fun q => mine q.acc q.f)).length +
  (s.contract.waiting.filter (fun w => late w.1)).length +
  (s.contract.table.filter (fun c => c.2.by_.any late)).length +
  (s.hen.clears.filter (fun c => late c.by_)).length +
  (s.rel.remapAsks.filter (fun a => late a.by_)).length

/-- A request of the MCTP endpoint on member `m` of a host link (R406). -/
def ofEndpoint (l : HLink) (m : BitVec 2) (a : Accessor) (f : Frame) : Bool :=
  a.transport == .mctpPcie && a.link == l && f.member == m

/-- No buffer is free for a further request (R406, R407, R411). -/
def noBuffer (s : State) (acc : Accessor) (m : BitVec 2) : Bool :=
  match acc.transport with
  | .mctpPcie => 4 ≤ unanswered s (ofEndpoint acc.link m)
  | .i3c => 4 ≤ unanswered s (fun a _ => a == acc)
  | .console => 2 ≤ ((s.hen.cycle ++ s.hen.queue).filter (fun q => q.acc == acc)).length
  | _ => false

/-- The write of 1 to 0x78:0021. -/
def enablesConsole (f : Frame) : Bool := f.op == 2 && f.group == 0x78 && f.item == 0x21 && f.value == [1]

/-- What a disabled console still takes (R412). -/
def consolePass (s : State) (acc : Accessor) (f : Frame) : Bool :=
  f.op == 6 || (enablesConsole f && (s.hen.armed.any (fun a => a.1 == acc && s.now < a.2) ||
    (s.hen.cycle ++ s.hen.queue).any (fun q => q.acc == acc && q.f.op == 6)))

/-- The bytes of a whole frame have arrived. -/
def frameIn (s : State) (acc : Accessor) (m : BitVec 2) (l : List Byte) : State :=
  let t := transportNo acc.transport
  let s := tcountAt s t 0
  match parseFrame m l with
  | none => discardFrame s t 1 1
  | some f =>
    if acc.transport == .console && !s.hen.conOn && !consolePass s acc f then s
    else if noBuffer s acc m then discardFrame s t 2 2
    else { s with hen := { s.hen with cycle := s.hen.cycle ++ [⟨acc, f⟩] } }

/-- Whole packets of 64 bytes on I3C that do not complete the frame they begin (R407): a partial message. -/
def partialI3c (l : List Byte) : Bool := l.length != 0 && l.length % 64 == 0 && l.length < 12 + fieldAt l 6 2

/-- Only a frame over PCIe has a member function. -/
def arrivedOn (acc : Accessor) (m : BitVec 2) : BitVec 2 :=
  match acc.transport with
  | .mailbox | .mctpPcie => m
  | _ => 0

def doArrival (s : State) (acc : Accessor) (m : BitVec 2) (l : List Byte) : State :=
  let acc := normAcc acc
  let m := arrivedOn acc m
  if !reaches s acc.transport then s
  else if acc.transport == .i3c then
    let l := s.hen.i3cPartial ++ l
    if partialI3c l then { s with hen := { s.hen with i3cPartial := l, i3cSince := s.now } }
    else frameIn { s with hen := { s.hen with i3cPartial := [] } } acc m l
  else frameIn s acc m l

def execFrameArrival (source : FrameFrom) (bytes : List Byte) (s : State) : Host.Outcome State Fault Refusal :=
  act s (fun s => doArrival s source.acc source.member bytes)

-- ===== the replay cache (R392) =====

def keptFor (s : State) (acc : Accessor) (f : Frame) : Option Kept :=
  s.hen.kept.find? (fun k => k.acc == acc && k.seq == f.seq && k.crc == f.crc)

/-- A kept response is sent again, on the member on which the repeated request arrived. -/
def replay (s : State) (k : Kept) (m : BitVec 2) : State := sendFrame (tcountAt s (transportNo k.acc.transport) 3) k.acc m k.resp

-- ===== the management cycle (R390) =====

/-- A frame is queued; one that fails step 2 is answered. -/
def enqueue (s : State) (q : InFrame) : State :=
  if badFrame s q.f then
    match keptFor s q.acc q.f with
    | some k => replay s k q.f.member
    | none => sendResp s q.acc q.f .range 0 0 []
  else { s with hen := { s.hen with queue := s.hen.queue ++ [q] } }

def doCycle (s : State) : State :=
  if !engineUp s && !recovery s then s else
  let s := finishClears s
  let of := fun (t : Transport) => s.hen.cycle.filter (fun q => q.acc.transport == t)
  let l := of .mailbox ++ of .mctpPcie ++ of .i3c ++ of .console
  l.foldl enqueue { s with hen := { s.hen with cycle := [], cycles := s.hen.cycles + 1 } }

-- ===== checks 3 to 7 of R389 =====

/-- The console's own unlock lets a disabled console enable itself (R412). -/
def consoleRight (s : State) (acc : Accessor) (f : Frame) : Bool := acc.transport == .console && !s.hen.conOn && enablesConsole f

/-- What an operation asks of the access attribute. -/
inductive Need | none | read | write
  deriving DecidableEq, Repr

/-- TYPE, and the width of a value that is written. -/
def typeOk (f : Frame) (o : Obj) : Bool :=
  (f.op == 1 && f.type == 0) || (f.type.toNat == o.type && ((f.op != 2 && f.op != 4) || f.value.length == o.width))

/-- The first check that fails. -/
def checkObj (s : State) (acc : Accessor) (f : Frame) (o : Obj) (need : Need) (armed : Bool) : Option DStatus :=
  let console := consoleRight s acc f
  if (if o.len = 0 then f.index != 0 else o.len ≤ f.index.toNat) then some .range
  else if need == .read && !mayAccess o.access (classOfAcc acc) false then some .access
  else if need == .write && !console && !mayAccess o.access (classOfAcc acc) true then some .access
  else if need == .write && o.crit && s.hen.lock && classOfAcc acc == .s then some .access
  else if need != .none && !typeOk f o then some .type
  else if need == .write && (o.flags % 2 == 1 || console) && !armed then some .locked
  else none

-- ===== the pending image (R395 to R398) =====

def persisted (o : Obj) : Bool := o.pers == 1 || o.pers == 2

/-- Sets an object element in the pending image. -/
def pendingPut (s : State) (o : Obj) (k : Nat) (l : List Byte) : State :=
  let e : ImgEntry := ⟨BitVec.ofNat 8 o.group, BitVec.ofNat 16 o.item, BitVec.ofNat 16 k, l⟩
  let id := (BitVec.ofNat 8 o.group, BitVec.ofNat 16 o.item)
  { s with hen := { s.hen with
    pending := if s.hen.pending.any (entryFor o.group o.item k) then
        s.hen.pending.map (fun x => if entryFor o.group o.item k x then e else x)
      else s.hen.pending ++ [e]
    changed := if s.hen.changed.contains id then s.hen.changed else s.hen.changed ++ [id] } }

/-- The object's value in the pending image, or its default; firmware carries auto-persisted changes itself. -/
def imageRead (s : State) (o : Obj) (k : Nat) : List Byte :=
  match s.hen.pending.find? (entryFor o.group o.item k) with
  | some e => e.value
  | none => if o.pers = 2 then objRead s o k else objRead (State.start s.dev.straps) o k

-- ===== sessions (R400 to R404, R478) =====

/-- The session held on an object now. -/
def sessionOn (s : State) (o : Obj) : Option Session :=
  s.hen.sessions.find? (fun v => v.group.toNat == o.group && v.item.toNat == o.item && s.now < v.until_)

def dropSession (s : State) (o : Obj) : State :=
  { s with hen := { s.hen with sessions := s.hen.sessions.filter (fun v => !(v.group.toNat == o.group && v.item.toNat == o.item)) } }

/-- 4 MiB and 64 KiB. -/
def stagingSize : Nat := 4259840

def isStaging (o : Obj) : Bool := o.group == 0x78 && o.item == 0x40

/-- What R404 does with the staging area at an OPEN; none: ACCESS. -/
def openStaging (s : State) (acc : Accessor) (arg : BitVec 32) : Option State :=
  if arg = 0 then some { s with hen := { s.hen with staging := [], stagingOwner := some acc } }
  else if s.hen.stagingOwner == some acc then some s
  else none

/-- The session ends 100 ms after the end of the management cycle (R401). -/
def sessionEnd (s : State) : Time := BitVec.ofNat 64 ((s.now.toNat / 1000 + 1) * 1000 + 100000000)

def doOpen (s : State) (acc : Accessor) (f : Frame) (o : Obj) : State × DStatus × Nat :=
  if o.type != 9 then (s, .range, 0) else
  match sessionOn s o with
  | some v => if v.acc == acc then (s, .ok, v.handle.toNat) else (s, .busy, ((v.until_ - s.now).toNat + 999) / 1000)
  | none =>
    match (if isStaging o then openStaging s acc f.arg else some s) with
    | none => (s, .access, 0)
    | some s =>
      let h := if s.hen.nextHandle = 0 then 1 else s.hen.nextHandle
      let s := dropSession s o
      let v : Session := ⟨BitVec.ofNat 8 o.group, BitVec.ofNat 16 o.item, acc, h, f.arg, sessionEnd s⟩
      ({ s with hen := { s.hen with sessions := s.hen.sessions ++ [v], nextHandle := h + 1 } }, .ok, h.toNat)

/-- The session that a handle names, if it is current and the accessor's. -/
def heldBy (s : State) (acc : Accessor) (f : Frame) (o : Obj) : Option Session :=
  match sessionOn s o with
  | some v => if v.acc == acc && v.handle == f.arg then some v else none
  | none => none

/-- Decode of the two metadata codewords of a record in HBM: 0 clean, 1 corrected, 2 check-only, 3 uncorrectable. -/
def metaDecode (s : State) (b : Bench) (ls : BitVec 15) (w : Nat) : Nat :=
  let one : Nat → Nat := fun m =>
    let c := cwOf s (physCw s (stackOf b).toNat (metaCw b ls m))
    match decodeAs (m == 0) c with
    | .clean => 0 | .corrected _ => 1 | .checkOnly _ => 2 | _ => 3
  let x := one 0
  let y := one (1 + w / 4)
  if x == 3 || y == 3 then 3 else if x == 1 || y == 1 then 1 else if x == 2 || y == 2 then 2 else 0

/-- An element of the tag-array peek window (R478). -/
def tagElem (s : State) (k : Nat) : List Byte :=
  let b := benchOfKey k
  let res := s.cache.resident.contains k
  let n := popCount (tget 0 s.rel.tagErr k)
  let dec := if stackRetired s b then 4 else if res then (if n = 0 then 0 else if n = 1 then 1 else 3)
    else metaDecode s b (lsOfKey k) (k % 16)
  leBytes 18 (if dec = 3 ∨ dec = 4 then 0 else tagBits (tagAt s k)) ++ [if res then 0 else 1, BitVec.ofNat 8 dec] ++
    List.replicate 12 0

/-- Bits [37:0] of a snoop-filter entry (Table 4-1). -/
def sfBits (e : SfEntry) : Nat :=
  let st := match e.state with
    | .invalid => 0 | .shared => 1 | .any => 2 | .busy => 3
  e.tag.toNat + st * 2 ^ 20 + e.pres.toNat * 2 ^ 22

/-- An element of the snoop-filter peek window; no rule gives the code, so its check bits are a free value of the entry and
the position. -/
def sfElem (s : State) (k : Nat) : List Byte :=
  let e := tget SfEntry.init s.snoop.entries k
  let n := popCount (tget 0 s.snoop.err k)
  let check := (Config.openByte (2 ^ 64 * (k + 1) + sfBits e)).toNat
  if 2 ≤ n then leBytes 8 (2 * 2 ^ 46) else leBytes 8 (sfBits e + check * 2 ^ 38 + n * 2 ^ 46)

/-- An entry of a stored image: the fields of R395 in order, each aligned to its own size. -/
def entryImage (e : ImgEntry) : List Byte :=
  let ty := match rowOfObj e.group.toNat e.item.toNat with
    | some o => o.type
    | none => 0
  encFields [(1, e.group.toNat), (2, e.item.toNat), (2, e.index.toNat), (1, ty), (2, e.value.length)] ++ e.value

/-- A stored image copy (R395). The format version, and the header of a copy that is not valid, are free. -/
def imageBytes (v : Image) : List Byte :=
  let body := v.entries.flatMap entryImage
  let head := if v.valid then pad 64 (encFields [(2, 0x4E5A), (2, leNat (openBytes 0x78 0x42 2)), (4, v.gen.toNat), (4, body.length),
      (4, (crc32c body).toNat)]) else openBytes 0x78 0x43 64
  head ++ body

/-- Bytes at a position of a session object; none: RANGE. -/
def sessionRead (s : State) (o : Obj) (v : Session) (off n : Nat) : Option (List Byte) :=
  let pos := v.base.toNat + off
  let elems := fun (size win : Nat) (f : Nat → List Byte) =>
    if pos % size ≠ 0 ∨ n % size ≠ 0 ∨ win < pos + n then none
    else some ((List.range (n / size)).flatMap (fun i => f (pos / size + i)))
  if o.group = 0x28 then elems 32 (2 ^ 32) (tagElem s)
  else if o.group = 0x30 then elems 8 (2 ^ 29) (sfElem s)
  else if isStaging o then (if stagingSize < pos + n then none else some (pad n ((s.hen.staging.drop pos).take n)))
  else
    let pos := v.base.toNat % 2 ^ 31 + off
    let l := imageBytes (imgOf s v.base.msb)
    if l.length < pos + n then none else some ((l.drop pos).take n)

def doSread (s : State) (acc : Accessor) (f : Frame) (o : Obj) : DStatus × List Byte :=
  match heldBy s acc f o with
  | none => (.access, [])
  | some v =>
    if f.value.length ≠ 6 then (.type, [])
    else if 1008 < fieldAt f.value 4 2 then (.range, [])
    else match sessionRead s o v (fieldAt f.value 0 4) (fieldAt f.value 4 2) with
      | none => (.range, [])
      | some l => (.ok, l)

/-- `l` with `d` written at `pos`. -/
def putBytes (l : List Byte) (pos : Nat) (d : List Byte) : List Byte :=
  pad pos l ++ d ++ l.drop (pos + d.length)

def doSwrite (s : State) (acc : Accessor) (f : Frame) (o : Obj) : State × DStatus :=
  match heldBy s acc f o with
  | none => (s, .access)
  | some v =>
    if f.value.length < 4 then (s, .type) else
    let d := f.value.drop 4
    let pos := v.base.toNat + fieldAt f.value 0 4
    if 1004 < d.length || stagingSize < pos + d.length then (s, .range)
    else ({ s with hen := { s.hen with staging := putBytes s.hen.staging pos d } }, .ok)

-- ===== subscribers (R462) =====

def doSubscribe (s : State) (acc : Accessor) (f : Frame) : State × DStatus :=
  if acc.transport != .i3c && acc.transport != .console then (s, .access)
  else if f.value.length ≠ 256 then (s, .type)
  else if 3 ≤ f.arg.toNat then (s, .range)
  else
    let m : BitVec 2048 := BitVec.ofNat 2048 (leNat f.value)
    let old : BitVec 2048 := match s.hen.subs.find? (fun b => b.acc == acc) with
      | some b => b.mask
      | none => 0
    let new := if f.arg = 0 then m else if f.arg = 1 then old ||| m else old &&& ~~~m
    if s.hen.subs.any (fun b => b.acc == acc) then
      ({ s with hen := { s.hen with subs := s.hen.subs.map (fun b => if b.acc == acc then { b with mask := new } else b) } }, .ok)
    else if 8 ≤ s.hen.subs.length then (s, .full)
    else ({ s with hen := { s.hen with subs := s.hen.subs ++ [⟨acc, new, [], false⟩] } }, .ok)

-- ===== the operations without an object =====

/-- R399; the estimate of the time that remains is free. -/
def doCommitOp (s : State) : State × DStatus × Nat :=
  if s.hen.commitRun.isSome then (takeFree s, .busy, ((Config.freeValue s.freeCount).setWidth 32 : BitVec 32).toNat)
  else (startCommit s, .ok, 0)

/-- R393 -/
def doUnlock (s : State) (acc : Accessor) (f : Frame) : State × DStatus :=
  if f.value.length = 4 ∧ leNat f.value = 0x6A0D93B1 then
    ({ s with hen := { s.hen with armed := s.hen.armed ++ [(acc, s.now + 1000000000)] } }, .ok)
  else (raise { s with hen := { s.hen with wrongKeys := s.hen.wrongKeys + 1 } } 0x3C3 164 [], .locked)

/-- The next existing object after a group and item. -/
def nextObj (s : State) (g i : Nat) : Option (Nat × Nat) :=
  (groups.findSome? (fun h => if h < g then none else
    ((objsOf h).find? (fun o => (g < h || i < o.item) && (objAt s o.group o.item).isSome)).map (fun o => (o.group, o.item))))

-- ===== one operation (R388, R389) =====

/-- The operations that take the accessor's unlock (R393). -/
def takesUnlock (op : Byte) : Bool := op == 2 || op == 4 || op == 5 || op == 6 || op == 7 || op == 9

def needOf (op : Byte) : Need :=
  if op == 2 || op == 4 || op == 9 then .write else if op == 11 then .none else .read

/-- A WRITE that has passed the checks (R391, R397): it is answered now, or when its action ends. -/
def writeOp (s : State) (acc : Accessor) (f : Frame) (o : Obj) : State :=
  let k := f.index.toNat
  if o.type = 9 then sendResp s acc f .access o.type 0 []
  else if f.flags.getLsbD 0 && !persisted o then sendResp (noteOf o k .range s) acc f .range o.type 0 []
  else match writeObj s acc (some f) o k f.value with
    | (t, none) => t
    | (t, some (e, aux)) =>
      let t := if e == .ok && f.flags.getLsbD 0 then pendingPut t o k f.value else t
      let t := sendResp (noteOf o k e t) acc f e o.type aux []
      if e == .ok then afterWrite t o f.value else t

/-- An operation on an object that exists and has passed checks 4 to 7. -/
def objOp (s : State) (acc : Accessor) (f : Frame) (o : Obj) : State :=
  let k := f.index.toNat
  let r := fun (s : State) (e : DStatus) (aux : Nat) (v : List Byte) => sendResp s acc f e o.type aux v
  if f.op = 1 then (if o.type = 9 then r s .access 0 [] else r (afterRead s o) .ok 0 (objRead s o k))
  else if f.op = 2 then writeOp s acc f o
  else if f.op = 3 then (if o.type = 9 then r s .access 0 [] else r s .ok 0 (imageRead s o k))
  else if f.op = 4 then
    (if o.type = 9 then r s .access 0 []
     else if o.action then r s .ok 0 []
     else if persisted o then r (pendingPut s o k f.value) .ok 0 []
     else r s .range 0 [])
  else if f.op = 7 then (let (s, e, aux) := doOpen s acc f o; r s e aux [])
  else if f.op = 8 then (let (e, v) := doSread s acc f o; r s e 0 v)
  else if f.op = 9 then (let (s, e) := doSwrite s acc f o; r s e 0 [])
  else if f.op = 10 then
    (if (heldBy s acc f o).isSome then r (dropSession s o) .ok 0 [] else r s .access 0 [])
  else r s .ok 0 (describeBytes o)

/-- The operations of Table 13-7; `armed` says that the accessor's unlock was armed. -/
def operate (s : State) (acc : Accessor) (f : Frame) (armed : Bool) : State :=
  let r := fun (s : State) (e : DStatus) (aux : Nat) (v : List Byte) => sendResp s acc f e 0 aux v
  if f.op = 5 then (let (s, e, aux) := doCommitOp s; r s e aux [])
  else if f.op = 6 then (let (s, e) := doUnlock s acc f; r s e 0 [])
  else if f.op = 12 then
    (match nextObj s f.group.toNat f.item.toNat with
     | some (g, i) => r s .ok 0 (leBytes 2 g ++ leBytes 2 i)
     | none => r s .noObject 0 [])
  else if f.op = 13 then (let (s, e) := doSubscribe s acc f; r s e 0 [])
  else if f.op = 14 then r { s with hen := { s.hen with subs := s.hen.subs.filter (fun b => b.acc != acc) } } .ok 0 []
  else match objAt s f.group.toNat f.item.toNat with
    | none => r s .noObject 0 []
    | some o =>
      match checkObj s acc f o (needOf f.op) armed with
      | some e => sendResp (if f.op = 2 then noteOf o f.index.toNat e s else s) acc f e o.type 0 []
      | none => objOp s acc f o

/-- The engine executes a frame, or sends the kept response again (R392). -/
def runFrame (s : State) (acc : Accessor) (f : Frame) : State :=
  match keptFor s acc f with
  | some k => replay s k f.member
  | none =>
    let s := opCount s
    if badFrame s f then sendResp s acc f .range 0 0 []
    else if takesUnlock f.op then (let (s, armed) := takeUnlock s acc; operate s acc f armed)
    else operate s acc f false

/-- A frame with operation `op` is executed in its turn: the one at the front of the queue, or one that is not queued; one that
waits behind others stays (R391). -/
def doFrame (s : State) (acc : Accessor) (f : Frame) (op : Byte) : State :=
  let acc := normAcc acc
  let f := { f with op := op }
  let q : InFrame := ⟨acc, f⟩
  if !reaches s acc.transport then s else
  match s.hen.queue with
  | h :: t => if h = q then runFrame { s with hen := { s.hen with queue := t } } acc f
              else if (s.hen.cycle ++ t).contains q then s else runFrame s acc f
  | [] => if s.hen.cycle.contains q then s else runFrame s acc f

-- ===== lapses (R393, R401) =====

/-- An unlock lapses 1 s after it was armed. -/
def doUnlockLapse (s : State) (acc : Accessor) : State :=
  { s with hen := { s.hen with armed := s.hen.armed.filter (fun a => !(a.1 == normAcc acc && a.2 ≤ s.now)) } }

def execUnlockLapse (acc : Accessor) (s : State) : Host.Outcome State Fault Refusal := act s (fun s => doUnlockLapse s acc)

/-- A session expires at its end. -/
def doSessionExpiry (s : State) (g : Byte) (i : BitVec 16) : State :=
  { s with hen := { s.hen with sessions := s.hen.sessions.filter (fun v => !(v.group == g && v.item == i && v.until_ ≤ s.now)) } }

def execSessionExpiry (group : Byte) (item : BitVec 16) (s : State) : Host.Outcome State Fault Refusal :=
  act s (fun s => doSessionExpiry s group item)

-- ===== the service console (R409 to R411) =====

def consoleAcc : Accessor := ⟨.console, 0, 0⟩

/-- The partial frame is discarded; its opening flag alone is no frame. -/
def dropPartial (s : State) : State :=
  let n := s.hen.conBuf.length
  let s := { s with hen := { s.hen with conBuf := [] } }
  if n ≤ 1 then s else discardFrame s 3 1 3

def doBreak (s : State) (ms : Nat) : State :=
  let s := dropPartial s
  if ms < 250 then s else raise { s with hen := { s.hen with conRate := 115200 } } 0x3C6 164 []

def execConsoleBreak (ms : BitVec 16) (s : State) : Host.Outcome State Fault Refusal := act s (fun s => doBreak s ms.toNat)

/-- 100 ms have passed since the last character of a frame that is not complete. -/
def doConsoleTimeout (s : State) : State :=
  if s.hen.conBuf.isEmpty || since s s.hen.conStart < 100000000 then s else dropPartial s

def execConsoleFrameTimeout (s : State) : Host.Outcome State Fault Refusal := act s doConsoleTimeout

/-- The majority of three samples from the `i`-th on. -/
def majority (l : List Bool) (i : Nat) : Bool :=
  let a := l.getD i true
  let b := l.getD (i + 1) true
  let c := l.getD (i + 2) true
  (a && b) || (a && c) || (b && c)

/-- The bytes between flags, with their escapes removed (R411). -/
def unescape : List Byte → List Byte
  | 0x7D :: b :: t => (b ^^^ 0x20) :: unescape t
  | b :: t => b :: unescape t
  | [] => []

/-- A byte is received; the buffer holds the opening flag and what follows it. -/
def conByte (s : State) (b : Byte) : State :=
  if b = 0x7E then
    let l := s.hen.conBuf.drop 1
    let s := { s with hen := { s.hen with conBuf := [0x7E], conStart := s.now } }
    if l.isEmpty then s else doArrival s consoleAcc 0 (unescape l)
  else if s.hen.conBuf.isEmpty then s
  else { s with hen := { s.hen with conBuf := s.hen.conBuf ++ [b], conStart := s.now } }

/-- Table 13-11: a start bit that is noise, eight data bits, a stop bit whose low majority is a framing error. -/
def doCharacter (s : State) (l : List Bool) : State :=
  if l.getD 0 true || majority l 7 then s
  else
    let b : Byte := (List.range 8).foldl (fun b k => if majority l (16 * (k + 1) + 7) then b ||| bit k else b) 0
    if majority l 151 then conByte s b
    else if b = 0 then dropPartial s
    else s

def execConsoleCharacter (samples : List Bool) (s : State) : Host.Outcome State Fault Refusal :=
  act s (fun s => doCharacter s samples)

end Sys2Proof.Machine
end

