-- ==== Sys2Proof/Machine/Regs.lean ====
section
/-!
DEFINITION. The register interface: classification of BAR accesses, registers, the BAR0 unlock, doorbell and counter pages,
parity and voting (R418 to R441, R464, R473).
-/

namespace Sys2Proof.Machine

def barAcc (l : HLink) : Accessor := ⟨.bar0, l, 0⟩

-- ===== classification (R420) =====

inductive AccClass | payload | oversize | unaligned | wide | full | narrow
  deriving DecidableEq, Repr

def dwordsOf (a : BarAccess) : Nat := if a.dwords = 0 then 1024 else a.dwords.toNat
def offOf (a : BarAccess) : Nat := a.offset.toNat / 4 * 4

/-- The payload of the primary mailbox: behind the eight registers of the CXL mailbox (log entry 25). -/
def payloadBase : Nat := 0x111020
def payloadSize : Nat := 65536

/-- Table 14-2. Three bytes fall under no row; they are taken with row 3, as is an access without any byte. -/
def classify (a : BarAccess) : AccClass :=
  let n := dwordsOf a
  let off := offOf a
  let be := a.be.toNat % 16
  if a.bar = 0 && payloadBase ≤ off && off + 4 * n ≤ payloadBase + payloadSize then .payload
  else if 2 < n || (n == 2 && off % 8 != 0) then .oversize
  else if n = 2 then (if a.be = 0xFF then .wide else .unaligned)
  else if be = 15 then .full
  else if be == 1 || be == 2 || be == 4 || be == 8 || be == 3 || be == 12 then .narrow
  else .unaligned

/-- BAR accesses are served from stage FIRMWARE on (R440). -/
def barsUp (s : State) : Bool := engineUp s && !recovery s

-- ===== the registers that are dictionary objects (R425) =====

/-- Group, item, element and doubleword of the object that a BAR0 offset is (Tables 2-3, 3-6, 3-11, 9-8, 9-10, 16-5). -/
def regObj (off : Nat) : Option (Nat × Nat × Nat × Nat) :=
  if off < 0x1000 then none
  else if off < 0x1010 then
    (match off - 0x1000 with
     | 0 => some (0x28, 0x10, 0, 0) | 4 => some (0x28, 0x11, 0, 0) | 8 => some (0x28, 0x12, 0, 0)
     | _ => some (0x28, 0x12, 0, 1))
  else if 0x2000 ≤ off && off < 0x2028 then
    (match off - 0x2000 with
     | 0x00 => some (0x28, 0x20, 0, 0) | 0x04 => some (0x28, 0x21, 0, 0) | 0x08 => some (0x28, 0x26, 0, 0)
     | 0x0C => some (0x28, 0x26, 0, 1) | 0x10 => some (0x28, 0x27, 0, 0) | 0x14 => some (0x28, 0x27, 0, 1)
     | 0x18 => some (0x28, 0x23, 0, 0) | 0x1C => some (0x28, 0x22, 0, 0) | 0x20 => some (0x28, 0x28, 0, 0)
     | _ => some (0x28, 0x28, 0, 1))
  else if 0x10000 ≤ off && off < 0x11000 then
    let n := (off - 0x10000) / 64
    (match (off - 0x10000) % 64 with
     | 0x00 => some (0x20, 0x10, n, 0) | 0x04 => some (0x20, 0x11, n, 0) | 0x08 => some (0x20, 0x12, n, 0)
     | 0x0C => some (0x20, 0x13, n, 0) | 0x10 => some (0x20, 0x14, n, 0) | 0x14 => some (0x20, 0x15, n, 0)
     | 0x18 => some (0x20, 0x19, n, 0) | 0x20 => some (0x20, 0x16, n, 0) | 0x24 => some (0x20, 0x16, n, 1)
     | 0x28 => some (0x20, 0x17, n, 0) | 0x2C => some (0x20, 0x17, n, 1) | 0x30 => some (0x20, 0x18, n, 0)
     | 0x34 => some (0x20, 0x18, n, 1) | _ => none)
  else if 0x20000 ≤ off && off < 0x20800 then
    let n := (off - 0x20000) / 256
    let r := (off - 0x20000) % 256
    if r = 0 then some (0x50, 0x70, n, 0)
    else if r = 4 ∨ r = 8 then some (0x50, 0x71, n, r / 4 - 1)
    else if 0x10 ≤ r && r ≤ 0x54 then some (0x50, 0x72, n, (r - 0x10) / 4) else none
  else if 0x21000 ≤ off && off < 0x23000 then
    let n := (off - 0x21000) / 32
    let r := (off - 0x21000) % 32
    if r = 0 then some (0x50, 0x78, n, 0) else if r ≤ 0x14 then some (0x50, 0x79, n, r / 4 - 1) else none
  else if off = 0x40000 then some (0x58, 0x12, 0, 0)
  else if 0x44000 ≤ off && off < 0x48000 then some (0x58, 0x10, (off - 0x44000) / 8, off / 4 % 2)
  else none

/-- Offsets that hold a register, a reserved slot or a structure of the function; the others are unassigned (Table 14-1). -/
def assigned (off : Nat) : Bool :=
  off ≤ 0x28 || (regObj off).isSome || (0x10000 ≤ off && off < 0x11000) || off == 0x40004 || (0x40100 ≤ off && off < 0x40200) ||
  (0x48000 ≤ off && off < 0x50000) || (0x100000 ≤ off && off < 0x130000) || (0x200000 ≤ off && off < 0x208100)

/-- The _HI partner of a _LO register (R423). -/
def hiOf (off : Nat) : Option Nat :=
  let lo := off == 0x10 || off == 0x1008 || off == 0x2008 || off == 0x2010 || off == 0x2020 ||
    (0x10000 ≤ off && off < 0x11000 && (off % 64 == 0x20 || off % 64 == 0x28 || off % 64 == 0x30)) ||
    (0x20000 ≤ off && off < 0x20800 && off % 256 == 4) || (0x44000 ≤ off && off < 0x48000 && off % 8 == 0)
  if lo then some (off + 4) else none

/-- GVER (Table 14-6). -/
def gver (s : State) : Nat :=
  0x10 * 2 ^ 24 + (match s.dev.running with
    | some b => (slotVer s b).version.toNat % 65536 * 256
    | none => 0)

/-- A doubleword of an MSI-X table entry: address, data, vector control (PCIe; log entry 25). -/
def msixDword (f : FnS) (off : Nat) : Nat :=
  let n := off / 16
  let e := tget ((0 : BitVec 64), (0 : BitVec 32)) f.msixTable n
  match off % 16 with
  | 0 => e.1.toNat % 2 ^ 32
  | 4 => e.1.toNat / 2 ^ 32
  | 8 => e.2.toNat
  | _ => if f.msixOpen.contains n then 0 else 1

/-- EVT_PENDn: the sources that are not acknowledged. -/
def pendDword (s : State) (n : Nat) : Nat :=
  ((s.evt.src.filter (fun p => p.1 / 32 == n && !p.2.acked)).map (fun p => 2 ^ (p.1 % 32))).foldl (· + ·) 0

/-- The current value of the doubleword at a BAR0 offset below the counter mirror; the CXL structures are not described, so
they read as free values. -/
def regValue (s : State) (l : HLink) (m : BitVec 2) (off : Nat) : Nat :=
  let f := fnOf s l m
  if off = 0 then 0x4E5A8512
  else if off = 4 then gver s
  else if off = 8 then gstat s
  else if off = 0x10 then s.now.toNat % 2 ^ 32
  else if off = 0x14 then s.now.toNat / 2 ^ 32
  else if off = 0x1C then s.reg.wrong.toNat * 65536 + b2n (s.now < tget 0 s.reg.unlock l.toNat)
  else if off = 0x20 then s.reg.accA.toNat
  else if off = 0x24 then s.reg.accB.toNat
  else if off = 0x28 then s.reg.accCount.toNat
  else if off = 0x40004 then newestSeq s
  else if 0x40100 ≤ off && off < 0x40200 then pendDword s ((off - 0x40100) / 4)
  else if 0x48000 ≤ off && off < 0x50000 then fieldAt (recentAt s 512 ((off - 0x48000) / 64)) (off % 64) 4
  else if payloadBase ≤ off && off < payloadBase + payloadSize then fieldAt f.reply (off - payloadBase) 4
  else if 0x100000 ≤ off && off < 0x130000 then (Config.freeValue s.freeCount).toNat % 2 ^ 32
  else if 0x200000 ≤ off && off < 0x208000 then msixDword f (off - 0x200000)
  else if 0x208000 ≤ off && off < 0x208100 then
    ((f.msixPend.filter (fun v => v / 32 == (off - 0x208000) / 4)).map (fun v => 2 ^ (v % 32))).foldl (· + ·) 0
  else match regObj off with
    | some (g, i, k, w) =>
      (match objAt s g i with
       | some o => fieldAt (objRead s o k) (4 * w) 4
       | none => 0)
    | none => 0

-- ===== counter pages (R436 to R438, R473) =====

/-- A doubleword of a counter: its value, or its read time for this host link. -/
def counterDword (s : State) (l : HLink) (b : Option Bench) (n sub : Nat) : Nat :=
  let key := l.toNat * 4096 + cntKey b n
  let v := cntValue s b n
  let t := (tget 0 s.reg.readTime key).toNat
  match sub with
  | 0 => v % 2 ^ 32
  | 4 => v / 2 ^ 32
  | 8 => t % 2 ^ 32
  | _ => t / 2 ^ 32

/-- The counter whose first byte an offset of a counter page covers. -/
def counterAt (page off : Nat) : Option (Option Bench × Nat) :=
  if off % 16 ≠ 0 then none
  else if page < 256 ∧ off < 0x90 then some (some (BitVec.ofNat 8 page), if off = 0 then 8 else off / 16 - 1)
  else if page = 256 ∧ off < 0x100 then some (none, off / 16)
  else none

/-- The enable bit of a page; none: unassigned. -/
def pageBit (page : Nat) : Option Nat :=
  if page < 256 then some 0 else if page = 256 then some 1 else if 512 ≤ page && page < 520 then some 2
  else if 544 ≤ page && page < 576 then some 3 else none

/-- A doubleword of a counter page (Table 17-6). -/
def pageDword (s : State) (l : HLink) (page off : Nat) : Nat :=
  if page < 256 then
    let b : Bench := BitVec.ofNat 8 page
    if off < 0x90 then counterDword s l (some b) (if off < 16 then 8 else off / 16 - 1) (off % 16)
    else if off < 0xA0 then fieldAt (selBytes s (some b)) (off - 0x90) 4
    else if off = 0xA0 then overBits s (some b) else 0
  else if page = 256 then
    if off < 0x100 then counterDword s l none (off / 16) (off % 16)
    else if off < 0x120 then fieldAt (selBytes s none) (off - 0x100) 4
    else if off = 0x120 then overBits s none else 0
  else if page < 520 then fieldAt (histBytes s (page - 512)) off 4
  else if off < 0x100 then fieldAt (xhistBytes s (page - 544)) off 4
  else if off = 0x100 then (assayOf s (BitVec.ofNat 5 (page - 544))).a.toNat
  else 0

/-- A read that covers a counter's first byte captures its read time (R473). -/
def pageRead (s : State) (l : HLink) (off : Nat) (mirror cover : Bool) : State × Option Nat :=
  let page := off / 4096
  match pageBit page with
  | none => (s, none)
  | some b =>
    if !mirror && !s.reg.counterPage.getLsbD b then (s, some 0)
    else
      let v := pageDword s l page (off % 4096)
      match (if cover then counterAt page (off % 4096) else none) with
      | some (c, n) => ({ s with reg := { s.reg with readTime := tput 0 s.reg.readTime (l.toNat * 4096 + cntKey c n) s.now } }, some v)
      | none => (s, some v)

-- ===== doorbell pages (R194, R435) =====

/-- A doubleword of a doorbell page; none: unassigned. -/
def bellDword (s : State) (l : HLink) (off : Nat) : Option Nat :=
  let q : QueueId := BitVec.ofNat 13 (off / 4096)
  let v := queueOf s q
  let r := off % 4096
  let st := match v.state with
    | .free => 0 | .active => 1 | .stopped => 2
  if 2 ^ 25 ≤ off || 0x14 ≤ r then none
  else if inertPage s l q then some 0
  else some (match r with
    | 0 => v.sqTail.toNat
    | 4 => v.cqHead.toNat
    | 8 => v.epoch.toNat * 2 ^ 24 + v.why.toNat * 65536 + st
    | 0xC => v.sqHead.toNat
    | _ => b2n v.phase * 65536 + v.cqTail.toNat)

/-- A read of a doorbell page that shows a ring pointer compares the pointer's copies (R227). -/
def bellCheck (s : State) (l : HLink) (off : Nat) : State :=
  let q : QueueId := BitVec.ofNat 13 (off / 4096)
  let r := off % 4096
  if 2 ^ 25 ≤ off || 0x14 ≤ r || r = 8 || inertPage s l q || (queueOf s q).state == .free then s else (ptrCheck s q).1

/-- A write to an unassigned offset of an inert page is a write to an inert page all the same (R194). -/
def bellStray (s : State) (l : HLink) (off : Nat) : State :=
  if off < 2 ^ 25 && inertPage s l (BitVec.ofNat 13 (off / 4096)) then inertBell s else s

/-- A doubleword written to a doorbell page; none: unassigned. -/
def bellWrite (s : State) (l : HLink) (off : Nat) (value : BitVec 32) : Option State :=
  let q : QueueId := BitVec.ofNat 13 (off / 4096)
  let r := off % 4096
  if 2 ^ 25 ≤ off || 0x14 ≤ r then none
  else if r = 0 then some (doSqTail s l q value)
  else if r = 4 then some (doCqHead s l q value)
  else some (if inertPage s l q then inertBell s else s)

-- ===== reads (R419, R421, R423) =====

/-- A full read of a doubleword of BAR0, with its side effects. -/
def fullRead (s : State) (l : HLink) (m : BitVec 2) (off : Nat) : State × Option Nat :=
  if 0x3000000 ≤ off then pageRead s l (off - 0x3000000) true true
  else if !assigned off then (s, none)
  else
    let key := l.toNat * 2 ^ 26 + off
    let held := tget 0 s.reg.capture key
    let v := if held.getLsbD 32 then held.toNat % 2 ^ 32 else regValue s l m off
    let s : State := { s with reg := { s.reg with capture := tput 0 s.reg.capture key 0 } }
    let s : State := match hiOf off with
      | some h => { s with reg := { s.reg with
          capture := tput 0 s.reg.capture (l.toNat * 2 ^ 26 + h) (BitVec.ofNat 33 (2 ^ 32 + regValue s l m h)) } }
      | none => s
    let s : State := if off = 0x1C then { s with reg := { s.reg with wrong := 0 } }
      else if off = 0x28 then { s with reg := { s.reg with accCount := 0 } }
      else if 0x100000 ≤ off && off < 0x130000 then takeFree s
      else s
    (s, some v)

/-- A narrow read returns bytes of the current value and has none of the side effects of R421. -/
def narrowRead (s : State) (l : HLink) (m : BitVec 2) (off : Nat) (cover : Bool) : State × Option Nat :=
  if 0x3000000 ≤ off then pageRead s l (off - 0x3000000) true cover
  else if !assigned off then (s, none) else (s, some (regValue s l m off))

/-- A read of one doubleword of a BAR; `cover`: it asks for the doubleword's first byte. -/
def dwordRead (s : State) (l : HLink) (m : BitVec 2) (bar off : Nat) (full cover : Bool) : State × Option Nat :=
  match bar with
  | 0 => if full then fullRead s l m off else narrowRead s l m off cover
  | 1 => (bellCheck s l off, bellDword s l off)
  | _ => pageRead s l off false cover

/-- The access error of an access. -/
def barError (s : State) (a : BarAccess) (kind : Nat) (off : Nat) (write : Bool) : State :=
  accessError s kind a.link off a.bar.toNat write (dwordsOf a) (a.be.toNat % 16)

/-- The doublewords of a read; an unassigned one reads 0 and is an access error. -/
def readDwords (s : State) (a : BarAccess) (full : Bool) (n : Nat) : State × List (BitVec 32) :=
  (List.range n).foldl (fun (r : State × List (BitVec 32)) k =>
    let off := offOf a + 4 * k
    match dwordRead r.1 a.link a.member a.bar.toNat off full (full || a.be.getLsbD 0) with
    | (t, some v) => (t, r.2 ++ [BitVec.ofNat 32 v])
    | (t, none) => (barError t a 3 off false, r.2 ++ [0])) (s, [])

/-- The bytes a narrow read requests. -/
def enabled (be : Nat) (v : BitVec 32) : BitVec 32 :=
  v &&& (beMask (BitVec.ofNat 64 (be % 16))).setWidth 32

/-- The kind recorded for an access before stage FIRMWARE, which ACCERR_A.KIND does not state: one of its codes, free. -/
def freeKind (s : State) : Nat := 1 + (Config.freeValue s.freeCount).toNat % 6

/-- A read of a BAR that has its turn (R418 to R423); one of BAR0 gets no completion while its host link waits for a reset (R440). -/
def barRead (s : State) (a : BarAccess) : State :=
  let ur := fun (s : State) (kind : Nat) => emit (barError s a kind (offOf a) false) (.ur a.link a.member)
  if a.bar == 0 && s.reg.muted.contains a.link then s
  else if !barsUp s then ur (takeFree s) (freeKind s)
  else match classify a with
    | .payload =>
      emit s (.cpl a.link a.member ((List.range (dwordsOf a)).map (fun k =>
        BitVec.ofNat 32 (regValue s a.link a.member (offOf a + 4 * k)))))
    | .oversize => ur s 5
    | .unaligned => ur s 2
    | .wide => let (t, l) := readDwords s a true 2; emit t (.cpl a.link a.member l)
    | .full => let (t, l) := readDwords s a true 1; emit t (.cpl a.link a.member l)
    | .narrow => let (t, l) := readDwords s a false 1; emit t (.cpl a.link a.member (l.map (enabled a.be.toNat)))

/-- The block of a BAR0 register (Table 14-1). -/
def blockOf (off : Nat) : Nat :=
  if 0x21000 ≤ off && off < 0x23000 then 0x21 else if 0x44000 ≤ off && off < 0x48000 then 0x44 else off / 4096

/-- A write of this host link to the block of the access waits for the engine (R426). -/
def barBehind (s : State) (a : BarAccess) : Option BarWait :=
  (s.hen.bars.filter (fun w => a.bar == 0 && w.link == a.link && w.read.isNone && blockOf w.off == blockOf (offOf a))).getLast?

/-- A read of a block completes only after the writes of its host link to the block (R426). -/
def doBarRead (s : State) (a : BarAccess) : State :=
  match barBehind s a with
  | none => barRead s a
  | some w => { s with hen := { s.hen with bars := s.hen.bars ++
      [⟨a.link, a.member, offOf a, 0, false, (s.hen.bars.map (·.behind)).foldl max w.behind, some a⟩] } }

def execRegisterRead (a : BarAccess) (s : State) : Host.Outcome State Fault Refusal := act s (fun s => doBarRead s a)

-- ===== LOCKKEY (R428, R429) =====

def doLockkey (s : State) (l : HLink) (value : BitVec 32) : State :=
  if value = 0x6A0D93B1 then { s with reg := { s.reg with unlock := tput 0 s.reg.unlock l.toNat (s.now + 1000000) } }
  else
    raise { s with reg := { s.reg with
      unlock := tput 0 s.reg.unlock l.toNat 0
      wrong := if s.reg.wrong == BitVec.allOnes 16 then s.reg.wrong else s.reg.wrong + 1 } } 0x3E2 164 [(2, l.toNat)]

/-- 1 ms has passed since the unlock was armed. -/
def doBarLapse (s : State) (l : HLink) : State :=
  if tget 0 s.reg.unlock l.toNat ≤ s.now then { s with reg := { s.reg with unlock := tput 0 s.reg.unlock l.toNat 0 } } else s

def execBar0UnlockLapse (link : HLink) (s : State) : Host.Outcome State Fault Refusal := act s (fun s => doBarLapse s link)

-- ===== writes (R419, R422, R425, R429, R430, R440) =====

/-- Reset bits of GCTL: a write changes one when it writes 1, since they read 0. -/
def gctlGate : Gate := { plainGate with off := some 0xC }

/-- A reset that the host link asked for waits: the link gets no completion from BAR0 until it has ended (R440). -/
def mute (s : State) (l : HLink) : State :=
  if s.dev.pendingReset.isSome then { s with reg := { s.reg with muted := s.reg.muted ++ [l] } } else s

def gctlFront (s : State) (l : HLink) (v : Nat) : State :=
  frontWl s (barAcc l) gctlGate gctlNote (fun _ => v % 8 != 0) (fun wl s =>
    let (t, e, aux) := gctlOp wl s v
    (if wl && (v % 8 == 1 || v % 8 == 2) then mute t l else t, e, aux))

/-- A register write as the WRITE of its object: the doubleword is set, the rest is the current value, or 0 where it is W1C. -/
def objFront (s : State) (l : HLink) (off : Nat) (o : Obj) (k w : Nat) (value : BitVec 32) : State :=
  let acc := barAcc l
  let g : Gate := { plainGate with attr := o.access, crit := o.crit, fuse := o.fuse, off := some off }
  if o.group == 0x20 && (o.item == 0x16 || o.item == 0x17) then
    frontMark s acc g (noteOf o k) (fun s => writeObj s acc none o k (putBytes (List.replicate 8 0) (4 * w) (leBytes 4 value.toNat)))
  else front s acc g (noteOf o k) (fun s =>
    writeNow s acc o k ((putBytes (objRead s o k) (4 * w) (leBytes 4 value.toNat)).take o.width))

/-- A doubleword write of an MSI-X table entry (PCIe). -/
def msixWrite (s : State) (l : HLink) (m : BitVec 2) (off : Nat) (value : BitVec 32) : State :=
  let f := fnOf s l m
  let n := off / 16
  let e := tget ((0 : BitVec 64), (0 : BitVec 32)) f.msixTable n
  let put := fun (e : BitVec 64 × BitVec 32) => setFn s l m { f with msixTable := tput ((0 : BitVec 64), (0 : BitVec 32)) f.msixTable n e }
  match off % 16 with
  | 0 => put (BitVec.ofNat 64 (e.1.toNat / 2 ^ 32 * 2 ^ 32 + value.toNat), e.2)
  | 4 => put (BitVec.ofNat 64 (value.toNat * 2 ^ 32 + e.1.toNat % 2 ^ 32), e.2)
  | 8 => put (e.1, value)
  | _ => maskEntry s l m n (value.getLsbD 0)

/-- The unlock of the link is consumed by a write that is not a dictionary write (R429). -/
def loseUnlock (s : State) (l : HLink) : State := { s with reg := { s.reg with unlock := tput 0 s.reg.unlock l.toNat 0 } }

/-- A 32-bit write to an assigned offset of BAR0. -/
def bar0Write (s : State) (l : HLink) (m : BitVec 2) (off : Nat) (value : BitVec 32) : State :=
  let acc := barAcc l
  if off = 0x18 then doLockkey s l value
  else if off = 0x0C then gctlFront s l value.toNat
  else if off = 0x1000 then cacheFront s acc value
  else if off = 0x2004 then maintxFront s acc value
  else if 0x20000 ≤ off && off < 0x20800 && off % 256 == 0 then flipFront s acc ((off - 0x20000) / 256) value
  else if 0x21000 ≤ off && off < 0x23000 && off % 32 == 0 then bflipFront s acc (BitVec.ofNat 8 ((off - 0x21000) / 32)) value
  else if off = 0x40000 then ackFront s acc value.toNat
  else if 0x44000 ≤ off && off < 0x48000 then
    (if off % 8 = 0 then routeFront s acc ((off - 0x44000) / 8) value else loseUnlock s l)
  else if 0x200000 ≤ off && off < 0x208000 then msixWrite (loseUnlock s l) l m (off - 0x200000) value
  else match regObj off with
    | some (g, i, k, w) =>
      (match objAt s g i with
       | some o => objFront s l off o k w value
       | none => loseUnlock s l)
    | none => loseUnlock s l

/-- A BAR0 register that is a dictionary object (R425); GCTL acts at once (log entry 105). -/
def dictReg (off : Nat) : Bool := (regObj off).isSome && !(0x200000 ≤ off)

/-- What the engine executes before a BAR0 write that arrives now: the queue, and the in-band frames and BAR0 writes of this
management cycle (R390). -/
def framesAhead (s : State) : Nat :=
  s.hen.queue.length + (s.hen.cycle.filter (fun q => q.acc.transport == .mailbox && !badFrame s q.f)).length

/-- A BAR0 write of a dictionary object arrives: it is executed in arrival order with the other operations of the engine (R22,
R390, R425). While 64 writes of its host link wait, the link takes no further one (R426). -/
def bar0Arrive (s : State) (l : HLink) (m : BitVec 2) (off : Nat) (value : BitVec 32) : State :=
  if !dictReg off || (framesAhead s = 0 && s.hen.bars.isEmpty) then bar0Write s l m off value
  else if 64 ≤ (s.hen.bars.filter (fun w => w.link == l && w.read.isNone)).length then s
  else
    let armed : Bool := s.now < tget 0 s.reg.unlock l.toNat
    let s := loseUnlock s l
    { s with hen := { s.hen with bars := s.hen.bars ++ [⟨l, m, off, value, armed, framesAhead s, none⟩] } }

/-- One doubleword of a full or 64-bit write. -/
def dwordWrite (s : State) (a : BarAccess) (off : Nat) (value : BitVec 32) : State :=
  if a.bar = 0 then
    (if assigned off && barsUp s then bar0Arrive s a.link a.member off value
     else if 0x3000000 ≤ off && (pageBit ((off - 0x3000000) / 4096)).isSome then loseUnlock s a.link
     else barError (loseUnlock s a.link) a 3 off true)
  else if a.bar = 1 then
    (match bellWrite s a.link off value with
     | some t => t
     | none => barError (bellStray s a.link off) a 3 off true)
  else barError s a 6 off true

/-- A write to the mailbox payload is performed as given (R422); one that covers a whole doubleword takes the unlock (R429). -/
def payloadWrite (s : State) (a : BarAccess) (value : BitVec 64) : State :=
  let f := fnOf s a.link a.member
  let bytes := leBytes 8 value.toNat
  let n := min (4 * dwordsOf a) 8
  let l := (List.range n).foldl (fun l k =>
    if a.be.getLsbD k then putBytes l (offOf a - payloadBase + k) [bytes.getD k 0] else l) f.reply
  let s := setFn s a.link a.member { f with reply := l }
  if a.be.toNat % 16 = 15 || (dwordsOf a = 2 && a.be.toNat / 16 = 15) then loseUnlock s a.link else s

/-- A write that is an unsupported request is discarded; the function reports it through AER: bit 20 of its status (PCIe). -/
def urWrite (s : State) (a : BarAccess) (kind : Nat) : State :=
  let f := fnOf s a.link a.member
  barError (setFn s a.link a.member { f with aer := f.aer ||| 0x100000 }) a kind (offOf a) true

/-- Before stage FIRMWARE the write is discarded and is an access error (R440); it is taken as one on member 0 (log entry 121). -/
def lockkeyIn (s : State) (l : HLink) (value : BitVec 32) : State :=
  if barsUp s then doLockkey s l value else urWrite (takeFree s) ⟨l, 0, 0, 0x18, 1, 15⟩ (freeKind s)

def execLockkeyWrite (link : HLink) (value : BitVec 32) (s : State) : Host.Outcome State Fault Refusal :=
  act s (fun s => lockkeyIn s link value)

def doBarWrite (s : State) (a : BarAccess) (value : BitVec 64) : State :=
  if !barsUp s then urWrite (takeFree s) a (freeKind s)
  else match classify a with
    | .payload => payloadWrite s a value
    | .oversize => urWrite s a 5
    | .unaligned => urWrite s a 2
    | .wide => dwordWrite (dwordWrite s a (offOf a) (value.setWidth 32)) a (offOf a + 4) ((value >>> 32).setWidth 32)
    | .full => dwordWrite s a (offOf a) (value.setWidth 32)
    | .narrow => barError s a (if 2 ≤ a.bar.toNat then 6 else 1) (offOf a) true

/-- A write of GCTL may restart device time. -/
def execRegisterWrite (a : BarAccess) (value : BitVec 64) (s : State) : Host.Outcome State Fault Refusal :=
  actReset s (fun s => doBarWrite s a value)

-- ===== parity and voting (R432, R434) =====

/-- The value that a non-critical master takes when its own cannot be corrected: the pending image's where the object is
persisted, else its default (R433). -/
def masterValue (s : State) (o : Obj) (k : Nat) : List Byte :=
  match (if persisted o then s.hen.pending.find? (entryFor o.group o.item k) else none) with
  | some e => e.value
  | none => objRead (State.start s.dev.straps) o k

/-- A non-critical master with an error: a single-bit error is corrected and rewritten; otherwise the master is reloaded and pushed
to every copy, recorded with DETAIL bit 63 and reported (R433). -/
def reloadMaster (s : State) (m : Nat × Nat × Nat × Bool) : State :=
  let (g, i, k, lost) := m
  match (if lost then objAt s g i else none) with
  | none => s
  | some o =>
    let s := (writeNow s ⟨.console, 0, 0⟩ o k (masterValue s o k)).1
    let s := logRec s { LogRec.init with type := 0x15, sev := 2, unit := 6, flags := 16, island := 164,
                                         detail := bit 63 ||| BitVec.ofNat 64 (g * 65536 + i) }
    raise { s with reg := { s.reg with parity := s.reg.parity + 1 } } 0x3E0 164 [(2, i), (2, 164)]

/-- Every master of non-critical configuration is read through its code (R433). -/
def sweepMasters (s : State) : State := s.reg.soft.foldl reloadMaster { s with reg := { s.reg with soft := [] } }

/-- Every read copy whose parity is wrong is reloaded from its master, recorded and reported (R432). -/
def sweepCopies (s : State) : State :=
  let l := s.reg.upsets
  let s := { s with reg := { s.reg with upsets := [], parity := s.reg.parity + BitVec.ofNat 64 l.length } }
  l.foldl (fun s u =>
    let s := logRec s { LogRec.init with type := 0x15, sev := 2, unit := 6, flags := 16, island := BitVec.ofNat 16 u.1,
                                         detail := BitVec.ofNat 64 u.2 }
    raise s 0x3E0 u.1 [(2, u.2), (2, u.1)]) s

/-- The sweep of every register and every master, each 1 ms. -/
def doParitySweep (s : State) : State := sweepCopies (sweepMasters s)

def execConfigParitySweep (s : State) : Host.Outcome State Fault Refusal := act s doParitySweep

/-- Some critical field has two masters that differ from the third and from each other. -/
def noMajority (l : List (Nat × Nat × BitVec 64)) : Bool := l.any (fun a => l.any (fun b => a.1 == b.1 && a.2.1 != b.2.1))

/-- Every outvoted master is rewritten, recorded and reported; without a majority the domain enters containment. -/
def doVoteSweep (s : State) : State :=
  let l := s.reg.masters
  if noMajority l then contain s 6 164 else
  let s := { s with reg := { s.reg with masters := [], votes := s.reg.votes + BitVec.ofNat 64 l.length } }
  l.foldl (fun s v =>
    let s := logRec s { LogRec.init with type := 0x14, sev := 0, unit := 6, flags := 16, island := 164,
                                         detail := BitVec.ofNat 64 (v.1 * 4 + v.2.1) }
    raise s 0x3E1 164 []) s

def execVoteSweep (s : State) : Host.Outcome State Fault Refusal := act s doVoteSweep

end Sys2Proof.Machine
end

