-- ==== Sys2Proof/Machine/Frames.lean ====
section
/-!
DEFINITION. The turns of the dictionary engine: a frame is executed, and the BAR0 accesses that wait behind it follow in arrival
order (R390, R391, R425, R426); the management cycle.
-/

namespace Sys2Proof.Machine

/-- A BAR0 access that waited has its turn. A write carries the unlock that it took when it arrived (R430). -/
def barTurn (s : State) (w : BarWait) : State :=
  match w.read with
  | some a => barRead s a
  | none =>
    let l := w.link.toNat
    let now := tget 0 s.reg.unlock l
    let s := { s with reg := { s.reg with unlock := tput 0 s.reg.unlock l (if w.armed then s.now + 1 else 0) } }
    let s := bar0Write s w.link w.member w.off w.value
    { s with reg := { s.reg with unlock := tput 0 s.reg.unlock l now } }

/-- The BAR0 accesses at the front have their turn. -/
def barTurns : Nat → State → State
  | 0, s => s
  | n + 1, s =>
    match s.hen.bars with
    | w :: t => if w.behind = 0 || s.hen.queue.isEmpty && s.hen.cycle.isEmpty then
        barTurns n (barTurn { s with hen := { s.hen with bars := t } } w) else s
    | [] => s

/-- After an operation of the engine: what waited behind a frame that has left the queue waits for one frame fewer. -/
def afterTurn (s t : State) : State :=
  if s.hen.bars.isEmpty then t else
  let n := s.hen.queue.length - t.hen.queue.length
  let t := { t with hen := { t.hen with bars := t.hen.bars.map (fun w => { w with behind := w.behind - n }) } }
  barTurns t.hen.bars.length t

/-- A frame has its turn, and then what waited for it. -/
def turn (s : State) (acc : Accessor) (f : Frame) (op : Byte) : State := afterTurn s (doFrame s acc f op)

/-- A write may reset the device (R361), which restarts time. -/
def execWrite (acc : Accessor) (f : Frame) (s : State) : Host.Outcome State Fault Refusal := actReset s (fun s => turn s acc f 2)
def execRead (acc : Accessor) (f : Frame) (s : State) : Host.Outcome State Fault Refusal := act s (fun s => turn s acc f 1)
def execReadImage (acc : Accessor) (f : Frame) (s : State) : Host.Outcome State Fault Refusal := act s (fun s => turn s acc f 3)
def execWriteImage (acc : Accessor) (f : Frame) (s : State) : Host.Outcome State Fault Refusal := act s (fun s => turn s acc f 4)
def execHenosCommit (acc : Accessor) (f : Frame) (s : State) : Host.Outcome State Fault Refusal := act s (fun s => turn s acc f 5)
def execUnlock (acc : Accessor) (f : Frame) (s : State) : Host.Outcome State Fault Refusal := act s (fun s => turn s acc f 6)
def execOpenSession (acc : Accessor) (f : Frame) (s : State) : Host.Outcome State Fault Refusal := act s (fun s => turn s acc f 7)
def execSread (acc : Accessor) (f : Frame) (s : State) : Host.Outcome State Fault Refusal := act s (fun s => turn s acc f 8)
def execSwrite (acc : Accessor) (f : Frame) (s : State) : Host.Outcome State Fault Refusal := act s (fun s => turn s acc f 9)
def execCloseSession (acc : Accessor) (f : Frame) (s : State) : Host.Outcome State Fault Refusal := act s (fun s => turn s acc f 10)
def execDescribe (acc : Accessor) (f : Frame) (s : State) : Host.Outcome State Fault Refusal := act s (fun s => turn s acc f 11)
def execNext (acc : Accessor) (f : Frame) (s : State) : Host.Outcome State Fault Refusal := act s (fun s => turn s acc f 12)
def execSubscribe (acc : Accessor) (f : Frame) (s : State) : Host.Outcome State Fault Refusal := act s (fun s => turn s acc f 13)
def execUnsubscribe (acc : Accessor) (f : Frame) (s : State) : Host.Outcome State Fault Refusal := act s (fun s => turn s acc f 14)

def execManagementCycle (s : State) : Host.Outcome State Fault Refusal := act s (fun s => afterTurn s (doCycle s))

end Sys2Proof.Machine
end

