-- ==== Sys2Proof/Machine/Mailbox.lean ====
section
/-!
DEFINITION. The CXL mailbox, the merged poison list, the MCTP endpoints and the I3C target (R262, R263, R318 to R320, R405 to
R407, R415, R461).
-/

namespace Sys2Proof.Machine

-- ===== the mailbox (R318); payloads list the fields a rule names, in its order (log entry 26) =====

/-- A member function whose CXL.io works: its member link is in L0, with or without CXL.mem. -/
def ioUp (s : State) (l : HLink) (m : BitVec 2) : Bool :=
  barsUp s && !(hlinkOf s l).perst && (match memberPort s l m with
    | some p => portUp s p || (linkOf s p).state == .ioOnly
    | none => false)

/-- Success, with the payload. -/
def mboxOk (s : State) (l : HLink) (m : BitVec 2) (payload : List Byte) : State := mboxReply s l m 0 payload
/-- CXL return codes. -/
def invalidInput : BitVec 16 := 2
def unsupportedCode : BitVec 16 := 3
def invalidHandle : BitVec 16 := 0xE

def logOf (s : State) (l : HLink) (m : BitVec 2) (k : Nat) : List (BitVec 16 × LogRec) := tget [] (fnOf s l m).events k

/-- A mirrored record: its handle and the log record (R319); the record of a data array error is a General Media Event record
with the physical address ADDR. -/
def eventBytes (e : BitVec 16 × LogRec) : List Byte :=
  b2 e.1.toNat ++ b1 (if e.2.unit = 0 then 1 else 0) ++ b8 e.2.addr.toNat ++ logBytes e.2

def doGetEvents (s : State) (l : HLink) (m : BitVec 2) (k : Nat) : State :=
  let v := logOf s l m k
  mboxOk s l m (b1 (b2n ((fnOf s l m).overflow.getLsbD k)) ++ b2 v.length ++ v.flatMap eventBytes)

/-- A handle that names no record of the log makes the command fail; clearing all clears the overflow flag. -/
def doClearEvents (s : State) (l : HLink) (m : BitVec 2) (k : Nat) (all : Bool) (handles : List (BitVec 16)) : State :=
  let f := fnOf s l m
  let v := logOf s l m k
  if !all && handles.any (fun h => !(v.any (fun e => e.1 == h))) then mboxReply s l m invalidHandle []
  else
    let left := if all then [] else v.filter (fun e => !handles.contains e.1)
    mboxOk (setFn s l m { f with events := tput [] f.events k left, overflow := if all then f.overflow &&& ~~~(bit k) else f.overflow }) l m []

/-- One settings byte for each of the four logs. -/
def doSetPolicy (s : State) (l : HLink) (m : BitVec 2) (policy : List Byte) : State :=
  if policy.length ≠ 4 then mboxReply s l m invalidInput []
  else mboxOk (setFn s l m { fnOf s l m with policy := policy }) l m []

/-- The timestamp last set and the device time elapsed since; free before the first Set Timestamp. -/
def doGetTimestamp (s : State) (l : HLink) (m : BitVec 2) : State :=
  let f := fnOf s l m
  if f.tsBase = 0 && f.tsAt = 0 then mboxOk (takeFree s) l m (b8 (Config.freeValue s.freeCount).toNat)
  else mboxOk s l m (b8 (f.tsBase + (s.now - f.tsAt)).toNat)

def doSetTimestamp (s : State) (l : HLink) (m : BitVec 2) (value : BitVec 64) : State :=
  mboxOk (setFn s l m { fnOf s l m with tsBase := value, tsAt := s.now }) l m []

/-- The opcodes of Table 10-8. -/
def mboxOpcodes : List Nat :=
  [0x0100, 0x0101, 0x0102, 0x0103, 0x0200, 0x0300, 0x0301, 0x0400, 0x0401, 0x4000, 0x4200, 0x4300, 0x4301, 0x4302, 0xC000]

/-- The Command Effects Log: each opcode and its effects, which no rule gives. -/
def effectsLog : List Byte := mboxOpcodes.flatMap (fun c => b2 c ++ [Config.openByte (2 ^ 40 + 2 * c), Config.openByte (2 ^ 40 + 2 * c + 1)])

def doGetLog (s : State) (l : HLink) (m : BitVec 2) (off len : Nat) : State :=
  if effectsLog.length < off + len then mboxReply s l m invalidInput []
  else mboxOk s l m ((effectsLog.drop off).take len)

/-- The sum of the domain's home ranges in 256 MiB units. -/
def capacity256 (s : State) : Nat := 4 * sumNat ((homeOn s).map (fun r => (homeRange s r).limit.toNat - (homeRange s r).base.toNat + 1))

-- ===== health (R320) =====

/-- Some bank's free spare rows have reached the reserve. -/
def maintenanceNeeded (s : State) : Bool :=
  s.rel.reserve == 512 || s.rel.spares.any (fun p =>
    512 - sparesUsed s (p.1 / 512) (p.1 % 512 * 2 ^ 22) ≤ s.rel.reserve.toNat)

/-- A stack is retired, or a member link runs below its slot width or below 64 GT/s. -/
def degraded (s : State) : Bool :=
  s.rel.retired != 0 || (allSlots s).any (fun t =>
    portUp s t.1 && ((linkOf s t.1).width < 4 * t.2.1 || (linkOf s t.1).speed < 64))

def hottest (s : State) : Int := s.clk.temps.foldl (fun a t => max a t.toInt) (tempOf s 0)

/-- The CORRECTED counts of 0x50:0020, saturating. -/
def correctedSum (s : State) : Nat := min (sumNat ((List.range 8).map (fun st => (tget 0 s.rel.outcomes (st * 6)).toNat))) (2 ^ 32 - 1)

/-- Bit 0 Maintenance Needed, bit 1 Performance Degraded; media status 0 Normal, 1 Not Ready; the temperature in units of
0.125 degrees; the dirty shutdown count; the corrected error count. -/
def healthBytes (s : State) : List Byte :=
  b1 (b2n (maintenanceNeeded s) + 2 * b2n (degraded s)) ++ b1 (b2n (!presented s)) ++ b2 0 ++ b4 (BitVec.ofInt 32 (hottest s)).toNat ++
  b4 s.rel.dirtyShutdowns.toNat ++ b4 (correctedSum s)

-- ===== the merged poison list (R262) =====

/-- Records that one 64 KiB payload carries; with more, More Records is set. -/
def poisonMost : Nat := 4094

def insSa (a : SA) : List SA → List SA
  | [] => [a]
  | b :: l => if a.toNat < b.toNat then a :: b :: l else if a = b then b :: l else b :: insSa a l

/-- The list between `base` and `base + len`, in address order. -/
def poisonReply (s : State) (l : HLink) (m : BitVec 2) (base len : BitVec 64) (lines : List SA) : State :=
  let own := (lines.filter (fun a => base.toNat ≤ a.toNat && a.toNat < base.toNat + len.toNat)).foldr insSa []
  mboxOk s l m (b1 (b2n (decide (poisonMost < own.length))) ++ b2 (min own.length poisonMost) ++
    (own.take poisonMost).flatMap (fun a => b8 a.toNat))

/-- The lists of the other members are asked for on CTL. -/
def doGetPoison (s : State) (l : HLink) (m : BitVec 2) (base len : BitVec 64) : State :=
  let ds := others s
  if ds.isEmpty then poisonReply s l m base len s.rel.poison
  else
    let ask : PoisonAsk := ⟨l, m, base, len, s.peer.members &&& ~~~(bit (devId s).toNat), s.rel.poison⟩
    ds.foldl (fun s d => ctlSend s d 0x0F [0]) { s with peer := { s.peer with poisonAsk := s.peer.poisonAsk ++ [ask] } }

/-- The asks that have every list are answered, oldest first. -/
def settleAsks (s : State) : State :=
  (s.peer.poisonAsk.filter (fun a => a.awaiting == 0)).foldl (fun s a => poisonReply s a.link a.member a.base a.len a.lines)
    { s with peer := { s.peer with poisonAsk := s.peer.poisonAsk.filter (fun a => a.awaiting != 0) } }

/-- A reply serves the oldest ask that still waits for its sender. -/
def takeLists (src : DevId) (lines : List SA) : List PoisonAsk → List PoisonAsk
  | [] => []
  | a :: l => if a.awaiting.getLsbD src.toNat then
      { a with awaiting := a.awaiting &&& ~~~(bit src.toNat), lines := a.lines ++ lines } :: l
    else a :: takeLists src lines l

def doPoisonq (s : State) (src : DevId) (reply : Bool) (lines : List SA) : State :=
  if !fromMember s src || src == devId s then s
  else if reply then settleAsks { s with peer := { s.peer with poisonAsk := takeLists src lines s.peer.poisonAsk } }
  else ctlSend s src 0x0F (1 :: s.rel.poison.map (fun a => a.setWidth 64))

def execPoisonq (src : DevId) (reply : Bool) (lines : List SA) (s : State) : Host.Outcome State Fault Refusal :=
  act s (fun s => doPoisonq (ctlIn s src) src reply lines)

/-- Inject Poison and Clear Poison: a full-line management write at the home (R263). -/
def poisonWrite (s : State) (l : HLink) (m : BitVec 2) (sa : BitVec 64) (data : Line) (poison : Bool) : State :=
  if 2 ^ 48 ≤ sa.toNat then mboxReply (refuse s false 0 0xFF .management 0xFFFF 164) l m (poisonCode (some .unmapped)) []
  else match ncIssue s .ncWrite (.mbox l m) .management (lineSa (sa.setWidth 48)) data (BitVec.allOnes 64) poison 0 0 with
    | (s, none) => s
    | (s, bad) => mboxReply s l m (poisonCode bad) []

-- ===== the Henos command (R405) =====

/-- A request frame; a payload of the wrong length, or one that is no frame, is Invalid Input. -/
def doHenosMailbox (s : State) (l : HLink) (m : BitVec 2) (frame : List Byte) : State :=
  let acc : Accessor := ⟨.mailbox, l, 0⟩
  if frame.length < 24 || 1032 < frame.length then mboxReply s l m invalidInput []
  else if (parseFrame m frame).isNone then mboxReply (doArrival s acc m frame) l m invalidInput []
  else doArrival { s with hen := { s.hen with mbox := tput 0 s.hen.mbox l.toNat (m.setWidth 3 + 1) } } acc m frame

-- ===== the turn of a command (R318) =====

/-- What a command does in its turn: Get FW Info gives the slots, the one running and their versions; Get Supported Logs the one
log and its size; Identify Memory Device total and volatile capacity, persistent capacity 0 and the poison list maximum. -/
def mboxRun (s : State) (l : HLink) (m : BitVec 2) : MboxCmd → State
  | .getEvents log => doGetEvents s l m log.toNat
  | .clearEvents log all handles => doClearEvents s l m log.toNat all handles
  | .getPolicy => mboxOk s l m (fnOf s l m).policy
  | .setPolicy policy => doSetPolicy s l m policy
  | .getFwInfo => mboxOk s l m (firmwareBytes s)
  | .getTimestamp => doGetTimestamp s l m
  | .setTimestamp v => doSetTimestamp s l m v
  | .getSupportedLogs => mboxOk s l m (b2 1 ++ b4 effectsLog.length)
  | .getLog off len => doGetLog s l m off.toNat len.toNat
  | .identify => mboxOk s l m (b8 (capacity256 s) ++ b8 (capacity256 s) ++ b8 0 ++ b4 32768)
  | .getHealth => mboxOk s l m (healthBytes s)
  | .getPoison base len => doGetPoison s l m base len
  | .injectPoison sa => poisonWrite s l m sa 0 true
  | .clearPoison sa data => poisonWrite s l m sa data false
  | .henos frame => doHenosMailbox s l m frame
  | .other => mboxReply s l m unsupportedCode []

/-- A command of the host link is running: a Henos frame, a poison write, or a poison list that the domain is asked for. -/
def mboxRuns (s : State) (l : HLink) : Bool :=
  let mine := fun (o : Origin) => match o with
    | .mbox k _ => k == l
    | _ => false
  tget (0 : BitVec 3) s.hen.mbox l.toNat != 0 || s.peer.poisonAsk.any (fun a => a.link == l) ||
    s.cache.reqs.any (fun r => mine r.org) || s.peer.txns.any (fun x => mine x.org)

/-- A command must wait: one of its host link runs, or waits before it. -/
def mboxBusy (s : State) (l : HLink) : Bool := mboxRuns s l || s.hen.mwait.any (fun w => w.link == l)

/-- A doorbell is rung: commands run one at a time per host link, in the order of their doorbells. -/
def mboxEnter (s : State) (l : HLink) (m : BitVec 2) (c : MboxCmd) : State :=
  if mboxBusy s l then { s with hen := { s.hen with mwait := s.hen.mwait ++ [⟨l, m, c⟩] } } else mboxRun s l m c

/-- The first waiting command whose host link has none running takes its turn (log entry 120). -/
def mboxPump (s : State) : State :=
  match takeFirst (fun (w : MboxWait) => !mboxRuns s w.link) s.hen.mwait with
  | none => s
  | some (w, rest) =>
    let s := { s with hen := { s.hen with mwait := rest } }
    if ioUp s w.link w.member then mboxRun s w.link w.member w.cmd else s

/-- An idle nanosecond (log entry 7): the counter of island 165 counts while the device has power (R374), the occupancy counters
add, and a mailbox command that waited may have its turn. -/
def tick (s : State) : State :=
  if !s.dev.powered then s else
  let t := occupancy s { s with now := s.now + 1 }
  if alive t then { mboxPump t with pending := s.pending, now := t.now } else t

/-- A command on the mailbox of a member function that is up. -/
def onMailbox (l : HLink) (m : BitVec 2) (c : MboxCmd) (s : State) : Host.Outcome State Fault Refusal :=
  act s (fun s => if ioUp s l m then mboxEnter s l m c else s)

def execGetEventRecords (l : HLink) (member : BitVec 2) (log : BitVec 2) (s : State) : Host.Outcome State Fault Refusal :=
  onMailbox l member (.getEvents log) s
def execClearEventRecords (l : HLink) (member : BitVec 2) (log : BitVec 2) (all : Bool) (handles : List (BitVec 16)) (s : State) :
    Host.Outcome State Fault Refusal := onMailbox l member (.clearEvents log all handles) s
def execGetEventInterruptPolicy (l : HLink) (member : BitVec 2) (s : State) : Host.Outcome State Fault Refusal :=
  onMailbox l member .getPolicy s
def execSetEventInterruptPolicy (l : HLink) (member : BitVec 2) (policy : List Byte) (s : State) : Host.Outcome State Fault Refusal :=
  onMailbox l member (.setPolicy policy) s
def execGetFwInfo (l : HLink) (member : BitVec 2) (s : State) : Host.Outcome State Fault Refusal :=
  onMailbox l member .getFwInfo s
def execGetTimestamp (l : HLink) (member : BitVec 2) (s : State) : Host.Outcome State Fault Refusal :=
  onMailbox l member .getTimestamp s
def execSetTimestamp (l : HLink) (member : BitVec 2) (value : BitVec 64) (s : State) : Host.Outcome State Fault Refusal :=
  onMailbox l member (.setTimestamp value) s
def execGetSupportedLogs (l : HLink) (member : BitVec 2) (s : State) : Host.Outcome State Fault Refusal :=
  onMailbox l member .getSupportedLogs s
def execGetLog (l : HLink) (member : BitVec 2) (offset length : BitVec 32) (s : State) : Host.Outcome State Fault Refusal :=
  onMailbox l member (.getLog offset length) s
def execIdentifyMemoryDevice (l : HLink) (member : BitVec 2) (s : State) : Host.Outcome State Fault Refusal :=
  onMailbox l member .identify s
def execGetHealthInfo (l : HLink) (member : BitVec 2) (s : State) : Host.Outcome State Fault Refusal :=
  onMailbox l member .getHealth s
def execGetPoisonList (l : HLink) (member : BitVec 2) (base len : BitVec 64) (s : State) : Host.Outcome State Fault Refusal :=
  onMailbox l member (.getPoison base len) s
def execInjectPoison (l : HLink) (member : BitVec 2) (sa : BitVec 64) (s : State) : Host.Outcome State Fault Refusal :=
  onMailbox l member (.injectPoison sa) s
def execClearPoison (l : HLink) (member : BitVec 2) (sa : BitVec 64) (data : Line) (s : State) : Host.Outcome State Fault Refusal :=
  onMailbox l member (.clearPoison sa data) s
def execHenosMailboxCommand (l : HLink) (member : BitVec 2) (frame : List Byte) (s : State) : Host.Outcome State Fault Refusal :=
  onMailbox l member (.henos frame) s
def execUnsupportedMailboxCommand (l : HLink) (member : BitVec 2) (_opcode : BitVec 16) (s : State) : Host.Outcome State Fault Refusal :=
  onMailbox l member .other s

-- ===== MCTP control (R406); response bodies begin with the completion code (DSP0236; log entry 26) =====

/-- A message to the MCTP endpoint of a member function that is up. -/
def onEndpoint (l : HLink) (m : BitVec 2) (s : State) (f : State → State) : Host.Outcome State Fault Refusal :=
  act s (fun s => if ioUp s l m then f s else s)

def mctpReply (s : State) (l : HLink) (m : BitVec 2) (body : List Byte) : State := emit s (.mctp l m body)

/-- Operations 0 and 1 set the EID; 0 and 255 are no EIDs. -/
def doSetEid (s : State) (l : HLink) (m : BitVec 2) (op : BitVec 2) (eid : Byte) : State :=
  if 2 ≤ op.toNat || eid == 0 || eid == 0xFF then mctpReply s l m [2]
  else mctpReply (setFn s l m { fnOf s l m with eid := eid }) l m [0, 0, eid, 0]

def execSetEndpointId (l : HLink) (member : BitVec 2) (op : BitVec 2) (eid : Byte) (s : State) : Host.Outcome State Fault Refusal :=
  onEndpoint l member s (fun s => doSetEid s l member op eid)

def execGetEndpointId (l : HLink) (member : BitVec 2) (s : State) : Host.Outcome State Fault Refusal :=
  onEndpoint l member s (fun s => mctpReply s l member [0, (fnOf s l member).eid, 0, 0])

/-- The message types: MCTP control and Vendor Defined - PCI. -/
def mctpTypes : List Byte := [0x00, 0x7E]

/-- One version; which it is no rule says. -/
def doMctpVersion (s : State) (l : HLink) (m : BitVec 2) (type : Byte) : State :=
  if type == 0xFF || mctpTypes.contains type then
    mctpReply s l m ([0, 1] ++ (List.range 4).map (fun k => Config.openByte (2 ^ 41 + 4 * type.toNat + k)))
  else mctpReply s l m [0x80]

def execGetMctpVersionSupport (l : HLink) (member : BitVec 2) (type : Byte) (s : State) : Host.Outcome State Fault Refusal :=
  onEndpoint l member s (fun s => doMctpVersion s l member type)

def execGetMessageTypeSupport (l : HLink) (member : BitVec 2) (s : State) : Host.Outcome State Fault Refusal :=
  onEndpoint l member s (fun s => mctpReply s l member ([0, BitVec.ofNat 8 mctpTypes.length] ++ mctpTypes))

/-- The Nyzisan vendor identifier of 0x00:0003. -/
def execGetVendorDefinedMessageSupport (l : HLink) (member : BitVec 2) (s : State) : Host.Outcome State Fault Refusal :=
  onEndpoint l member s (fun s => mctpReply s l member [0, 0xFF, 0, 0x4E, 0x5A, 0, 0])

-- ===== the I3C target (R407, R415) =====

def setI3c (s : State) (addr : BitVec 7) : State := { s with hen := { s.hen with i3cAddr := addr } }

def execEntdaa (addr : BitVec 7) (s : State) : Host.Outcome State Fault Refusal := act s (fun s => setI3c s addr)

/-- The static address is 0x30 + BID. -/
def execSetdasa (static addr : BitVec 7) (s : State) : Host.Outcome State Fault Refusal :=
  act s (fun s => if static.toNat = 0x30 + (devId s).toNat then setI3c s addr else s)

/-- A response that is ready, else the oldest event frame of the first subscriber that has one. -/
def doPrivateRead (s : State) : State :=
  match s.hen.i3cReady with
  | b :: t => emit { s with hen := { s.hen with i3cReady := t } } (.i3c b)
  | [] =>
    match s.hen.subs.find? (fun b => b.acc.transport == .i3c && !b.queue.isEmpty) with
    | none => s
    | some b =>
      let s := { s with hen := { s.hen with subs := s.hen.subs.map (fun x => if x.acc == b.acc then { x with queue := x.queue.drop 1 } else x) } }
      emit (emit s (.event b.acc (b.queue.headD []))) (.i3c (b.queue.headD []))

def execI3cPrivateRead (s : State) : Host.Outcome State Fault Refusal := act s doPrivateRead

/-- Partial packets are discarded; the dynamic address stays. -/
def execI3cTargetReset (s : State) : Host.Outcome State Fault Refusal :=
  act s (fun s => { s with hen := { s.hen with i3cPartial := [] } })

/-- The bus has been idle for more than 100 ms in the middle of a message. -/
def doI3cIdle (s : State) : State :=
  if since s s.hen.i3cSince ≤ 100000000 then s else { s with hen := { s.hen with i3cPartial := [] } }

def execI3cIdleTimeout (s : State) : Host.Outcome State Fault Refusal := act s doI3cIdle

end Sys2Proof.Machine
end

