-- ==== Sys2Proof/Machine/Dispatch.lean ====
section
/-!
DEFINITION. The meaning of each command: one arm for each constructor, in the order of the table.
-/

namespace Sys2Proof.Machine

def exec (i : Instr) (s : State) : Host.Outcome State Fault Refusal :=
  match i with
  | .memRd m mv => Sys2Proof.Machine.execMemRd m mv s
  | .memRdData m => Sys2Proof.Machine.execMemRdData m s
  | .memInv m mv nt => Sys2Proof.Machine.execMemInv m mv nt s
  | .memSpecRd m => Sys2Proof.Machine.execMemSpecRd m s
  | .memClnEvct m => Sys2Proof.Machine.execMemClnEvct m s
  | .memWr m mv data poison => Sys2Proof.Machine.execMemWr m mv data poison s
  | .memWrPtl m mv data be poison => Sys2Proof.Machine.execMemWrPtl m mv data be poison s
  | .unsupportedHostOpcode m read => Sys2Proof.Machine.execUnsupportedHostOpcode m read s
  | .markRequest id => Sys2Proof.Machine.execMarkRequest id s
  | .markTimeout w seg => Sys2Proof.Machine.execMarkTimeout w seg s
  | .markRelease b w seg => Sys2Proof.Machine.execMarkRelease b w seg s
  | .setDirtyReleaseSegment acc w seg => Sys2Proof.Machine.execSetDirtyReleaseSegment acc w seg s
  | .setDirtyReleasePending acc w => Sys2Proof.Machine.execSetDirtyReleasePending acc w s
  | .setDirtyAllSegments acc w => Sys2Proof.Machine.execSetDirtyAllSegments acc w s
  | .winDrtClear acc w mask => Sys2Proof.Machine.execWinDrtClear acc w mask s
  | .winAccClear acc w mask => Sys2Proof.Machine.execWinAccClear acc w mask s
  | .winEnable acc w flush => Sys2Proof.Machine.execWinEnable acc w flush s
  | .winDisable acc w flush => Sys2Proof.Machine.execWinDisable acc w flush s
  | .windowDrainComplete w => Sys2Proof.Machine.execWindowDrainComplete w s
  | .winGeometryWrite acc w reg value => Sys2Proof.Machine.execWinGeometryWrite acc w reg value s
  | .winAttrWrite acc w value => Sys2Proof.Machine.execWinAttrWrite acc w value s
  | .setHeadReturn b ls => Sys2Proof.Machine.execSetHeadReturn b ls s
  | .sectorReadReturn id => Sys2Proof.Machine.execSectorReadReturn id s
  | .expanderReadResponse x ans data poison => Sys2Proof.Machine.execExpanderReadResponse x ans data poison s
  | .expanderWriteAccept x ans => Sys2Proof.Machine.execExpanderWriteAccept x ans s
  | .expanderCompletionTimeout x rid => Sys2Proof.Machine.execExpanderCompletionTimeout x rid s
  | .wbufDrainTimeout b slot => Sys2Proof.Machine.execWbufDrainTimeout b slot s
  | .wbufDrainComplete b slot => Sys2Proof.Machine.execWbufDrainComplete b slot s
  | .trackerRelease id => Sys2Proof.Machine.execTrackerRelease id s
  | .sweepStart b => Sys2Proof.Machine.execSweepStart b s
  | .maintClean acc => Sys2Proof.Machine.execMaintClean acc s
  | .maintCleanInvalidate acc => Sys2Proof.Machine.execMaintCleanInvalidate acc s
  | .maintInvalidate acc => Sys2Proof.Machine.execMaintInvalidate acc s
  | .cleanInvalidateWay acc => Sys2Proof.Machine.execCleanInvalidateWay acc s
  | .disableWay acc => Sys2Proof.Machine.execDisableWay acc s
  | .enableWay acc => Sys2Proof.Machine.execEnableWay acc s
  | .rangeOperationComplete => Sys2Proof.Machine.execRangeOperationComplete s
  | .setAndWayComplete => Sys2Proof.Machine.execSetAndWayComplete s
  | .maintParamWrite acc reg value => Sys2Proof.Machine.execMaintParamWrite acc reg value s
  | .cacheDisable acc => Sys2Proof.Machine.execCacheDisable acc s
  | .cacheCleanComplete => Sys2Proof.Machine.execCacheCleanComplete s
  | .cacheEnable acc => Sys2Proof.Machine.execCacheEnable acc s
  | .invalidateAll acc => Sys2Proof.Machine.execInvalidateAll acc s
  | .invalidateAllComplete => Sys2Proof.Machine.execInvalidateAllComplete s
  | .birsp link member sa rsp => Sys2Proof.Machine.execBirsp link member sa rsp s
  | .snoopWriteBack m data be poison => Sys2Proof.Machine.execSnoopWriteBack m data be poison s
  | .biconflict link member sa => Sys2Proof.Machine.execBiconflict link member sa s
  | .bisnpTimeout id => Sys2Proof.Machine.execBisnpTimeout id s
  | .holdExpiry id => Sys2Proof.Machine.execHoldExpiry id s
  | .evictionRateCheck => Sys2Proof.Machine.execEvictionRateCheck s
  | .noncachingRead rq => Sys2Proof.Machine.execNoncachingRead rq s
  | .noncachingWrite rq data be poison => Sys2Proof.Machine.execNoncachingWrite rq data be poison s
  | .hostResponseEgress id => Sys2Proof.Machine.execHostResponseEgress id s
  | .flitTransmit p assembled => Sys2Proof.Machine.execFlitTransmit p assembled s
  | .bucketUpdate => Sys2Proof.Machine.execBucketUpdate s
  | .issueSlot b => Sys2Proof.Machine.execIssueSlot b s
  | .contractAdmit acc ctr => Sys2Proof.Machine.execContractAdmit acc ctr s
  | .shareProposal src entry ctr linkClass => Sys2Proof.Machine.execShareProposal src entry ctr linkClass s
  | .shareAccept src entry reason resource bench => Sys2Proof.Machine.execShareAccept src entry reason resource bench s
  | .shareCommit src entry admitted => Sys2Proof.Machine.execShareCommit src entry admitted s
  | .setAsideComplete b src entry => Sys2Proof.Machine.execSetAsideComplete b src entry s
  | .shareConfirm src entry => Sys2Proof.Machine.execShareConfirm src entry s
  | .shareAbort src entry => Sys2Proof.Machine.execShareAbort src entry s
  | .admissionTimeout entry dev => Sys2Proof.Machine.execAdmissionTimeout entry dev s
  | .contractDelete acc entry => Sys2Proof.Machine.execContractDelete acc entry s
  | .shareRelease src entry => Sys2Proof.Machine.execShareRelease src entry s
  | .deleteTimeout entry => Sys2Proof.Machine.execDeleteTimeout entry s
  | .contractParamWrite acc item value => Sys2Proof.Machine.execContractParamWrite acc item value s
  | .revocationPass => Sys2Proof.Machine.execRevocationPass s
  | .revoke src entry reason => Sys2Proof.Machine.execRevoke src entry reason s
  | .revocationGraceEnd => Sys2Proof.Machine.execRevocationGraceEnd s
  | .startAssay acc x => Sys2Proof.Machine.execStartAssay acc x s
  | .assayStart x => Sys2Proof.Machine.execAssayStart x s
  | .assayComplete x => Sys2Proof.Machine.execAssayComplete x s
  | .disqualification x => Sys2Proof.Machine.execDisqualification x s
  | .slackUpdate => Sys2Proof.Machine.execSlackUpdate s
  | .jobStepRelease => Sys2Proof.Machine.execJobStepRelease s
  | .stepStart b => Sys2Proof.Machine.execStepStart b s
  | .stepCut b => Sys2Proof.Machine.execStepCut b s
  | .stepEnd b => Sys2Proof.Machine.execStepEnd b s
  | .stealRequest b => Sys2Proof.Machine.execStealRequest b s
  | .stealRetry b => Sys2Proof.Machine.execStealRetry b s
  | .stealRecordArrival b => Sys2Proof.Machine.execStealRecordArrival b s
  | .countPublish => Sys2Proof.Machine.execCountPublish s
  | .stealMature c => Sys2Proof.Machine.execStealMature c s
  | .queuePurge b q epoch => Sys2Proof.Machine.execQueuePurge b q epoch s
  | .queueCreate acc ctr => Sys2Proof.Machine.execQueueCreate acc ctr s
  | .sqTailWrite link q value => Sys2Proof.Machine.execSqTailWrite link q value s
  | .cqHeadWrite link q value => Sys2Proof.Machine.execCqHeadWrite link q value s
  | .inertDoorbellWrite link q => Sys2Proof.Machine.execInertDoorbellWrite link q s
  | .descriptorFetch => Sys2Proof.Machine.execDescriptorFetch s
  | .descriptorFetchReturn q => Sys2Proof.Machine.execDescriptorFetchReturn q s
  | .nop q j => Sys2Proof.Machine.execNop q j s
  | .copy b => Sys2Proof.Machine.execCopy b s
  | .fill b => Sys2Proof.Machine.execFill b s
  | .check b => Sys2Proof.Machine.execCheck b s
  | .flush b => Sys2Proof.Machine.execFlush b s
  | .prefetch b => Sys2Proof.Machine.execPrefetch b s
  | .atomic b => Sys2Proof.Machine.execAtomic b s
  | .reserve b => Sys2Proof.Machine.execReserve b s
  | .condstore b => Sys2Proof.Machine.execCondstore b s
  | .fence q j => Sys2Proof.Machine.execFence q j s
  | .fenceComplete q j => Sys2Proof.Machine.execFenceComplete q j s
  | .migrate b => Sys2Proof.Machine.execMigrate b s
  | .migrateReleaseLine sa => Sys2Proof.Machine.execMigrateReleaseLine sa s
  | .jobComplete q j => Sys2Proof.Machine.execJobComplete q j s
  | .jobTimeout q j => Sys2Proof.Machine.execJobTimeout q j s
  | .jobAbort acc q j => Sys2Proof.Machine.execJobAbort acc q j s
  | .queueReset acc q => Sys2Proof.Machine.execQueueReset acc q s
  | .queueResetComplete q => Sys2Proof.Machine.execQueueResetComplete q s
  | .queueRestart acc q => Sys2Proof.Machine.execQueueRestart acc q s
  | .queueDestroy acc q => Sys2Proof.Machine.execQueueDestroy acc q s
  | .queueLimitWrite acc q tlimit value => Sys2Proof.Machine.execQueueLimitWrite acc q tlimit value s
  | .engineParityFault e => Sys2Proof.Machine.execEngineParityFault e s
  | .engineReturnToService acc e => Sys2Proof.Machine.execEngineReturnToService acc e s
  | .scrubSchedule b => Sys2Proof.Machine.execScrubSchedule b s
  | .scrubEnableWrite acc value => Sys2Proof.Machine.execScrubEnableWrite acc value s
  | .scrubPeriodWrite acc value => Sys2Proof.Machine.execScrubPeriodWrite acc value s
  | .logAcknowledge acc seq => Sys2Proof.Machine.execLogAcknowledge acc seq s
  | .hbcFlipArm acc st value => Sys2Proof.Machine.execHbcFlipArm acc st value s
  | .hbcFlipDisarm acc st value => Sys2Proof.Machine.execHbcFlipDisarm acc st value s
  | .bflipArm acc b value => Sys2Proof.Machine.execBflipArm acc b value s
  | .bflipDisarm acc b value => Sys2Proof.Machine.execBflipDisarm acc b value s
  | .rowRemap acc st cw => Sys2Proof.Machine.execRowRemap acc st cw s
  | .rowRemapComplete st => Sys2Proof.Machine.execRowRemapComplete st s
  | .autoPersistCommit => Sys2Proof.Machine.execAutoPersistCommit s
  | .stackRetire acc st => Sys2Proof.Machine.execStackRetire acc st s
  | .stackRetireComplete st => Sys2Proof.Machine.execStackRetireComplete st s
  | .enterContainment acc value => Sys2Proof.Machine.execEnterContainment acc value s
  | .contain src => Sys2Proof.Machine.execContain src s
  | .answerDeadline => Sys2Proof.Machine.execAnswerDeadline s
  | .containmentWritebackComplete => Sys2Proof.Machine.execContainmentWritebackComplete s
  | .writebackLimitExpiry => Sys2Proof.Machine.execWritebackLimitExpiry s
  | .containmentHoldExpiry => Sys2Proof.Machine.execContainmentHoldExpiry s
  | .expanderLoss x => Sys2Proof.Machine.execExpanderLoss x s
  | .quadConfigWrite acc q value => Sys2Proof.Machine.execQuadConfigWrite acc q value s
  | .hostLinkParamWrite acc l value => Sys2Proof.Machine.execHostLinkParamWrite acc l value s
  | .hdmDecoderCommit l dec base size skip iw ig => Sys2Proof.Machine.execHdmDecoderCommit l dec base size skip iw ig s
  | .functionLevelReset l member => Sys2Proof.Machine.execFunctionLevelReset l member s
  | .perstDeassert l => Sys2Proof.Machine.execPerstDeassert l s
  | .perstAssert l => Sys2Proof.Machine.execPerstAssert l s
  | .linkTrainingComplete p r => Sys2Proof.Machine.execLinkTrainingComplete p r s
  | .memberLinkDown p => Sys2Proof.Machine.execMemberLinkDown p s
  | .correctableEvent p nak => Sys2Proof.Machine.execCorrectableEvent p nak s
  | .thresholdWindowTick => Sys2Proof.Machine.execThresholdWindowTick s
  | .graceWindowEnd p => Sys2Proof.Machine.execGraceWindowEnd p s
  | .uncorrectableLinkError p => Sys2Proof.Machine.execUncorrectableLinkError p s
  | .retrainComplete p r => Sys2Proof.Machine.execRetrainComplete p r s
  | .retrainTimeout p => Sys2Proof.Machine.execRetrainTimeout p s
  | .ideIntegrityFailure p => Sys2Proof.Machine.execIdeIntegrityFailure p s
  | .expanderDetectPoll x receiver => Sys2Proof.Machine.execExpanderDetectPoll x receiver s
  | .enumerationComplete x r => Sys2Proof.Machine.execEnumerationComplete x r s
  | .enumTimeout x => Sys2Proof.Machine.execEnumTimeout x s
  | .managedRemoval acc x => Sys2Proof.Machine.execManagedRemoval acc x s
  | .managedRemovalComplete x => Sys2Proof.Machine.execManagedRemovalComplete x s
  | .linkDownCommand acc role num => Sys2Proof.Machine.execLinkDownCommand acc role num s
  | .peerLinkDrained pl => Sys2Proof.Machine.execPeerLinkDrained pl s
  | .linkTrainCommand acc role num => Sys2Proof.Machine.execLinkTrainCommand acc role num s
  | .getEventRecords l member log => Sys2Proof.Machine.execGetEventRecords l member log s
  | .clearEventRecords l member log all handles => Sys2Proof.Machine.execClearEventRecords l member log all handles s
  | .getEventInterruptPolicy l member => Sys2Proof.Machine.execGetEventInterruptPolicy l member s
  | .setEventInterruptPolicy l member policy => Sys2Proof.Machine.execSetEventInterruptPolicy l member policy s
  | .getFwInfo l member => Sys2Proof.Machine.execGetFwInfo l member s
  | .getTimestamp l member => Sys2Proof.Machine.execGetTimestamp l member s
  | .setTimestamp l member value => Sys2Proof.Machine.execSetTimestamp l member value s
  | .getSupportedLogs l member => Sys2Proof.Machine.execGetSupportedLogs l member s
  | .getLog l member offset length => Sys2Proof.Machine.execGetLog l member offset length s
  | .identifyMemoryDevice l member => Sys2Proof.Machine.execIdentifyMemoryDevice l member s
  | .getHealthInfo l member => Sys2Proof.Machine.execGetHealthInfo l member s
  | .getPoisonList l member base len => Sys2Proof.Machine.execGetPoisonList l member base len s
  | .injectPoison l member sa => Sys2Proof.Machine.execInjectPoison l member sa s
  | .clearPoison l member sa data => Sys2Proof.Machine.execClearPoison l member sa data s
  | .henosMailboxCommand l member frame => Sys2Proof.Machine.execHenosMailboxCommand l member frame s
  | .unsupportedMailboxCommand l member opcode => Sys2Proof.Machine.execUnsupportedMailboxCommand l member opcode s
  | .setEndpointId l member op eid => Sys2Proof.Machine.execSetEndpointId l member op eid s
  | .getEndpointId l member => Sys2Proof.Machine.execGetEndpointId l member s
  | .getMctpVersionSupport l member type => Sys2Proof.Machine.execGetMctpVersionSupport l member type s
  | .getMessageTypeSupport l member => Sys2Proof.Machine.execGetMessageTypeSupport l member s
  | .getVendorDefinedMessageSupport l member => Sys2Proof.Machine.execGetVendorDefinedMessageSupport l member s
  | .entdaa addr => Sys2Proof.Machine.execEntdaa addr s
  | .setdasa static addr => Sys2Proof.Machine.execSetdasa static addr s
  | .i3cPrivateRead => Sys2Proof.Machine.execI3cPrivateRead s
  | .i3cTargetReset => Sys2Proof.Machine.execI3cTargetReset s
  | .i3cIdleTimeout => Sys2Proof.Machine.execI3cIdleTimeout s
  | .hello pl h => Sys2Proof.Machine.execHello pl h s
  | .helloRepeat pl => Sys2Proof.Machine.execHelloRepeat pl s
  | .lsa pl dev seq units => Sys2Proof.Machine.execLsa pl dev seq units s
  | .join dev digest socks time fw => Sys2Proof.Machine.execJoin dev digest socks time fw s
  | .windir dev entries => Sys2Proof.Machine.execWindir dev entries s
  | .commit src members attach time => Sys2Proof.Machine.execCommit src members attach time s
  | .ready dev => Sys2Proof.Machine.execReady dev s
  | .active src => Sys2Proof.Machine.execActive src s
  | .fail src cause => Sys2Proof.Machine.execFail src cause s
  | .formationTimeout => Sys2Proof.Machine.execFormationTimeout s
  | .readyTimeout => Sys2Proof.Machine.execReadyTimeout s
  | .syncInterval => Sys2Proof.Machine.execSyncInterval s
  | .syncreq pl src t1 hops => Sys2Proof.Machine.execSyncreq pl src t1 hops s
  | .syncrsp pl src t1 t2 t3 t4 hops => Sys2Proof.Machine.execSyncrsp pl src t1 t2 t3 t4 hops s
  | .peerReq pl m => Sys2Proof.Machine.execPeerReq pl m s
  | .peerSnp pl m => Sys2Proof.Machine.execPeerSnp pl m s
  | .peerRsp pl m => Sys2Proof.Machine.execPeerRsp pl m s
  | .peerData pl m => Sys2Proof.Machine.execPeerData pl m s
  | .poisonq src reply lines => Sys2Proof.Machine.execPoisonq src reply lines s
  | .peerLinkDown pl => Sys2Proof.Machine.execPeerLinkDown pl s
  | .recon src pl lastSeq => Sys2Proof.Machine.execRecon src pl lastSeq s
  | .reconciliationTimeout pl => Sys2Proof.Machine.execReconciliationTimeout pl s
  | .salvage src m => Sys2Proof.Machine.execSalvage src m s
  | .detourDelayExpiry dev => Sys2Proof.Machine.execDetourDelayExpiry dev s
  | .splitSettleExpiry => Sys2Proof.Machine.execSplitSettleExpiry s
  | .powerOnReset straps => Sys2Proof.Machine.execPowerOnReset straps s
  | .powerDown => Sys2Proof.Machine.execPowerDown s
  | .coldReset pin acc straps => Sys2Proof.Machine.execColdReset pin acc straps s
  | .warmReset acc => Sys2Proof.Machine.execWarmReset acc s
  | .managementReset acc => Sys2Proof.Machine.execManagementReset acc s
  | .watchdogExpiry => Sys2Proof.Machine.execWatchdogExpiry s
  | .railMonitor volts amps => Sys2Proof.Machine.execRailMonitor volts amps s
  | .sramSelfTestComplete pass => Sys2Proof.Machine.execSramSelfTestComplete pass s
  | .firmwareVerified => Sys2Proof.Machine.execFirmwareVerified s
  | .configComplete => Sys2Proof.Machine.execConfigComplete s
  | .stackTrainingComplete failed => Sys2Proof.Machine.execStackTrainingComplete failed s
  | .memoryTestComplete faults => Sys2Proof.Machine.execMemoryTestComplete faults s
  | .expanderWaitLimit => Sys2Proof.Machine.execExpanderWaitLimit s
  | .pllLockLoss island => Sys2Proof.Machine.execPllLockLoss island s
  | .refclkLoss => Sys2Proof.Machine.execRefclkLoss s
  | .timeSyncWord t => Sys2Proof.Machine.execTimeSyncWord t s
  | .sensorRead temps => Sys2Proof.Machine.execSensorRead temps s
  | .hardwareTrip => Sys2Proof.Machine.execHardwareTrip s
  | .clockChangeComplete c => Sys2Proof.Machine.execClockChangeComplete c s
  | .thermalLimitsWrite acc limits => Sys2Proof.Machine.execThermalLimitsWrite acc limits s
  | .clockCapWrite acc c mhz => Sys2Proof.Machine.execClockCapWrite acc c mhz s
  | .frameArrival source bytes => Sys2Proof.Machine.execFrameArrival source bytes s
  | .managementCycle => Sys2Proof.Machine.execManagementCycle s
  | .read acc f => Sys2Proof.Machine.execRead acc f s
  | .write acc f => Sys2Proof.Machine.execWrite acc f s
  | .readImage acc f => Sys2Proof.Machine.execReadImage acc f s
  | .writeImage acc f => Sys2Proof.Machine.execWriteImage acc f s
  | .henosCommit acc f => Sys2Proof.Machine.execHenosCommit acc f s
  | .commitComplete good => Sys2Proof.Machine.execCommitComplete good s
  | .unlock acc f => Sys2Proof.Machine.execUnlock acc f s
  | .unlockLapse acc => Sys2Proof.Machine.execUnlockLapse acc s
  | .openSession acc f => Sys2Proof.Machine.execOpenSession acc f s
  | .sread acc f => Sys2Proof.Machine.execSread acc f s
  | .swrite acc f => Sys2Proof.Machine.execSwrite acc f s
  | .closeSession acc f => Sys2Proof.Machine.execCloseSession acc f s
  | .sessionExpiry group item => Sys2Proof.Machine.execSessionExpiry group item s
  | .describe acc f => Sys2Proof.Machine.execDescribe acc f s
  | .next acc f => Sys2Proof.Machine.execNext acc f s
  | .subscribe acc f => Sys2Proof.Machine.execSubscribe acc f s
  | .unsubscribe acc f => Sys2Proof.Machine.execUnsubscribe acc f s
  | .firmwareInstall acc slot => Sys2Proof.Machine.execFirmwareInstall acc slot s
  | .firmwareInstallComplete good => Sys2Proof.Machine.execFirmwareInstallComplete good s
  | .consoleRateWrite acc rate => Sys2Proof.Machine.execConsoleRateWrite acc rate s
  | .consoleEnableWrite acc value => Sys2Proof.Machine.execConsoleEnableWrite acc value s
  | .consoleBreak ms => Sys2Proof.Machine.execConsoleBreak ms s
  | .consoleFrameTimeout => Sys2Proof.Machine.execConsoleFrameTimeout s
  | .configLockWrite acc value => Sys2Proof.Machine.execConfigLockWrite acc value s
  | .blowObservationFuse acc value => Sys2Proof.Machine.execBlowObservationFuse acc value s
  | .fuseBlowComplete => Sys2Proof.Machine.execFuseBlowComplete s
  | .lockkeyWrite link value => Sys2Proof.Machine.execLockkeyWrite link value s
  | .bar0UnlockLapse link => Sys2Proof.Machine.execBar0UnlockLapse link s
  | .registerWrite a value => Sys2Proof.Machine.execRegisterWrite a value s
  | .configParitySweep => Sys2Proof.Machine.execConfigParitySweep s
  | .voteSweep => Sys2Proof.Machine.execVoteSweep s
  | .eventRaise island => Sys2Proof.Machine.execEventRaise island s
  | .eventAcknowledge acc e => Sys2Proof.Machine.execEventAcknowledge acc e s
  | .routingEntryWrite acc e value => Sys2Proof.Machine.execRoutingEntryWrite acc e value s
  | .msixUnmask l member vector => Sys2Proof.Machine.execMsixUnmask l member vector s
  | .selectorWrite acc bench n value => Sys2Proof.Machine.execSelectorWrite acc bench n value s
  | .samplingCrossing bench n => Sys2Proof.Machine.execSamplingCrossing bench n s
  | .sampleTaken b id => Sys2Proof.Machine.execSampleTaken b id s
  | .sampleTimeout b => Sys2Proof.Machine.execSampleTimeout b s
  | .samplingControlWrite acc value => Sys2Proof.Machine.execSamplingControlWrite acc value s
  | .histogramClear acc value => Sys2Proof.Machine.execHistogramClear acc value s
  | .seamControlWrite acc value => Sys2Proof.Machine.execSeamControlWrite acc value s
  | .seamFilterWrite acc value => Sys2Proof.Machine.execSeamFilterWrite acc value s
  | .seamCapture o => Sys2Proof.Machine.execSeamCapture o s
  | .seamRingWrite => Sys2Proof.Machine.execSeamRingWrite s
  | .ringSettingsWrite acc value => Sys2Proof.Machine.execRingSettingsWrite acc value s
  | .exportSettingsWrite acc value => Sys2Proof.Machine.execExportSettingsWrite acc value s
  | .exportFrame => Sys2Proof.Machine.execExportFrame s
  | .registerRead a => Sys2Proof.Machine.execRegisterRead a s
  | .configurationRequest l member r => Sys2Proof.Machine.execConfigurationRequest l member r s
  | .ideKeyProgramming l member => Sys2Proof.Machine.execIdeKeyProgramming l member s
  | .revokeAnswer src entry => Sys2Proof.Machine.execRevokeAnswer src entry s
  | .receiverDisappears x => Sys2Proof.Machine.execReceiverDisappears x s
  | .expanderReturns x => Sys2Proof.Machine.execExpanderReturns x s
  | .consoleCharacter samples => Sys2Proof.Machine.execConsoleCharacter samples s
  | .refclkReturn => Sys2Proof.Machine.execRefclkReturn s
  | .aerReceived x sev status => Sys2Proof.Machine.execAerReceived x sev status s

end Sys2Proof.Machine
end

