-- ==== Sys2Proof/Safety.lean ====
section
/-!
DEFINITION. What a run may do that is safe, and the terms in which the statements speak of a command's answer.
-/

namespace Sys2Proof.Machine

/-- A step answers a next state. -/
def Answers (o : Host.Outcome State Fault Refusal) (t : State) : Prop := o = .next t

/-- The step from `s` neither faults nor is refused: a step is refused only for a command that is not well-formed. -/
def SafeStep (s : State) : Prop := ∃ t, Answers (step s) t

/-- A run of `n` steps from `s` completes. -/
def SafeRun (n : Nat) (s : State) : Prop := ∃ t, Answers (Sys2Proof.core.run n s) t

/-- `t` with the queue and the device time of `s`: a command takes no time (R3) and leaves the queue to the step. -/
def sameTime (s t : State) : State := { t with pending := s.pending, now := s.now }

/-- The state in which a write of `acc` meets the checks of R389: the operation is counted and the accessor's unlock taken. -/
def entered (s : State) (acc : Accessor) : State := (takeUnlock (opCount s) (normAcc acc)).1

/-- The unlock of `acc` that this write takes was armed (R393, R429). -/
def armedBy (s : State) (acc : Accessor) : Bool := (takeUnlock (opCount s) (normAcc acc)).2

/-- A write by `acc` of an object behind gate `g` reaches the engine and passes checks 3, 5 and 7 of R389. -/
def passes (s : State) (acc : Accessor) (g : Gate) : Bool :=
  served s (normAcc acc) g && (gateCheck (entered s acc) (normAcc acc) g (armedBy s acc)).isNone

/-- The gate of a register with WL fields (R430): a Henos write needs the Henos unlock for the whole object. -/
def wlGate (acc : Accessor) (g : Gate) : Gate := { g with guarded := (normAcc acc).transport != .bar0 }

/-- A write of such a register passes, with the unlock of its accessor armed. -/
def passesWl (s : State) (acc : Accessor) (g : Gate) : Bool := passes s acc (wlGate acc g) && armedBy s acc

/-- `t` after the accessor of a write has its status. -/
def replied (acc : Accessor) (e : DStatus) (aux : Nat) (t : State) : State := status t (normAcc acc) e (leBytes 4 aux)

/-- A disabled window may be enabled (R39, R55, R280): its span meets no other window's, here or on its expander link, is not
empty and lies inside the link's capacity; the link is up; a trap window is of class Ash; neither it nor a window whose span it
meets was disabled without a flush and moved since; and its span holds no orphan, or those it lost, on the expander it lost. -/
def EnableReady (s : State) (w : WinId) : Prop :=
  ((winOf s w).lastFlush = true ∨ (winOf s w).retained = none ∨ (winOf s w).retained = some (winOf s w).geo) ∧
  (orphansIn s (winOf s w).geo = [] ∨ ((winOf s w).lostGeo = some (winOf s w).geo ∧
    (xlinkOf s (winOf s w).geo.xl).serial = tget 0 s.rel.lostSerial (winOf s w).geo.xl.toNat)) ∧
  (∀ o ∈ otherWins s w, meetD (winOf s w).geo o.geo = false ∧ meetX (winOf s w).geo o.geo = false) ∧
  (winOf s w).geo.base ≤ (winOf s w).geo.limit ∧
  (winOf s w).geo.toffset.toNat + ((winOf s w).geo.limit.toNat - (winOf s w).geo.base.toNat) <
    (xlinkOf s (winOf s w).geo.xl).capacity.toNat ∧
  xlUp s (winOf s w).geo.xl = true ∧ ((winOf s w).trap = false ∨ (winOf s w).cls = .ash) ∧
  (∀ p ∈ s.region.win, p.1 = w.toNat ∨ p.2.state ≠ .disabled ∨ p.2.lastFlush = true ∨ ∀ h, p.2.retained = some h →
    meetD (winOf s w).geo h = false ∧ meetX (winOf s w).geo h = false)

/-- A host message enters the device: its member link is up, the link's IDE requirement is met, a committed decoder gives its
address, and the member has an ingress buffer for it (R27, R297, R309, R368). -/
def HostEnters (s : State) (m : HostMsg) (op : ReqOp) (sa : SA) : Prop :=
  alive s = true ∧ presented s = true ∧ memberUp s m.link m.member = true ∧ (memberPort s m.link m.member).isSome = true ∧
  ((hlinkOf s m.link).idereq = true → m.ide = true) ∧ saOfMsg s m = some sa ∧ ingressFull s m.link m.member op = false

/-- It reaches window `w` of this device, which allows the request (R30, R38, R42). -/
def HostReady (s : State) (m : HostMsg) (op : ReqOp) (sa : SA) (dla : DLA) (w : WinId) : Prop :=
  HostEnters s m op sa ∧ homeOf s sa = some (devId s, dla) ∧ windowAt s dla = some w ∧
  rightsOk (winOf s w) .hostSocket op = true

/-- Its home is another device (R30, R334). -/
def HostFar (s : State) (m : HostMsg) (op : ReqOp) (sa : SA) (d : DevId) (dla : DLA) : Prop :=
  HostEnters s m op sa ∧ homeOf s sa = some (d, dla) ∧ d ≠ devId s

/-- Poison that a host sends is logged where it arrives (R264, Table 9-7). -/
def poisonNoted (s : State) (m : HostMsg) (poison : Bool) : State :=
  if poison && memberUp s m.link m.member && presented s then
    notePoison s 1 ((memberPort s m.link m.member).getD 0) (refusedSa s m)
  else s

/-- What a request of a ready host message leaves: it is counted, it takes its class and token, and it joins its bench. -/
def hostJoined (s : State) (m : HostMsg) (op : ReqOp) (sa : SA) (dla : DLA) (w : WinId) (data : Line) (be : BitVec 64)
    (poison : Bool) : State :=
  let t := originClass (countDev s 0x105 (1 + m.link.toNat)) m.link op (devId s) dla
  joinHome t.1 m op sa dla w t.2.1 t.2.2 data be poison

/-- What a request of a host message whose home is another device leaves: it is counted, takes its class and token, and is sent
to its home (R139, R334). -/
def hostSent (s : State) (m : HostMsg) (op : ReqOp) (sa : SA) (d : DevId) (dla : DLA) (data : Line) (be : BitVec 64)
    (poison : Bool) : State :=
  let t := originClass (countDev s 0x105 (1 + m.link.toNat)) m.link op d dla
  sendReq t.1 d op (.host m.link m.member m.tag) .hostSocket (hlinkOf t.1 m.link).hsock t.2.1 (hlinkOf t.1 m.link).cls t.2.2 sa
    data be poison 0 0

/-- An access of a non-caching requester reaches window `w` of this device. -/
def NcReady (s : State) (rq : NcReq) (op : ReqOp) (dla : DLA) (w : WinId) : Prop :=
  alive s = true ∧ presented s = true ∧ homeOf s rq.sa = some (devId s, dla) ∧ windowAt s dla = some w ∧
  rightsOk (winOf s w) rq.rqk op = true

/-- What it leaves: its request joins the home bench. -/
def ncJoined (s : State) (rq : NcReq) (op : ReqOp) (dla : DLA) (w : WinId) (data : Line) (be : BitVec 64) (poison : Bool) :
    State :=
  run (arrive s (formReq s s.cache.nextReq op .mgmt rq.rqk 0 rq.sa dla w .ash none s.now data be poison rq.queue rq.epoch))

/-- An admission that has passed the origin's checks: entry `n` is pending, and its share is proposed to every other home (R142
steps 2 and 3). -/
def proposed (s : State) (w : Accessor) (c : Contract) (n : Nat) : State :=
  (homes s c).foldl (fun s d => shareSend s d 1 (BitVec.ofNat 12 n) (contractBody c (hlinkOf s c.link).cls))
    (setContract s (BitVec.ofNat 12 n) { ContractS.init with
      ctr := { c with state := 1 }, phase := .proposing, started := s.now, by_ := some (w, none) })

/-- A deletion has begun (R147 steps 1 to 3): the bucket is stopped, the entry releases its shares, every other home is told, and
a share of this device is dropped. -/
def released (s : State) (w : Accessor) (i : CIdx) : State :=
  let t := stopBucket s i
  let c := contractOf t i
  dropShare ((homes t c.ctr).foldl (fun s d => shareSend s d 6 i []) (setContract t i { c with
    phase := .releasing, started := t.now, by_ := some (w, none), confirmed := c.ctr.homemask &&& bit (devId t).toNat }))
    (devId t) i

/-- A bench whose issue slot goes to the step it runs: the slot is counted, and the run of Ash requests ends (R148, R174). -/
def slotTaken (s : State) (b : Bench) : State :=
  setBench s b { benchOf s b with slot := (benchOf s b).slot + 1, ashRun := 0 }

/-- The next issue slot of a bench that runs a step goes to haul work (R148, R174). -/
def haulSlot (s : State) (b : Bench) : Prop :=
  pickSlot (benchOf s b).slot (benchOf s b).ashRun
    ((earliest s ((readyAt s b).filter (fun r => r.cls != .ash))).bind (timeLeft s))
    ((readyAt s b).filter (fun r => r.cls == .ash)).head?.isSome (deviceRuns s b || (floorStep s b).isSome) true = .haul

/-- The issue slot of the JOB step `r` of job `x` that runs on a bench (R172, R174): what the opcode does, counted as one haul
operation; a step that can do nothing in this slot (its loads are out, or its engine is full) leaves all as it is. -/
def haulOne (s : State) (b : Bench) (x : Job) (r : Run) : State :=
  let t := jobOp (slotTaken s b) b x.d r
  if runOf t b = some r then slotTaken s b else countOp t b false

/-- A JOB step of opcode `op` runs on a bench whose clock runs and whose next slot goes to haul work. -/
def StepReady (s : State) (b : Bench) (op : Byte) (x : Job) (r : Run) : Prop :=
  alive s = true ∧ presented s = true ∧ benchHeld s b = false ∧ haulSlot s b ∧ runOf s b = some r ∧ r.step.kind = .job ∧
  jobOf s r.step.queue r.step.jobseq = some x ∧ x.d.opcode = op

/-- The commands that may lead to a whole-device reset (R357, R361, R362, R275). -/
def mayReset : Instr → Bool
  | .powerOnReset _ | .powerDown | .coldReset .. | .warmReset _ | .commitComplete _ | .containmentWritebackComplete
  | .writebackLimitExpiry | .containmentHoldExpiry | .write .. | .registerWrite .. => true
  | _ => false

/-- Nothing of what a whole-device reset clears is there: windows, tag records, snoop filter entries, requests, contracts,
queues, jobs, event counts, raises and counters (R67, R361, R451). -/
def Cleared (s : State) : Prop :=
  s.region.win = [] ∧ s.cache.tags = [] ∧ s.cache.resident = [] ∧ s.cache.reqs = [] ∧ s.snoop.entries = [] ∧
  s.contract.table = [] ∧ s.job.jobs = [] ∧ s.job.queues = [] ∧ s.evt.src = [] ∧ s.evt.raises = [] ∧ s.evt.ring = [] ∧
  s.obs.cnt = [] ∧ s.obs.seam.buf = [] ∧ s.hen.armed = [] ∧ s.hen.sessions = []

/-- A frame with its operation. -/
def opFrame (f : Frame) (op : Byte) : Frame := { f with op := op }

/-- The frame is at the front of the queue, or it waits nowhere (R391). -/
def itsTurn (s : State) (acc : Accessor) (f : Frame) (op : Byte) : Bool :=
  s.hen.queue.head? == some ⟨normAcc acc, opFrame f op⟩ ||
  !(s.hen.cycle ++ s.hen.queue).contains ⟨normAcc acc, opFrame f op⟩

/-- The state that the frame has left the queue in. -/
def unqueued (s : State) (acc : Accessor) (f : Frame) (op : Byte) : State :=
  if s.hen.queue.head? == some ⟨normAcc acc, opFrame f op⟩ then
    { s with hen := { s.hen with queue := s.hen.queue.drop 1 } } else s

/-- The state in which an operation is executed, and whether its unlock was armed: the frame has left the queue, the
operation is counted, and one that takes the accessor's unlock has taken it (R391, R393). -/
def frameState (s : State) (acc : Accessor) (f : Frame) (op : Byte) : State × Bool :=
  let s := opCount (unqueued s acc f op)
  if takesUnlock op then takeUnlock s (normAcc acc) else (s, false)

/-- The frame has its turn: its transport is served, and it is at the front of the queue or waits nowhere (R389, R391, R413). -/
def FrameTurn (s : State) (acc : Accessor) (f : Frame) (op : Byte) : Prop :=
  alive s = true ∧ reaches s (normAcc acc).transport = true ∧ itsTurn s acc f op = true

/-- It is executed: it is no repeat of a kept one and passes step 2 of R389 (R389, R392). -/
def FrameRuns (s : State) (acc : Accessor) (f : Frame) (op : Byte) : Prop :=
  FrameTurn s acc f op ∧ keptFor s (normAcc acc) (opFrame f op) = none ∧ badFrame s (opFrame f op) = false

/-- Its object exists and passes checks 3 to 7 of R389. -/
def ObjReady (s : State) (acc : Accessor) (f : Frame) (op : Byte) (o : Obj) : Prop :=
  FrameRuns s acc f op ∧ objAt (frameState s acc f op).1 f.group.toNat f.item.toNat = some o ∧
  checkObj (frameState s acc f op).1 (normAcc acc) (opFrame f op) o (needOf op) (frameState s acc f op).2 = none

/-- Its response with a status, AUX and a value. -/
def responded (acc : Accessor) (f : Frame) (op : Byte) (e : DStatus) (ty aux : Nat) (v : List Byte) (t : State) : State :=
  sendResp t (normAcc acc) (opFrame f op) e ty aux v

end Sys2Proof.Machine
end

