-- ==== Sys2Proof/Certificates/Slice0/Obligations.lean ====
section
/-!
DEFINITION. The statements about the model, for the provers.
-/

section Statements

open Sys2Proof Sys2Proof.Machine

/-- A step runs the command at the front of the queue, and an empty queue lets one nanosecond pass. Rules: 95 What each
step holds, 00 Conventions. For every command c, rest and state s, a step with c at the front of the queue is exec of
c with the rest as the queue; on an empty queue a device that has power counts one nanosecond of device time, nothing
else changes where no mailbox command waits and no counter counts an occupancy, and a device without power does not
change (the model's choice: log entry 7). -/
def Obligations.StepRunsTheFrontCommand : Prop :=
  (∀ (c : Instr) (rest : List Instr) (s : State),
    step { s with pending := c :: rest } = exec c { s with pending := rest }) ∧
  (∀ s : State, s.pending = [] → s.dev.powered = true → ∃ t, step s = .next t ∧ t.now = s.now + 1 ∧ t.pending = [] ∧
    (s.hen.mwait = [] → (∀ p ∈ s.obs.cnt, selMatches p.2.sel 0x010 0 = false) → t = { s with now := s.now + 1 })) ∧
  (∀ s : State, s.pending = [] → s.dev.powered = false → step s = .next s)

/-- Every well-formed command completes in every state and every other one is refused. Rules: R12, R13, Table 0-3, 95 What
each step holds. For every command and every state: if the command is well-formed, exec answers a next state (it
neither faults nor is refused); if it names no unit of the part, exec refuses it with noSuchUnit. A device that has no
power or has tripped (R357, R380) is changed by no well-formed command but a power-on reset and a power-down. -/
def Obligations.WellFormedCommandsCompleteOthersAreRefused : Prop :=
  ∀ (c : Instr) (s : State),
    (c.wellFormed = true → ∃ t, exec c s = .next t) ∧
    (c.wellFormed = false → exec c s = .refused .noSuchUnit) ∧
    (alive s = false → c.wellFormed = true → (∀ straps, c ≠ .powerOnReset straps) → c ≠ .powerDown → exec c s = .next s)

/-- No command touches the queue, and device time decreases only where a reset may happen. Rules: R3, R349, R361, R374,
R376. For every command but the resets and the commands that may lead to one (POWER_ON_RESET, POWER_DOWN, cold and
warm reset, the end of a commit, the three ends of containment's steps, a WRITE and a register write): if exec answers
a next state, its queue is the queue it was given and its device time is not less than before. Each of those others
leaves the queue too. -/
def Obligations.QueueAndTimeAfterEveryStep : Prop :=
  ∀ (c : Instr) (s t : State), exec c s = .next t →
    t.pending = s.pending ∧
    (mayReset c = false → s.now.toNat ≤ t.now.toNat)

/-- The state after reset, and after every whole-device reset, is empty where the spec says so. Rules: R67, R110, R361,
R451, R469, R480, Table 12-4. The reset state is alive in stage ROM with an empty queue; no window is enabled, no tag
record, snoop filter entry, request, contract or job exists, every event source is acknowledged with count 0, no
counter has counted. So it is for windows, tags, snoop filter, requests, contracts, jobs, event sources, raises and
counters after a power-on reset and after any whole-device reset of any state, in stage ROM. -/
def Obligations.ResetState : Prop :=
  (alive State.reset = true ∧ State.reset.dev.stage = .rom ∧ State.reset.pending = [] ∧ State.reset.now = 0 ∧
    Cleared State.reset) ∧
  (∀ (s : State) (straps : Straps), Cleared (doPowerOn s straps) ∧ (doPowerOn s straps).dev.stage = .rom) ∧
  (∀ (s : State) (k : ResetKind) (straps : Straps) (pin : Bool), Cleared (wholeReset s k straps pin) ∧
    (wholeReset s k straps pin).dev.stage = .rom)

/-- A power-on reset keeps flash and fuses; a warm or containment reset keeps also the log, the counts and device time.
Rules: R264, R357, R361, R362, R448, Table 13-3. After a power-on reset the firmware slots, the stored images, the
fatal records and the observation fuse are as before and device time is 0. After a warm or containment reset of a
device that is not in containment these, the error log with its numbers, the dirty shutdown count, the commit counts
and device time are as before; its reset is counted and is the last. After a cold reset the same but device time,
which is 0. A power-down keeps the slots, images, fatal records and the fuse. -/
def Obligations.WhatAWholeDeviceResetKeeps : Prop :=
  (∀ (s : State) (straps : Straps), ∃ t, t = doPowerOn s straps ∧ t.dev.slotA = s.dev.slotA ∧ t.dev.slotB = s.dev.slotB ∧
    t.dev.imgA = s.dev.imgA ∧ t.dev.imgB = s.dev.imgB ∧ t.rel.fatal = s.rel.fatal ∧ t.obs.seam.fuse = s.obs.seam.fuse ∧
    t.now = 0 ∧ t.rel.log = []) ∧
  (∀ (s : State) (k : ResetKind) (straps : Straps) (pin : Bool), s.dev.stage ≠ .containment → ∃ t,
    t = wholeReset s k straps pin ∧ t.dev.slotA = s.dev.slotA ∧ t.dev.slotB = s.dev.slotB ∧ t.dev.imgA = s.dev.imgA ∧
    t.dev.imgB = s.dev.imgB ∧ t.rel.fatal = s.rel.fatal ∧ t.obs.seam.fuse = s.obs.seam.fuse ∧ t.rel.log = s.rel.log ∧
    t.rel.logNext = s.rel.logNext ∧ t.rel.logAck = s.rel.logAck ∧ t.rel.logLost = s.rel.logLost ∧
    t.rel.dirtyShutdowns = s.rel.dirtyShutdowns ∧ t.hen.commitsOk = s.hen.commitsOk ∧ t.hen.commitsBad = s.hen.commitsBad ∧
    t.dev.lastReset = k ∧ t.dev.resets = tinc s.dev.resets (resetCode k) ∧
    (k ≠ .cold → t.now = s.now) ∧ (k = .cold → t.now = 0) ∧ t.dev.straps = straps) ∧
  (∀ s : State, ∃ t, t = doPowerDown s ∧ t.dev.slotA = s.dev.slotA ∧ t.dev.slotB = s.dev.slotB ∧ t.dev.imgA = s.dev.imgA ∧
    t.dev.imgB = s.dev.imgB ∧ t.rel.fatal = s.rel.fatal ∧ t.obs.seam.fuse = s.obs.seam.fuse)

/-- Writes that the checks of R389 refuse answer their status and change nothing of their object. Rules: R389, R393, R430,
R446, R448, R46, R96. While the configuration lock is 1, an in-band write of a quad record or of host link parameters
that reaches the engine completes with ACCESS; a guarded entry into containment, stack retirement, reset or fuse write
without an armed unlock, in a class that may write it, completes with LOCKED. In each case the state is the one the
write was entered in, with its status. A fuse write of another value completes with RANGE and does not start the blow.
A write of a maintenance parameter while maintenance is not idle leaves the parameters and records QUIESCE_REQUIRED. -/
def Obligations.RefusedWritesHaveNoEffect : Prop :=
  (∀ (s : State) (acc : Accessor), alive s = true → s.hen.lock = true → classOfAcc (normAcc acc) = .s →
    served s (normAcc acc) critGate = true →
    (∀ q v, exec (.quadConfigWrite acc q v) s = .next (sameTime s (status (entered s acc) (normAcc acc) .access []))) ∧
    (∀ l v, exec (.hostLinkParamWrite acc l v) s = .next (sameTime s (status (entered s acc) (normAcc acc) .access [])))) ∧
  (∀ (s : State) (acc : Accessor), alive s = true → (normAcc acc).transport ≠ .bar0 → engineUp s = true → recovery s = false →
    armedBy s acc = false →
    (classOfAcc (normAcc acc) ≠ .s → ∀ v, exec (.enterContainment acc v) s =
      .next (sameTime s (status (entered s acc) (normAcc acc) .locked []))) ∧
    (∀ st, exec (.stackRetire acc st) s = .next (sameTime s (status (entered s acc) (normAcc acc) .locked []))) ∧
    exec (.warmReset acc) s = .next { status (entered s acc) (normAcc acc) .locked [] with pending := s.pending } ∧
    (classOfAcc (normAcc acc) ≠ .s → ∀ v, exec (.blowObservationFuse acc v) s =
      .next (sameTime s (status (entered s acc) (normAcc acc) .locked [])))) ∧
  (∀ (s : State) (acc : Accessor) (v : BitVec 32), alive s = true → passes s acc fuseGate = true → v ≠ 0x4F425346 →
    exec (.blowObservationFuse acc v) s = .next (sameTime s (replied acc .range 0 (entered s acc)))) ∧
  (∀ (s : State) (acc : Accessor) (reg : BitVec 2) (v : BitVec 64), alive s = true → regOk reg = true →
    passes s acc (mGate (if reg = 0 then 0x08 else if reg = 1 then 0x10 else 0x18)) = true → s.cache.mOp.isSome = true →
    exec (.maintParamWrite acc reg v) s = .next (sameTime s (replied acc .quiesceRequired 0
      (mNote .quiesceRequired (entered s acc)))))

/-- The bench, local set and tag of a block are R59's, R60 gives the block back, and the line key is R106's. Rules: R59,
R60, R106. For every device-local address, with blk = dla >> 12, hi = blk >> 23, lo the low 23 bits of blk and s = lo
xor (hi << 13) xor (hi << 3): the tag is hi, the bench is the xor of the three bytes of s and the local set is s >> 8.
For every block the block of its bench, local set and tag is the block; for every bench, local set and tag the block
recomputed has that bench, local set and tag. The key is (ls << 16) | (hi << 6) | sector, the snoop filter set is
(fold << 11) | (key & 0x7FF) with fold the low three bits of (key >> 11) xor (key >> 14) xor (key >> 17), and the tag
is key >> 11. Nothing else enters, so every device computes the same. -/
def Obligations.SetHashAndLineKey : Prop :=
  (∀ (dla : DLA) (blk hi lo s : Nat), blk = dla.toNat / 2 ^ 12 → hi = blk / 2 ^ 23 → lo = blk % 2 ^ 23 →
    s = lo ^^^ (hi * 2 ^ 13) ^^^ (hi * 2 ^ 3) →
    (tagOfDla dla).toNat = hi ∧ (benchOfDla dla).toNat = (s % 256) ^^^ ((s / 256) % 256) ^^^ (s / 65536) ∧
    (lsOfDla dla).toNat = s / 256) ∧
  (∀ blk : BitVec 33, blkOf (benchOfBlk blk) (lsOfBlk blk) (tagOfBlk blk) = blk) ∧
  (∀ (b : Bench) (ls : BitVec 15) (hi : BitVec 10), benchOfBlk (blkOf b ls hi) = b ∧ lsOfBlk (blkOf b ls hi) = ls ∧
    tagOfBlk (blkOf b ls hi) = hi) ∧
  (∀ dla : DLA, (lineKey dla).toNat =
    (lsOfDla dla).toNat * 2 ^ 16 + (tagOfDla dla).toNat * 2 ^ 6 + dla.toNat / 2 ^ 6 % 64) ∧
  (∀ (key : BitVec 31) (fold : Nat),
    fold = ((key.toNat / 2 ^ 11) ^^^ (key.toNat / 2 ^ 14) ^^^ (key.toNat / 2 ^ 17)) % 8 →
    sfSet key = fold * 2 ^ 11 + key.toNat % 2 ^ 11 ∧ (sfTag key).toNat = key.toNat / 2 ^ 11)

/-- The home device and device-local address of a board system address are R30's. Rules: R30. With g the granule of the
address: if r is the first of the eight ranges that has ways and holds g, and i = g - base, the home is slot i mod
ways of its device list and the device-local address is ((lbase + i div ways) << 30) | the low 30 bits of the address,
in 45 bits. If no range with ways holds g the address is unmapped. Two devices with the same home map compute the
same. -/
def Obligations.HomeOfAnAddress : Prop :=
  (∀ (s : State) (sa : SA) (r g i : Nat) (h : HomeRange), r < 8 → g = sa.toNat / 2 ^ 30 → h = tget HomeRange.init s.region.hr r →
    h.ways ≠ 0 → h.base.toNat ≤ g → g ≤ h.limit.toNat → i = g - h.base.toNat →
    (∀ q < r, (tget HomeRange.init s.region.hr q).ways = 0 ∨ g < (tget HomeRange.init s.region.hr q).base.toNat ∨
      (tget HomeRange.init s.region.hr q).limit.toNat < g) →
    homeOf s sa = some (devSlot h.devlist (i % h.ways.toNat),
      BitVec.ofNat 45 ((h.lbase.toNat + i / h.ways.toNat) * 2 ^ 30 + sa.toNat % 2 ^ 30))) ∧
  (∀ (s : State) (sa : SA) (g : Nat), g = sa.toNat / 2 ^ 30 →
    (∀ q < 8, (tget HomeRange.init s.region.hr q).ways = 0 ∨ g < (tget HomeRange.init s.region.hr q).base.toNat ∨
      (tget HomeRange.init s.region.hr q).limit.toNat < g) → homeOf s sa = none) ∧
  (∀ (s t : State) (sa : SA), s.region.hr = t.region.hr → homeOf s sa = homeOf t sa)

/-- Under a valid home map the board system address of a device-local address inverts the home map. Rules: R31, R103, R30.
If the home map passes the conditions of R31, and this device is the home of a board system address at some
device-local address, then R103 gives that board system address back from the device-local address. So no two board
system addresses share a place at this device. -/
def Obligations.HomeMapIsInverted : Prop :=
  (∀ (s : State) (sa : SA) (dla : DLA), homeMapValid s = true → homeOf s sa = some (devId s, dla) → saOf s dla = sa) ∧
  (∀ (s : State) (a b : SA) (dla : DLA), homeMapValid s = true → homeOf s a = some (devId s, dla) →
    homeOf s b = some (devId s, dla) → a = b)

/-- A WRITE to an object that is RO for every class completes with ACCESS, and a READ of a write-only action returns 0.
Rules: R394. For every WRITE frame that has its turn, names an existing object at an element it has, and whose object
no class may write: the response is ACCESS, in the state in which the operation is executed. For every READ frame of
an object that is a write-only action, and that passes the checks before: the response is OK with a value of zeros of
the object's width. -/
def Obligations.ReadOnlyAndActionObjects : Prop :=
  (∀ (s : State) (acc : Accessor) (f : Frame) (o : Obj), FrameRuns s acc f 2 →
    objAt (frameState s acc f 2).1 f.group.toNat f.item.toNat = some o →
    (if o.len = 0 then f.index.toNat = 0 else f.index.toNat < o.len) → (∀ cl, mayAccess o.access cl true = false) →
    exec (.write acc f) s = .next { afterTurn s (responded acc f 2 .access o.type 0 []
      (noteOf o f.index.toNat .access (frameState s acc f 2).1)) with pending := s.pending }) ∧
  (∀ (s : State) (acc : Accessor) (f : Frame) (o : Obj), ObjReady s acc f 1 o → o.action = true → o.type ≠ 9 →
    exec (.read acc f) s = .next (sameTime s (afterTurn s (responded acc f 1 .ok o.type 0
      (List.replicate o.width 0) (afterRead (frameState s acc f 1).1 o)))))

/-- The mark trap: a mark request, the time limit of a pending segment, and a release take effect. Rules: R48, R49, 02
Windows. The oldest CTL transfer of its island arrives. MARK_REQUEST: a request whose segment is not dirty, in an
enabled window with TRAP = 1, makes the segment pending, notes the time and raises the window's event with segment and
address; a request whose segment is already dirty is released at its write's bench. MARK_TIMEOUT: a segment pending
for 10 ms is released and E-0x182 raised. MARK_RELEASE: a release that is on its way to the bench leaves the list, and
its held writes enter their lines' order at the end of it. Nothing else of the state changes. -/
def Obligations.MarkTrapCommandsComplete : Prop :=
  (∀ (s : State) (id : Nat) (m : MarkReq) (rest : List MarkReq), alive s = true →
    takeFirst (fun x => x.req == id) s.region.markReqs = some (m, rest) → markNext s m = true →
    (winOf s m.win).state = .enabled → (winOf s m.win).trap = true →
    (winOf s m.win).drt.getLsbD m.seg.toNat = false → (winOf s m.win).pnd.getLsbD m.seg.toNat = false →
    exec (.markRequest id) s = .next (raise (setWin { s with region := { s.region with markReqs := rest } } m.win
      { winOf s m.win with
        pnd := (winOf s m.win).pnd ||| bit m.seg.toNat
        pndAt := tput 0 (winOf s m.win).pndAt m.seg.toNat s.now })
      (0x100 + m.win.toNat) 164 [(2, m.seg.toNat), (8, m.sa.toNat)])) ∧
  (∀ (s : State) (id : Nat) (m : MarkReq) (rest : List MarkReq) (r : Req), alive s = true →
    takeFirst (fun x => x.req == id) s.region.markReqs = some (m, rest) → markNext s m = true → reqOf s id = some r →
    (winOf s m.win).drt.getLsbD m.seg.toNat = true →
    exec (.markRequest id) s = .next { s with region := { s.region with
      markReqs := rest, releases := s.region.releases ++ [⟨benchOfDla r.dla, m.win, m.seg, some id⟩] } }) ∧
  (∀ (s : State) (w : WinId) (seg : BitVec 6), alive s = true → (winOf s w).pnd.getLsbD seg.toNat = true →
    10000000 ≤ since s (tget 0 (winOf s w).pndAt seg.toNat) →
    exec (.markTimeout w seg) s =
      .next (sameTime s (raise (releaseSeg s w seg) 0x182 164 [(2, w.toNat), (2, seg.toNat)]))) ∧
  (∀ (s : State) (b : Bench) (w : WinId) (seg : BitVec 6) (x : Release) (rest : List Release), alive s = true →
    takeFirst (fun y => y.bench == b && y.win == w && y.seg == seg) s.region.releases = some (x, rest) →
    releaseNext s x = true →
    exec (.markRelease b w seg) s = .next (sameTime s (run (freeHeld { s with region := { s.region with releases := rest } }
      (heldWrite b w seg x.one)))))

/-- A release sets the dirty bit of a segment inside the span, clears its pending bit and leaves every other window.
Rules: R45, R49, 02 Windows. After island 164 releases a segment (in a state whose window table is in canonical form)
the segment's dirty bit is set exactly if it was set or the segment holds an address of the span, its pending bit is
clear, every other bit of both masks and every field of every other window is as before, and one release leaves for
each bench at which held writes of the segment wait. -/
def Obligations.ReleaseSegmentMarks : Prop :=
  ∀ (s : State) (w : WinId) (seg : BitVec 6), twf Win.init s.region.win = true →
    (winOf (releaseSeg s w seg) w).pnd.getLsbD seg.toNat = false ∧
    (winOf (releaseSeg s w seg) w).drt.getLsbD seg.toNat =
      ((winOf s w).drt.getLsbD seg.toNat || segIn (winOf s w) seg.toNat) ∧
    (∀ n, n < 64 → n ≠ seg.toNat →
      (winOf (releaseSeg s w seg) w).pnd.getLsbD n = (winOf s w).pnd.getLsbD n ∧
      (winOf (releaseSeg s w seg) w).drt.getLsbD n = (winOf s w).drt.getLsbD n) ∧
    (∀ x, x ≠ w → winOf (releaseSeg s w seg) x = winOf s x) ∧
    (releaseSeg s w seg).region.releases =
      s.region.releases ++ (heldBenches s w seg).map (fun b => ⟨b, w, seg, none⟩)

/-- Writes of WIN_MCMD, WIN_DRT and WIN_ACC take effect and are answered OK. Rules: R47, R49, R389, 02 Windows. A write
that passes the checks of the dictionary engine keeps what it wrote in WIN_MCMD and releases one segment (OP 0b01),
every pending segment (0b10), or sets every segment of the span dirty and releases the pending ones (0b11); clears the
dirty bits it names, or the accessed bits; records OK in the window's LASTERR, and answers OK to its accessor. A clear
that finds older accesses to the segments it names (for the dirty bits, older marking writes) that have not been
performed is kept among the clears that wait for them, and is not answered yet (the model's choice of when, log entry
21). -/
def Obligations.WindowCommandWritesComplete : Prop :=
  (∀ (s : State) (acc : Accessor) (w : WinId) (seg : BitVec 6), alive s = true → passes s acc (winGate w 0x18 false) = true →
    exec (.setDirtyReleaseSegment acc w seg) s = .next (sameTime s (replied acc .ok 0 (winNote w .ok
      (releaseSeg (modWin (entered s acc) w (fun v => { v with mcmd := 0x100 ||| seg.setWidth 32 })) w seg))))) ∧
  (∀ (s : State) (acc : Accessor) (w : WinId), alive s = true → passes s acc (winGate w 0x18 false) = true →
    exec (.setDirtyReleasePending acc w) s = .next (sameTime s (replied acc .ok 0 (winNote w .ok
      (releasePending (modWin (entered s acc) w (fun v => { v with mcmd := 0x200 })) w))))) ∧
  (∀ (s : State) (acc : Accessor) (w : WinId), alive s = true → passes s acc (winGate w 0x18 false) = true →
    
    exec (.setDirtyAllSegments acc w) s = .next (sameTime s (replied acc .ok 0 (winNote w .ok
      (releasePending (modWin (modWin (entered s acc) w (fun v => { v with mcmd := 0x300 })) w (fun v => { v with
        drt := if 30 ≤ v.segshift.toNat then v.drt ||| (BitVec.allOnes 64 >>> (64 - segCount v)) else v.drt })) w))))) ∧
  (∀ (s : State) (acc : Accessor) (w : WinId) (mask : BitVec 64) (t : State), alive s = true →
    passes s acc (winGate w 0x28 false) = true →
    t = setWin (entered s acc) w { winOf s w with drt := (winOf s w).drt &&& ~~~mask } →
    exec (.winDrtClear acc w mask) s = .next (sameTime s (if olderMarks t w mask true = [] then
      replied acc .ok 0 (winNote w .ok t)
      else { t with hen := { t.hen with clears := t.hen.clears ++ [⟨w, true, olderMarks t w mask true, (normAcc acc, none)⟩] } }))) ∧
  (∀ (s : State) (acc : Accessor) (w : WinId) (mask : BitVec 64) (t : State), alive s = true →
    passes s acc (winGate w 0x20 false) = true →
    t = setWin (entered s acc) w { winOf s w with acc := (winOf s w).acc &&& ~~~mask } →
    exec (.winAccClear acc w mask) s = .next (sameTime s (if olderMarks t w mask false = [] then
      replied acc .ok 0 (winNote w .ok t)
      else { t with hen := { t.hen with clears := t.hen.clears ++ [⟨w, false, olderMarks t w mask false, (normAcc acc, none)⟩] } })))

/-- Enable, disable, drain, geometry and attribute writes of a window take effect in every state of the window. Rules:
R39, R52, R53, R54, R55, R280, 02 Windows. Each write passes the engine's checks and is answered OK. ENABLE = 1 from
LOCAL_READY on: a disabled window that meets R39, R55 and R280 is enabled; an enabled or target-lost one keeps FLUSH.
ENABLE = 0: an enabled or target-lost window drains, its pending segments released; any other only takes ENABLE = 0
and FLUSH (the model's choice before LOCAL_READY, log entry 107). WINDOW_DRAIN_COMPLETE of a draining window that no
request and no job step matches, with nothing of the span left when it flushes, disables it and raises its event. A
disabled window takes any geometry and any attributes; one that is not disabled takes a write that leaves its geometry
as it is, attributes with the POLICY it has and no TRAP on a contracted class, and answers QUIESCE_REQUIRED to another
geometry or POLICY, and RANGE to TRAP = 1 with a contracted class. A write that takes TRAP away releases the pending
segments, and a class of lower rank queues a pass. -/
def Obligations.WindowEnableAndDrainComplete : Prop :=
  (∀ (s : State) (acc : Accessor) (w : WinId) (flush : Bool), alive s = true → passes s acc (winGate w 0 true) = true →
    reachedReady s = true →
    ((winOf s w).state = .disabled → EnableReady (entered s acc) w →
      exec (.winEnable acc w flush) s = .next (sameTime s (replied acc .ok 0 (winNote w .ok
        (modWin (enableWin (entered s acc) w) w (fun v => { v with flush := flush })))))) ∧
    ((winOf s w).state = .enabled ∨ (winOf s w).state = .targetLost →
      exec (.winEnable acc w flush) s = .next (sameTime s (replied acc .ok 0 (winNote w .ok
        (modWin (entered s acc) w (fun v => { v with flush := flush }))))))) ∧
  (∀ (s : State) (acc : Accessor) (w : WinId) (flush : Bool), alive s = true → passes s acc (winGate w 0 true) = true →
    ((winOf s w).state = .enabled ∨ (winOf s w).state = .targetLost →
      exec (.winDisable acc w flush) s = .next (sameTime s (replied acc .ok 0 (winNote w .ok
        (pushWindir (modWin (releasePending (entered s acc) w) w (fun v => { v with
          enable := false, flush := flush, state := .draining
          flushNext := if flush then some (v.geo.base.toNat * 2 ^ 18) else none })) w))))) ∧
    ((winOf s w).state = .disabled ∨ (winOf s w).state = .draining →
      exec (.winDisable acc w flush) s = .next (sameTime s (replied acc .ok 0 (winNote w .ok
        (modWin (entered s acc) w (fun v => { v with enable := false, flush := flush }))))))) ∧
  (∀ (s : State) (w : WinId), alive s = true → (winOf s w).state = .draining → winBusy s w = false →
    ((winOf s w).flushNext = none ∨ flushLeft s (winOf s w).geo = false) →
    exec (.windowDrainComplete w) s = .next (raise (setWin s w { winOf s w with
      state := .disabled, segshift := 0, lastFlush := (winOf s w).flushNext.isSome, flushNext := none })
      (0x140 + w.toNat) 164 [])) ∧
  (∀ (s : State) (acc : Accessor) (w : WinId) (reg : BitVec 2) (value : BitVec 32), alive s = true → reg.toNat ≤ 2 →
    passes s acc (winGate w (4 + 4 * reg.toNat) true) = true →
    ((winOf s w).state = .disabled ∨ geoWith (winOf s w).geo reg.toNat value = (winOf s w).geo →
      exec (.winGeometryWrite acc w reg value) s = .next (sameTime s (replied acc .ok 0 (winNote w .ok (setWin (entered s acc) w
        { winOf s w with geo := geoWith (winOf s w).geo reg.toNat value }))))) ∧
    ((winOf s w).state ≠ .disabled → geoWith (winOf s w).geo reg.toNat value ≠ (winOf s w).geo →
      exec (.winGeometryWrite acc w reg value) s =
        .next (sameTime s (replied acc .quiesceRequired 0 (winNote w .quiesceRequired (entered s acc)))))) ∧
  (∀ (s : State) (acc : Accessor) (w : WinId) (value : BitVec 32) (t u : State), alive s = true →
    passes s acc (winGate w 16 true) = true →
    t = setWin (entered s acc) w { winOf s w with
      geo := { (winOf s w).geo with policy := value.setWidth 2 }, r := value.getLsbD 10, w := value.getLsbD 11
      x := value.getLsbD 12, u := value.getLsbD 13, s := value.getLsbD 14, trap := value.getLsbD 15
      cls := classOf ((value >>> 8).setWidth 2), insert := (value >>> 6).setWidth 2, span := (value >>> 4).setWidth 2 } →
    u = (if (winOf s w).trap = true ∧ value.getLsbD 15 = false then releasePending t w else t) →
    ((winOf s w).state = .disabled ∨ (value.setWidth 2 = (winOf s w).geo.policy ∧
        (value.getLsbD 15 = false ∨ classOf ((value >>> 8).setWidth 2) = .ash)) →
      exec (.winAttrWrite acc w value) s = .next (sameTime s (replied acc .ok 0 (winNote w .ok
        (if classOf ((value >>> 8).setWidth 2) = (winOf s w).cls then u
         else pushWindir (if classCode (classOf ((value >>> 8).setWidth 2)) < classCode (winOf s w).cls
           then capChange u (.window w) else u) w))))) ∧
    ((winOf s w).state ≠ .disabled → value.setWidth 2 ≠ (winOf s w).geo.policy →
      exec (.winAttrWrite acc w value) s =
        .next (sameTime s (replied acc .quiesceRequired 0 (winNote w .quiesceRequired (entered s acc))))) ∧
    ((winOf s w).state ≠ .disabled → value.setWidth 2 = (winOf s w).geo.policy → value.getLsbD 15 = true →
      classOf ((value >>> 8).setWidth 2) ≠ .ash →
      exec (.winAttrWrite acc w value) s = .next (sameTime s (replied acc .range 0 (winNote w .range (entered s acc))))))

/-- A set head and a sector that return from HBM reach the requests that wait for them. Rules: R64, R65, R66, R255, R272,
Table 9-3, 03 The bench array. SET_HEAD_RETURN of a locked set unlocks the set; unless its head brought the device
into containment, every waiter of the set sees the outcome. SECTOR_READ_RETURN of a request that waits for a sector of
its line: with the sector in the data array the request goes on with what the read gave (the data, poison, or a fetch
from far memory); with its block or its sector gone meanwhile it goes back to its line's order. -/
def Obligations.HbmReadsReturnToTheirRequests : Prop :=
  (∀ (s t : State) (b : Bench) (ls : BitVec 15) (ok : Bool), alive s = true → s.cache.setReads.contains (setKey b ls) = true →
    metaRead (unlockSet s b ls) b ls 0 = (t, ok) →
    exec (.setHeadReturn b ls) s = .next (sameTime s (if ok then run (lockGone t b ls) else t))) ∧
  (∀ (s : State) (id : Nat) (r : Req), alive s = true → reqOf s id = some r → r.phase = .sector →
    (∀ w, wayOfDla s r.dla = some w →
      (tagAt s (tagKey (benchOfDla r.dla) (lsOfDla r.dla) w)).valid.getLsbD (secOfDla r.dla) = true →
      exec (.sectorReadReturn id) s = .next (sameTime s (run
        (afterSector (sectorRead s r.dla w (whoDetail r)).1 r w (sectorRead s r.dla w (whoDetail r)).2)))) ∧
    ((∀ w, wayOfDla s r.dla = some w →
        (tagAt s (tagKey (benchOfDla r.dla) (lsOfDla r.dla) w)).valid.getLsbD (secOfDla r.dla) = false) →
      exec (.sectorReadReturn id) s = .next (sameTime s (run (toPhase s id .line)))))

/-- Responses, acceptances and timeouts of expander requests take effect. Rules: R71, R79, R82, R154, R156, R314, R316, 03
The bench array, 10 Ports. A read response leaves the request list, is counted and measured, blames the link where it
came late, and is taken by the fill, drain or probe that asked, its poison logged first; an acceptance of a write
likewise frees the eviction, drain or probe. A completion timeout of a request as old as the limit is counted at its
link; a write is issued again, and a read is answered as lost; then, with as many timeouts in this second as the loss
limit, the link is taken down, and otherwise the benches go on. -/
def Obligations.ExpanderAnswersReachTheirBench : Prop :=
  (∀ (s : State) (x : XLink) (rid : Nat) (r : XReq) (data : Line) (load : BitVec 2), alive s = true → xreqOf s x rid = some r →
    r.write = false →
    exec (.expanderReadResponse x ⟨rid, load⟩ data false) s = .next (sameTime s (run
      (xRead (blameFor (xAnswered s x r load).1 r.purpose (xAnswered s x r load).2) x r data false (xAnswered s x r load).2
        (since s r.issued)))) ∧
    exec (.expanderReadResponse x ⟨rid, load⟩ data true) s = .next (sameTime s (run
      (xRead (blameFor (notePoison (xAnswered s x r load).1 0 (xPort (xAnswered s x r load).1 x) r.sa) r.purpose (xAnswered s x r load).2)
        x r 0 true (xAnswered s x r load).2 (since s r.issued))))) ∧
  (∀ (s : State) (x : XLink) (rid : Nat) (r : XReq) (load : BitVec 2), alive s = true → xreqOf s x rid = some r → r.write = true →
    exec (.expanderWriteAccept x ⟨rid, load⟩) s = .next (sameTime s (run
      (xAccept (blameFor (xAnswered s x r load).1 r.purpose (xAnswered s x r load).2) x r (since s r.issued))))) ∧
  (∀ (s t : State) (x : XLink) (rid : Nat) (r : XReq), alive s = true → xreqOf s x rid = some r →
    s.port.xTimeout.toNat * 1000 ≤ since s r.issued →
    t = (if r.write then xWriteAgain (xTimedOut s x r).1 x r else xReadLost (xTimedOut s x r).1 x r (since s r.issued)) →
    ((xTimedOut s x r).2 < s.port.xLoss.toNat →
      exec (.expanderCompletionTimeout x rid) s = .next (sameTime s (run t))) ∧
    (s.port.xLoss.toNat ≤ (xTimedOut s x r).2 →
      exec (.expanderCompletionTimeout x rid) s = .next (sameTime s (expanderDown t x (xPort t x) 6 0x12))))

/-- A write-buffer entry drains and is freed, a tracker is released, a sweep starts. Rules: R80, R82, R83, R86, R89, R177,
Table 6-1, 03 The bench array. An entry that has waited 250 ns starts to drain; an entry whose writes have been
accepted is freed and its waiters are tried again; the tracker of an answered request whose response has left is freed
and what waits goes on; a bench with more dirty blocks than the threshold, that is not sweeping and has room, gets a
SWEEP step of 64 sets from where it last stopped, its estimate 64 and the dirty sectors of their rank-3 blocks, at
most 1,088. -/
def Obligations.WriteBufferAndTrackersComplete : Prop :=
  (∀ (s : State) (b : Bench) (slot : BitVec 6) (e : WEntry), alive s = true → slot.toNat ≤ 47 →
    (wEntries s b).find? (fun e => e.slot == slot && e.drain == .fresh) = some e → 250 ≤ since s e.alloc →
    exec (.wbufDrainTimeout b slot) s = .next (sameTime s (run (startDrain s b slot)))) ∧
  (∀ (s : State) (b : Bench) (slot : BitVec 6) (e : WEntry), alive s = true → slot.toNat ≤ 47 →
    (wEntries s b).find? (fun e => e.slot == slot && e.drain == .done) = some e →
    exec (.wbufDrainComplete b slot) s = .next (sameTime s (run (wake
      (setW s b ((wEntries s b).filter (fun e => !(e.slot == slot && e.drain == .done))))
      (fun r => r.phase == .wbuf && atBench b r))))) ∧
  (∀ (s : State) (id : Nat) (r : Req), alive s = true → reqOf s id = some r → r.phase = .egress → responseGone s r = true →
    exec (.trackerRelease id) s = .next (sameTime s (run (dropReq { s with port := { s.port with
      resp := s.port.resp.filter (fun v => !(v.req == some id)) } } id)))) ∧
  (∀ (s : State) (b : Bench), alive s = true → presented s = true → s.cache.sweepOn = true →
    (benchOf s b).sweeping = false → s.cache.sweepThreshold.toNat < dirtyBlocks s b → (benchOf s b).pending.length < 8 →
    exec (.sweepStart b) s = .next (setBench s b { benchOf s b with
      sweeping := true
      pending := (benchOf s b).pending ++ [deviceStep .sweep b (benchOf s b).sweepPos.toNat 64
        (min 1088 (64 + sweepSectors s b (benchOf s b).sweepPos.toNat))] }))

/-- The maintenance block starts its six operations and takes its parameters, or says why not. Rules: R90, R92, R93, R95,
R96, R389, R430, 03 The bench array. With no operation running, CLEAN, CLEAN AND INVALIDATE and INVALIDATE (the last
under the unlock) start the range operation over the block numbers of MBASE to MLIM, and answer RANGE with the limit
below the base; the three set-and-way operations start on a way that is no orphan, a disable of a way not retired yet
only with fewer than 16,384 retired ways (FULL else, log entry 108), and answer RANGE for an orphan; and MBASE, MLIM
and MSW take their values, addresses at multiples of 4,096. While an operation runs each start is refused with FULL
and a parameter write with QUIESCE_REQUIRED. -/
def Obligations.MaintenanceOperationsStart : Prop :=
  (∀ (s : State) (acc : Accessor), alive s = true → passes s acc (mGate 0) = true →
    (s.cache.mOp = none → s.cache.mbase.toNat ≤ s.cache.mlim.toNat →
      exec (.maintClean acc) s = .next (sameTime s (replied acc .ok 0 (mNote .ok (beginRange (entered s acc) .clean)))) ∧
      exec (.maintCleanInvalidate acc) s =
        .next (sameTime s (replied acc .ok 0 (mNote .ok (beginRange (entered s acc) .cleanInvalidate))))) ∧
    (s.cache.mOp = none → s.cache.mlim.toNat < s.cache.mbase.toNat →
      exec (.maintClean acc) s = .next (sameTime s (replied acc .range 0 (mNote .range (entered s acc)))) ∧
      exec (.maintCleanInvalidate acc) s = .next (sameTime s (replied acc .range 0 (mNote .range (entered s acc))))) ∧
    (s.cache.mOp.isSome = true →
      exec (.maintClean acc) s = .next (sameTime s (replied acc .full 0 (mNote .full (mBusy (entered s acc)).1))) ∧
      exec (.maintCleanInvalidate acc) s = .next (sameTime s (replied acc .full 0 (mNote .full (mBusy (entered s acc)).1))))) ∧
  (∀ (s : State) (acc : Accessor), alive s = true → passesWl s acc (mGate 4) = true →
    (s.cache.mOp = none → s.cache.mbase.toNat ≤ s.cache.mlim.toNat →
      exec (.maintInvalidate acc) s =
        .next (sameTime s (replied acc .ok 0 (mNote .ok (beginRange (entered s acc) .invalidate))))) ∧
    (s.cache.mOp = none → (tagAt s (mswKey s)).state ≠ .orphan →
      exec (.cleanInvalidateWay acc) s = .next (sameTime s (replied acc .ok 0 (mNote .ok
        { entered s acc with cache := { s.cache with mOp := some (.setWay .cleanInvalidate .ok) } }))) ∧
      exec (.enableWay acc) s = .next (sameTime s (replied acc .ok 0 (mNote .ok
        { entered s acc with cache := { s.cache with mOp := some (.setWay .enable .ok) } }))) ∧
      ((tagAt s (mswKey s)).state = .retired ∨ s.cache.retiredList.length < 16384 →
        exec (.disableWay acc) s = .next (sameTime s (replied acc .ok 0 (mNote .ok
          { entered s acc with cache := { s.cache with mOp := some (.setWay .disable .ok) } })))) ∧
      ((tagAt s (mswKey s)).state ≠ .retired → 16384 ≤ s.cache.retiredList.length →
        exec (.disableWay acc) s = .next (sameTime s (replied acc .full 0 (mNote .full (entered s acc)))))) ∧
    (s.cache.mOp = none → (tagAt s (mswKey s)).state = .orphan → ∀ i,
      i = Instr.cleanInvalidateWay acc ∨ i = .disableWay acc ∨ i = .enableWay acc →
      exec i s = .next (sameTime s (replied acc .range 0 (mNote .range (entered s acc))))) ∧
    (s.cache.mOp.isSome = true → ∀ i,
      i = Instr.maintInvalidate acc ∨ i = .cleanInvalidateWay acc ∨ i = .disableWay acc ∨ i = .enableWay acc →
      exec i s = .next (sameTime s (replied acc .full 0 (mNote .full (mBusy (entered s acc)).1))))) ∧
  (∀ (s : State) (acc : Accessor) (reg : BitVec 2) (value : BitVec 64), alive s = true → reg.toNat ≤ 2 →
    passes s acc (mGate (if reg = 0 then 0x08 else if reg = 1 then 0x10 else 0x18)) = true →
    (s.cache.mOp = none →
      exec (.maintParamWrite acc reg value) s = .next (sameTime s (replied acc .ok 0 (mNote .ok
        { entered s acc with cache :=
          (if reg = 0 then { s.cache with mbase := (value.setWidth 45 >>> 12) <<< 12 }
           else if reg = 1 then { s.cache with mlim := (value.setWidth 45 >>> 12) <<< 12 }
           else { s.cache with msw := value.setWidth 27 }) })))) ∧
    (s.cache.mOp.isSome = true →
      exec (.maintParamWrite acc reg value) s =
        .next (sameTime s (replied acc .quiesceRequired 0 (mNote .quiesceRequired (entered s acc))))))

/-- Range and set-and-way operations, a cache clean and an invalidate-all complete, and CACHE_CTL takes effect. Rules:
R64, R66, R92, R93, R97, R99, Table 3-10, 03 The bench array. With no step of it out and no block of its span left, a
range operation ends, counts its whole span and raises E-0x1C0; one that containment stopped ends with what it has
counted. A set-and-way operation whose set is not locked, its set and record read, ends with OK: an enable of a
retired way makes it invalid and takes it off the list, of another way does nothing; a disable retires an invalid or a
clean valid way and lists it; a clean-invalidate drops a clean valid way. A cleaned cache enters bypass; a cache whose
blocks are all invalid and whose tag cache has been dropped without containment is enabled with no stale data. Under
the unlock, CACHE_CTL starts the clean of an enabled cache; enables a cleaning cache, and one in bypass, which is
stale and raises E-0x1C3 if writes bypassed it; starts invalidate-all in bypass. -/
def Obligations.MaintenanceOperationsEnd : Prop :=
  (∀ (s : State) (k : RangeKind) (next last : Nat), alive s = true → presented s = true →
    s.cache.mOp = some (.range k next last) → stepOut s .range (maintPurpose k) = false →
    nextBlk s (maintPurpose k) next last = none →
    exec .rangeOperationComplete s = .next (raise { s with cache := { s.cache with
        mOp := none, mDone := true, mProg := s.cache.mProg + BitVec.ofNat 64 (last + 1 - next) } } 0x1C0 164
      [(1, maintPurpose k + 1), (8, (s.cache.mProg + BitVec.ofNat 64 (last + 1 - next)).toNat),
       (1, statusCode s.cache.mLasterr), (1, 0)])) ∧
  (∀ (s : State) (k : RangeKind) (next last : Nat), alive s = true → presented s = false →
    s.cache.mOp = some (.range k next last) → stepOut s .range (maintPurpose k) = false → next ≤ last →
    exec .rangeOperationComplete s = .next (raise { s with cache := { s.cache with mOp := none, mDone := true } } 0x1C0 164
      [(1, maintPurpose k + 1), (8, s.cache.mProg.toNat), (1, statusCode s.cache.mLasterr), (1, 1)])) ∧
  (∀ (s t u : State) (k : SwKind) (e : DStatus) (v : TagRec), alive s = true → s.cache.mOp = some (.setWay k e) →
    setLocked s (mswBench s) (mswSet s) = false → setRead s (mswBench s) (mswSet s) = (t, true) →
    recRead t (mswBench s) (mswSet s) (s.cache.msw.toNat % 16) = (u, true) → v = tagAt u (mswKey u) →
    (k = .enable → v.state ≠ .retired → exec .setAndWayComplete s = .next (sameTime s (setWayEnd u .enable .ok))) ∧
    (k = .enable → v.state = .retired → exec .setAndWayComplete s = .next (sameTime s (setWayEnd
      (persistChange { tagPut u (mswKey u) TagRec.init with cache := { (tagPut u (mswKey u) TagRec.init).cache with
        retiredList := (tagPut u (mswKey u) TagRec.init).cache.retiredList.filter
          (· != (tagPut u (mswKey u) TagRec.init).cache.msw) } }) .enable .ok))) ∧
    (k ≠ .enable → v.state = .retired → exec .setAndWayComplete s = .next (sameTime s (setWayEnd u k .ok))) ∧
    (k ≠ .enable → v.state = .orphan → exec .setAndWayComplete s = .next (sameTime s (setWayEnd u k .range))) ∧
    (k = .disable → v.state = .invalid ∨ (v.state = .valid ∧ v.dirty = 0 ∧ unwritable u (mswKey u) = false) →
      exec .setAndWayComplete s = .next (sameTime s (setWayEnd (capChange (persistChange
        { dropBlock u (mswKey u) .retired with cache := { (dropBlock u (mswKey u) .retired).cache with
          retiredList := (dropBlock u (mswKey u) .retired).cache.retiredList ++
            [(dropBlock u (mswKey u) .retired).cache.msw] } }) .benches) .disable .ok))) ∧
    (k = .cleanInvalidate → v.state = .invalid → exec .setAndWayComplete s = .next (sameTime s (setWayEnd u k .ok))) ∧
    (k = .cleanInvalidate → v.state = .valid → v.dirty = 0 → unwritable u (mswKey u) = false →
      exec .setAndWayComplete s = .next (sameTime s (setWayEnd (dropBlock u (mswKey u) .invalid) k .ok)))) ∧
  (∀ (s : State), alive s = true → s.cache.cstate = .cleaning → stepOut s .range pCacheClean = false →
    nextBlk s pCacheClean s.cache.passNext (2 ^ 33 - 1) = none →
    exec .cacheCleanComplete s = .next (sameTime s (run (setCache s .bypass)))) ∧
  (∀ (s t : State), alive s = true → s.cache.cstate = .invalidating → stepOut s .range pInvalidateAll = false →
    nextBlk s pInvalidateAll 0 (2 ^ 33 - 1) = none → t = dropRecords s s.cache.resident → stood s t = true →
    exec .invalidateAllComplete s = .next (sameTime s (run (setCache
      { t with cache := { t.cache with bypw := 0, stale := false } } .enabled)))) ∧
  (∀ (s : State) (acc : Accessor), alive s = true → passesWl s acc (cacheGate 0) = true →
    (s.cache.cstate = .enabled →
      exec (.cacheDisable acc) s = .next (sameTime s (replied acc .ok 0 (cNote .ok (feed (capChange (setCache
        { entered s acc with cache := { s.cache with enable := false, passNext := 0 } } .cleaning) .benches)))))) ∧
    (s.cache.cstate = .cleaning → ∀ i, i = Instr.cacheEnable acc ∨ i = .invalidateAll acc →
      exec i s = .next (sameTime s (replied acc .ok 0 (cNote .ok (setCache
        { entered s acc with cache := { s.cache with enable := true } } .enabled))))) ∧
    (s.cache.cstate = .bypass →
      (s.cache.bypw = 0 →
        exec (.cacheEnable acc) s = .next (sameTime s (replied acc .ok 0 (cNote .ok (setCache
          { entered s acc with cache := { s.cache with enable := true } } .enabled))))) ∧
      (∀ t, t = setCache { entered s acc with cache := { s.cache with enable := true } } .enabled → s.cache.bypw ≠ 0 →
        exec (.cacheEnable acc) s = .next (sameTime s (replied acc .ok 0 (cNote .ok
          (raise { t with cache := { t.cache with stale := true } } 0x1C3 164 [(8, s.cache.bypw.toNat)]))))) ∧
      exec (.invalidateAll acc) s = .next (sameTime s (replied acc .ok 0 (cNote .ok (feed (setCache
        { entered s acc with cache := { s.cache with enable := true } } .invalidating)))))))

/-- Every host request that enters joins its home bench, or is sent to its home device. Rules: R27, R30, R38, R42, R110,
R126, R264, R309, R334, 04 Coherence. In MEMORY_ACTIVE, on a member link that is up, with the link's IDE requirement
met and an ingress buffer free, a message whose address a committed decoder and the home map give to a window of this
device that allows it is counted as a request of its link, takes its class and its token, and joins its home bench,
where everything that can follow follows; one whose home is another device is counted, takes its class and token and
is sent there. So it is for MemRd, MemRdData, MemInv (MetaValue I or A), MemSpecRd, MemClnEvct, and, when the socket
has no back-invalidate outstanding for the line, MemWr, MemWrPtl and a write-back, whose poison is logged first. A
MemInv of MetaValue S is a violation that the port answers. -/
def Obligations.HostRequestsJoinTheirHomeBench : Prop :=
  (∀ (s : State) (m : HostMsg) (sa : SA) (dla : DLA) (w : WinId) (data : Line) (be : BitVec 64) (poison : Bool),
    (∀ mv, HostReady s m (.memRd mv) sa dla w →
      exec (.memRd m mv) s = .next (sameTime s (hostJoined s m (.memRd mv) sa dla w 0 0 false))) ∧
    (HostReady s m .memRdData sa dla w →
      exec (.memRdData m) s = .next (sameTime s (hostJoined s m .memRdData sa dla w 0 0 false))) ∧
    (∀ mv nt, mv ≠ .s → HostReady s m (.memInv mv) sa dla w →
      exec (.memInv m mv nt) s = .next (sameTime s (hostJoined s m (.memInv mv) sa dla w 0 0 false))) ∧
    (HostReady s m .memSpecRd sa dla w →
      exec (.memSpecRd m) s = .next (sameTime s (hostJoined s m .memSpecRd sa dla w 0 0 false))) ∧
    (HostReady s m .memClnEvct sa dla w →
      exec (.memClnEvct m) s = .next (sameTime s (hostJoined s m .memClnEvct sa dla w 0 0 false))) ∧
    (∀ mv, HostReady s m (.memWr mv) sa dla w → socketEntry s m.link sa = none →
      exec (.memWr m mv data poison) s =
        .next (sameTime s (hostJoined (poisonNoted s m poison) m (.memWr mv) sa dla w data (BitVec.allOnes 64) poison))) ∧
    (∀ mv, HostReady s m (.memWrPtl mv) sa dla w → socketEntry s m.link sa = none →
      exec (.memWrPtl m mv data be poison) s =
        .next (sameTime s (hostJoined (poisonNoted s m poison) m (.memWrPtl mv) sa dla w data be poison))) ∧
    (∀ op, op = (if be = BitVec.allOnes 64 then ReqOp.memWr .i else .memWrPtl .i) → HostReady s m op sa dla w →
      socketEntry s m.link sa = none →
      exec (.snoopWriteBack m data be poison) s =
        .next (sameTime s (hostJoined (poisonNoted s m poison) m op sa dla w data be poison)))) ∧
  (∀ (s : State) (m : HostMsg) (sa : SA) (d : DevId) (dla : DLA) (data : Line) (be : BitVec 64) (poison : Bool) (op : ReqOp),
    HostFar s m op sa d dla →
    (∀ i : Instr, (∃ mv, i = .memRd m mv ∧ op = .memRd mv) ∨ (i = .memRdData m ∧ op = .memRdData) ∨
        (∃ mv nt, mv ≠ .s ∧ i = .memInv m mv nt ∧ op = .memInv mv) ∨ (i = .memSpecRd m ∧ op = .memSpecRd) ∨
        (i = .memClnEvct m ∧ op = .memClnEvct) →
      exec i s = .next (sameTime s (hostSent s m op sa d dla 0 0 false))) ∧
    (socketEntry s m.link sa = none → ∀ i : Instr, (∃ mv, i = .memWr m mv data poison ∧ op = .memWr mv ∧ be = BitVec.allOnes 64) ∨
        (∃ mv, i = .memWrPtl m mv data be poison ∧ op = .memWrPtl mv) ∨ (i = .snoopWriteBack m data be poison ∧
          op = (if be = BitVec.allOnes 64 then ReqOp.memWr .i else .memWrPtl .i)) →
      exec i s = .next (sameTime s (hostSent (poisonNoted s m poison) m op sa d dla data be poison)))) ∧
  (∀ (s : State) (m : HostMsg) (nt : Bool), alive s = true → memberUp s m.link m.member = true →
    exec (.memInv m .s nt) s = .next (sameTime s (pushResp (violation s (hlinkOf s m.link).hsock false)
      (portResp s m (.cmp .cmp) false (refusedSa s m)))))

/-- Write-backs, BIRsp and BIConflict of a socket reach the snoop they answer. Rules: R112, R113, R114, R115, R295, R335,
04 Coherence. For a line with a back-invalidate outstanding toward the socket: a write-back is completed at the port
and, with this device as home, performed at the home (as a new request where its snoop has timed out), and else sent
to its home. A BIRsp frees the entry of its link's snoop table, is noted as answered, and is applied to the snoop here
or sent to its home; a BIConflict is acknowledged behind the completions already queued, or sent to its home. Either
with no entry is a stray answer, counted as its case says. A snoop whose time has passed completes by timeout. An
opcode that the Goraskey does not support is counted as a violation of the socket and answered. -/
def Obligations.SnoopAnswersReachTheHome : Prop :=
  (∀ (s t : State) (m : HostMsg) (sa : SA) (e : SnoopTab) (data : Line) (be : BitVec 64) (poison : Bool),
    alive s = true → presented s = true → memberUp s m.link m.member = true → saOfMsg s m = some sa →
    socketEntry s m.link sa = some e →
    t = pushResp (poisonNoted s m poison) (portResp (poisonNoted s m poison) m (.cmp .cmp) false e.sa) →
    ∀ i : Instr, i = .snoopWriteBack m data be poison ∨ (∃ mv, i = .memWrPtl m mv data be poison) ∨
      (be = BitVec.allOnes 64 ∧ ∃ mv, i = .memWr m mv data poison) →
    (∀ v, e.home = devId s → snoopOf s (hlinkOf s m.link).hsock e.tag = some v →
      exec i s = .next (sameTime s (snoopWbHome t v data be poison))) ∧
    (e.home = devId s → snoopOf s (hlinkOf s m.link).hsock e.tag = none →
      exec i s = .next (sameTime s (lateWrite t (hlinkOf s m.link).hsock e.sa data be poison))) ∧
    (e.home ≠ devId s → exec i s = .next (sameTime s
      (peerSend t e.home (.rsp (snoopMsg t e (.snoopWb (be == BitVec.allOnes 64)) data be poison)) none)))) ∧
  (∀ (s t : State) (l : HLink) (mb : BitVec 2) (sa : SA) (rsp : BIRsp), alive s = true → memberUp s l mb = true →
    (∀ e, tableEntry (countFlit s l) l sa = some e → t = answered (tableFree (countFlit s l) e) (hlinkOf s l).hsock e.sa →
      (e.home = devId t → exec (.birsp l mb sa rsp) s = .next (sameTime s (homeBirsp t (hlinkOf s l).hsock e.tag rsp))) ∧
      (e.home ≠ devId t → exec (.birsp l mb sa rsp) s = .next (sameTime s
        (peerSend t e.home (.rsp (snoopMsg t e (.birsp rsp) 0 0 false)) none)))) ∧
    (tableEntry (countFlit s l) l sa = none →
      exec (.birsp l mb sa rsp) s = .next (sameTime s (strayRsp (countFlit s l) (hlinkOf s l).hsock sa false)))) ∧
  (∀ (s : State) (l : HLink) (mb : BitVec 2) (sa : SA), alive s = true → memberUp s l mb = true →
    (∀ e, tableEntry s l sa = some e →
      (e.home = devId s → exec (.biconflict l mb sa) s = .next (sameTime s (conflictAck s l (hlinkOf s l).hsock sa))) ∧
      (e.home ≠ devId s → exec (.biconflict l mb sa) s = .next (sameTime s
        (peerSend s e.home (.rsp (snoopMsg s e .biConflict 0 0 false)) none)))) ∧
    (tableEntry s l sa = none → exec (.biconflict l mb sa) s = .next (sameTime s
      (conflictAck (strayRsp s (hlinkOf s l).hsock sa true) l (hlinkOf s l).hsock sa)))) ∧
  (∀ (s : State) (id : Nat) (v : Snoop), alive s = true → s.snoop.snoops.find? (fun v => v.id == id) = some v →
    v.timeout.toNat * 1000 ≤ since s v.issued →
    exec (.bisnpTimeout id) s = .next (sameTime s (run (snoopTimeout s v)))) ∧
  (∀ (s : State) (m : HostMsg) (rd : Bool), alive s = true → memberUp s m.link m.member = true →
    exec (.unsupportedHostOpcode m rd) s = .next (sameTime s (portAnswer (violation s (hlinkOf s m.link).hsock false) m
      (if rd then .memRd .i else .memWr .i) (refusedSa s m))))

/-- A hold ends, the eviction rate is checked, non-caching accesses join their bench, and a response leaves. Rules: R42,
R43, R114, R117, R122, R123, R124, R125, R132, R150, R296, 04 Coherence. HOLD_EXPIRY of a request whose line is no
longer held puts it back in its line's order, and one that waits there is tried again. The eviction-rate check starts
a new millisecond, and raises E-0x203 when the evictions of the last one exceed a threshold that is not 0. A read or a
write of a non-caching requester that a window of this device allows joins its home bench, one for another device is
sent there, and one that no window holds or allows is counted as refused and answered with its status. A response that
may leave, on a member link that is up and sending, first in its channel, is counted and accounted and leaves with the
DevLoad of that moment (R296); it stays in the queue, as one that has left, only while its request holds a tracker. -/
def Obligations.BenchWaitsAndResponsesComplete : Prop :=
  (∀ (s : State) (id : Nat) (r : Req), alive s = true → reqOf s id = some r →
    (r.phase = .hold → held s r.dla = false → exec (.holdExpiry id) s = .next (sameTime s (run (toPhase s id .line)))) ∧
    (r.phase = .line → exec (.holdExpiry id) s = .next (sameTime s (run s)))) ∧
  (∀ (s : State), alive s = true →
    (s.snoop.evictThreshold.toNat < (s.snoop.evictions - s.snoop.evictMs).toNat → s.snoop.evictThreshold ≠ 0 →
      exec .evictionRateCheck s =
        .next (raise { s with snoop := { s.snoop with evictMs := s.snoop.evictions } } 0x203 164 [])) ∧
    (s.snoop.evictThreshold = 0 ∨ (s.snoop.evictions - s.snoop.evictMs).toNat ≤ s.snoop.evictThreshold.toNat →
      exec .evictionRateCheck s = .next { s with snoop := { s.snoop with evictMs := s.snoop.evictions } })) ∧
  (∀ (s : State) (rq : NcReq) (dla : DLA) (w : WinId), NcReady s rq .ncRead dla w →
    exec (.noncachingRead rq) s = .next (sameTime s (ncJoined s rq .ncRead dla w 0 0 false))) ∧
  (∀ (s : State) (rq : NcReq) (dla : DLA) (w : WinId) (data : Line) (be : BitVec 64) (poison : Bool) (op : ReqOp),
    op = (if be = BitVec.allOnes 64 then ReqOp.ncWrite else .ncWritePtl) → NcReady s rq op dla w →
    exec (.noncachingWrite rq data be poison) s = .next (sameTime s (ncJoined s rq op dla w data be poison))) ∧
  (∀ (s : State) (rq : NcReq) (op : ReqOp) (data : Line) (be : BitVec 64) (poison : Bool) (i : Instr),
    alive s = true → presented s = true →
    (i = .noncachingRead rq ∧ op = .ncRead ∧ data = 0 ∧ be = 0 ∧ poison = false) ∨
      (i = .noncachingWrite rq data be poison ∧ op = (if be = BitVec.allOnes 64 then .ncWrite else .ncWritePtl)) →
    (∀ d dla, homeOf s rq.sa = some (d, dla) → d ≠ devId s → exec i s = .next (sameTime s
      (sendReq s d op .mgmt rq.rqk 0 .ash .ash none rq.sa data be poison rq.queue rq.epoch))) ∧
    (∀ dla w, homeOf s rq.sa = some (devId s, dla) → windowAt s dla = some w → rightsOk (winOf s w) rq.rqk op = false →
      exec i s = .next (sameTime s (emit (refuse s true rq.sa w.toNat rq.rqk
        (if rq.rqk = .management then 0xFFFF else rq.queue.toNat) 164) (.mgmtData rq.sa 0 (mgmtStatus (some .rights)) false)))) ∧
    (homeOf s rq.sa = none ∨ (∃ dla, homeOf s rq.sa = some (devId s, dla) ∧ windowAt s dla = none) →
      exec i s = .next (sameTime s (emit (refuse s false rq.sa 0xFF rq.rqk
        (if rq.rqk = .management then 0xFFFF else rq.queue.toNat) 164)
          (.mgmtData rq.sa 0 (mgmtStatus (some .unmapped)) false))))) ∧
  (∀ (s t u : State) (id p : Nat) (r : Resp), alive s = true → s.port.resp.find? (fun x => x.id == id) = some r →
    memberPort s r.link r.member = some p → r.left = false → mayLeave s r = true → memberUp s r.link r.member = true →
    sending s p r = true → egressFirst s p r = true →
    u = account (countDev s 0x106 (1 + r.link.toNat)) r p →
    t = emit u (if r.kind = .conflictAck then .conflictAck r.link r.member r.sa
      else .resp { r with devload := leavingLoad u r }) →
    (r.req = none → exec (.hostResponseEgress id) s = .next (sameTime s (dropResp t id))) ∧
    (r.req.isSome = true → exec (.hostResponseEgress id) s = .next (sameTime s { t with port := { t.port with
      resp := mapIf (fun x => x.id == id) (fun x => { x with left := true }) t.port.resp } })))

/-- A refused host request sets no mark, takes no tracker and reaches no bench. Rules: R43, 02 Windows, Table 2-11. A host
request that matches no window, or that its window's rights refuse, leaves every window (so its accessed and dirty
marks), the cache (so every tracker and bench) and the data array as they were, and the device goes on: exec answers a
next state. -/
def Obligations.RefusedHostRequestLeavesTheMemory : Prop :=
  ∀ (s : State) (m : HostMsg) (i : Instr) (op : ReqOp) (mv : MetaValue) (p : Nat) (sa : SA) (dla : DLA) (data : Line)
    (be : BitVec 64) (poison : Bool),
    (i = .memRd m mv ∧ op = .memRd mv) ∨ (i = .memRdData m ∧ op = .memRdData) ∨ (i = .memClnEvct m ∧ op = .memClnEvct) ∨
      (i = .memWr m mv data poison ∧ op = .memWr mv) ∨ (i = .memWrPtl m mv data be poison ∧ op = .memWrPtl mv) →
    alive s = true → presented s = true → memberPort s m.link m.member = some p → ingressFull s m.link m.member op = false →
    saOfMsg s m = some sa → homeOf s sa = some (devId s, dla) → socketEntry s m.link sa = none →
    (windowAt s dla = none ∨ ∃ w, windowAt s dla = some w ∧ rightsOk (winOf s w) .hostSocket op = false) →
    ∃ t, exec i s = .next t ∧ t.region.win = s.region.win ∧ t.cache = s.cache ∧ t.rel.array = s.rel.array

/-- BUCKET_UPDATE fills every running bucket by its rate and never above its burst. Rules: R138, 05 Latency contracts. The
command updates every entry of the contract table and nothing else. A running bucket gains floor(RATE x 65,536 x t /
1,000) at its elapsed time t less the same at its last update, up to BURST tokens; its elapsed time is noted. A bucket
that is not running keeps its level. -/
def Obligations.TokenBucketsFillToTheirBurst : Prop :=
  (∀ (s : State), alive s = true →
    exec .bucketUpdate s = .next { s with contract := { s.contract with
      table := s.contract.table.map (fun p => (p.1, bucketStep s.now p.2)) } }) ∧
  (∀ (now : Time) (c : ContractS), c.running = true →
    (bucketStep now c).rate16 = min
      (c.rate16 + (c.ctr.rate.toNat * 65536 * (now - c.ctr.admitted).toNat / 1000 -
        c.ctr.rate.toNat * 65536 * c.lastT.toNat / 1000)) (c.ctr.burst.toNat * 65536) ∧
    (bucketStep now c).rate16 ≤ c.ctr.burst.toNat * 65536 ∧
    (bucketStep now c).lastT = now - c.ctr.admitted ∧ (bucketStep now c).ctr = c.ctr) ∧
  (∀ (now : Time) (c : ContractS), c.running = false → bucketStep now c = c)

/-- An admission is proposed to its homes, answered, committed, set aside and confirmed, or refused and dropped. Rules:
R142, R144, R146, R147, R391, Table 5-6, 05 Latency contracts. A write of a proposed record with no admission in
progress or waiting is refused at once by an origin check that fails or a home without a route; else the lowest free
entry is pending, every other home gets the proposal, and a home here accepts or aborts it. A proposal with home
checks passed is held as tentative and accepted, else answered with the failed check (outside MEMORY_ACTIVE
UNREACHABLE, log entry 114). The last acceptance commits; a reason aborts. A commit sets the reservations of a
tentative share aside; a bench's confirmation leaves the others awaited, the last confirms the home; the last home's
admits, or ends a deletion. An abort drops a tentative share. A home that has not answered for 1 ms aborts. -/
def Obligations.AdmissionProposalsAndAnswers : Prop :=
  (∀ (s e t : State) (acc : Accessor) (c : Contract), alive s = true → passes s acc plainGate = true →
    presented s = true → s.contract.waiting = [] → admitting s = false → e = entered s acc →
    (∀ y, originCheck e c = some y → exec (.contractAdmit acc c) s =
      .next (sameTime s (answerLate (refused e 0xFF y) (some (normAcc acc, none)) (reasonStatus y.1) 8 0))) ∧
    (∀ d, originCheck e c = none → noRoute e c = some d → exec (.contractAdmit acc c) s =
      .next (sameTime s (answerLate (refused e d.toNat (13, 0, noBench)) (some (normAcc acc, none)) .full 8 0))) ∧
    (∀ n, originCheck e c = none → noRoute e c = none → freeEntry e = some n → t = proposed e (normAcc acc) c n →
      (covers c (devId s) = false → exec (.contractAdmit acc c) s = .next (sameTime s t)) ∧
      (covers c (devId s) = true → homeCheck t (devId s) c (hlinkOf e c.link).cls = none →
        exec (.contractAdmit acc c) s = .next (sameTime s (accepted (setShares t (t.contract.shares ++
          [{ origin := devId s, entry := BitVec.ofNat 12 n, ctr := c, linkClass := (hlinkOf e c.link).cls, state := .tentative
             admitted := 0, reason := 0, setAside := [] }])) (BitVec.ofNat 12 n) (devId s)))) ∧
      (∀ y, covers c (devId s) = true → homeCheck t (devId s) c (hlinkOf e c.link).cls = some y →
        exec (.contractAdmit acc c) s =
          .next (sameTime s (originAbort t (BitVec.ofNat 12 n) (devId s).toNat y))))) ∧
  (∀ (u s : State) (src : DevId) (i : CIdx) (c : Contract) (l : LClass), s = ctlIn u src → alive s = true → fromMember s src = true →
    src ≠ devId s → shareOf s src i = none →
    (presented s = true → homeCheck s src c l = none → exec (.shareProposal src i c l) u = .next (sameTime s (shareSend
      (setShares s (s.contract.shares ++ [{ origin := src, entry := i, ctr := c, linkClass := l, state := .tentative
                                            admitted := 0, reason := 0, setAside := [] }])) src 2 i [0, 0, 0xFFFF]))) ∧
    (∀ y, presented s = true → homeCheck s src c l = some y → exec (.shareProposal src i c l) u = .next (sameTime s
      (shareSend s src 2 i [BitVec.ofNat 64 y.1, BitVec.ofNat 64 y.2.1, BitVec.ofNat 64 y.2.2]))) ∧
    (presented s = false →
      exec (.shareProposal src i c l) u = .next (sameTime s (shareSend s src 2 i [13, 0, 0xFFFF])))) ∧
  (∀ (u s t : State) (src : DevId) (i : CIdx) (res : Byte) (bench : BitVec 16) (m : BitVec 8), s = ctlIn u src → alive s = true →
    (contractOf s i).phase = .proposing → covers (contractOf s i).ctr src = true →
    (contractOf s i).answered.getLsbD src.toNat = false → src ≠ devId s → m = (contractOf s i).answered ||| bit src.toNat →
    t = setContract s i { contractOf s i with answered := m } →
    (m = (contractOf s i).ctr.homemask →
      exec (.shareAccept src i 0 res bench) u = .next (sameTime s (originCommit t i))) ∧
    (m ≠ (contractOf s i).ctr.homemask → exec (.shareAccept src i 0 res bench) u = .next t) ∧
    (∀ reason : Byte, reason ≠ 0 → exec (.shareAccept src i reason res bench) u = .next (sameTime s
      (settleAdmissions (originAbort s i src.toNat (reason.toNat, res.toNat, bench.toNat)))))) ∧
  (∀ (u s : State) (src : DevId) (i : CIdx) (t : Time) (h : Share), s = ctlIn u src → alive s = true → src ≠ devId s →
    shareOf s src i = some h → h.state = .tentative →
    exec (.shareCommit src i t) u = .next (sameTime s (homeCommit s src i t))) ∧
  (∀ (s : State) (b : Bench) (src : DevId) (i : CIdx) (h : Share), alive s = true → shareOf s src i = some h →
    h.state = .settingAside → h.setAside.contains b = true → overShared s b = false →
    (h.setAside.filter (· != b) ≠ [] → exec (.setAsideComplete b src i) s = .next (sameTime s
      (modShare s src i (fun h' => { h' with setAside := h.setAside.filter (· != b) })))) ∧
    (h.setAside.filter (· != b) = [] →
      exec (.setAsideComplete b src i) s = .next (sameTime s (settleAdmissions (homeConfirm s src i))))) ∧
  (∀ (u s t : State) (src : DevId) (i : CIdx) (m : BitVec 8), s = ctlIn u src → alive s = true → covers (contractOf s i).ctr src = true →
    src ≠ devId s → m = (contractOf s i).confirmed ||| bit src.toNat →
    t = setContract s i { contractOf s i with confirmed := m } →
    ((contractOf s i).phase = .committing ∨ (contractOf s i).phase = .releasing → m ≠ (contractOf s i).ctr.homemask →
      exec (.shareConfirm src i) u = .next t) ∧
    ((contractOf s i).phase = .committing → m = (contractOf s i).ctr.homemask →
      exec (.shareConfirm src i) u = .next (sameTime s (settleAdmissions (admitDone t i)))) ∧
    ((contractOf s i).phase = .releasing → m = (contractOf s i).ctr.homemask →
      exec (.shareConfirm src i) u = .next (sameTime s (deleteDone t i)))) ∧
  (∀ (u s : State) (src : DevId) (i : CIdx) (h : Share), s = ctlIn u src → alive s = true → shareOf s src i = some h → h.state = .tentative →
    src ≠ devId s →
    exec (.shareAbort src i) u = .next (setShares s (s.contract.shares.filter (fun h => !(h.origin == src && h.entry == i))))) ∧
  (∀ (s : State) (i : CIdx) (d : DevId), alive s = true → (contractOf s i).phase = .proposing →
    1000000 ≤ since s (contractOf s i).started → covers (contractOf s i).ctr d = true →
    (contractOf s i).answered.getLsbD d.toNat = false →
    exec (.admissionTimeout i d) s = .next (sameTime s (settleAdmissions (originAbort s i
      (((bitsOf ((contractOf s i).ctr.homemask &&& ~~~(contractOf s i).answered)).head?).getD d.toNat) (13, 0, noBench)))))

/-- Contracts are deleted and revoked, shares released, and parameters written. Rules: R147, R165, R166, R169, 05 Latency
contracts. Deleting a revoked entry frees it and answers OK; deleting an admitted one stops its bucket, releases its
shares and, with no home but this device, ends at once, else is answered when its homes have confirmed; any other
entry answers RANGE. A release of a member drops the share and is confirmed. A deletion that has waited 1 ms for a
home is done. A contract parameter inside its range takes its value and is a capacity change; outside it answers
RANGE. REVOCATION_PASS takes the oldest capacity change, and admissions that waited take their turns; a revoke of a
member that is a home revokes the contract at its origin and is answered; the answer releases the share at the home;
the grace ends 10 us after the last bucket stopped. -/
def Obligations.DeletionAndRevocationComplete : Prop :=
  (∀ (s : State) (acc : Accessor) (i : CIdx), alive s = true → passes s acc plainGate = true →
    ((contractOf s i).ctr.state = 3 →
      exec (.contractDelete acc i) s = .next (sameTime s (replied acc .ok 0 (freeContract (entered s acc) i)))) ∧
    ((contractOf s i).ctr.state = 2 → (contractOf s i).phase ≠ .releasing →
      (homes s (contractOf s i).ctr = [] → exec (.contractDelete acc i) s =
        .next (sameTime s (deleteDone (released (entered s acc) (normAcc acc) i) i))) ∧
      (homes s (contractOf s i).ctr ≠ [] →
        exec (.contractDelete acc i) s = .next (sameTime s (released (entered s acc) (normAcc acc) i)))) ∧
    ((contractOf s i).ctr.state = 0 ∨ (contractOf s i).ctr.state = 1 ∨
        ((contractOf s i).ctr.state = 2 ∧ (contractOf s i).phase = .releasing) →
      exec (.contractDelete acc i) s = .next (sameTime s (replied acc .range 0 (entered s acc))))) ∧
  (∀ (u s : State) (src : DevId) (i : CIdx), s = ctlIn u src → alive s = true → src ≠ devId s → fromMember s src = true →
    exec (.shareRelease src i) u = .next (sameTime s (shareSend (dropShare s src i) src 4 i []))) ∧
  (∀ (s : State) (i : CIdx), alive s = true → (contractOf s i).phase = .releasing →
    1000000 ≤ since s (contractOf s i).started →
    exec (.deleteTimeout i) s = .next (sameTime s (deleteDone s i))) ∧
  (∀ (s : State) (acc : Accessor) (v : BitVec 32) (item : BitVec 16) (lo hi : Nat) (t : State), alive s = true →
    passes s acc plainGate = true →
    (item = 2 ∧ lo = 1 ∧ hi = 256 ∧
        t = { entered s acc with contract := { s.contract with spread := BitVec.ofNat 9 v.toNat } }) ∨
      (item = 3 ∧ lo = 50 ∧ hi = 90 ∧
        t = { entered s acc with contract := { s.contract with ceil := BitVec.ofNat 7 v.toNat } }) ∨
      (item = 4 ∧ lo = 10 ∧ hi = 100 ∧
        t = { entered s acc with contract := { s.contract with margin := BitVec.ofNat 7 v.toNat } }) ∨
      (item = 5 ∧ lo = 500 ∧ hi = 60000 ∧
        t = { entered s acc with contract := { s.contract with window := BitVec.ofNat 16 v.toNat } }) ∨
      (item = 6 ∧ lo = 1 ∧ hi = 65535 ∧
        t = { entered s acc with contract := { s.contract with disq := BitVec.ofNat 16 v.toNat } }) →
    (lo ≤ v.toNat → v.toNat ≤ hi →
      exec (.contractParamWrite acc item v) s = .next (sameTime s (replied acc .ok 0 (capChange t .param)))) ∧
    (v.toNat < lo ∨ hi < v.toNat →
      exec (.contractParamWrite acc item v) s = .next (sameTime s (replied acc .range 0 (entered s acc))))) ∧
  (∀ (s : State) (c : PassCause) (rest : List PassCause), alive s = true → s.contract.passes = c :: rest →
    exec .revocationPass s = .next (sameTime s (settleAdmissions
      (doPass.setPoolsIf (passOne { s with contract := { s.contract with passes := rest } } c))))) ∧
  (∀ (u s : State) (src : DevId) (i : CIdx) (reason : Byte), s = ctlIn u src → alive s = true → src ≠ devId s → fromMember s src = true →
    covers (contractOf s i).ctr src = true →
    exec (.revoke src i reason) u = .next (sameTime s (settleAdmissions
      (ctlSend (originRevoke s i reason.toNat src) src 0x0E [1, i.setWidth 64])))) ∧
  (∀ (u s : State) (src : DevId) (i : CIdx) (h : Share), s = ctlIn u src → alive s = true → shareOf s src i = some h → h.state = .revoking →
    exec (.revokeAnswer src i) u = .next (sameTime s (dropShare s src i))) ∧
  (∀ (s : State) (t : Time), alive s = true → s.contract.lastStop = some t → 10000 ≤ since s t →
    exec .revocationGraceEnd s = .next { s with contract := { s.contract with lastStop := none } })

/-- An assay starts, ends with the classes its maximum qualifies for, and exceedances disqualify. Rules: R153, R154, R155,
R157, 05 Latency contracts. From LOCAL_READY on, a write of a link that is READY, qualified or unqualified starts its
assay, and of one in ASSAY is answered OK; the device's own command starts the assay of a link in READY. When the
measurement window has ended with samples, the result is recorded: the assayed maximum is the largest sample times
(100 + margin) / 100 rounded up to a multiple of 10 ns, and the classes are those whose ceiling is at least that, none
where a probe failed. More exceedances in the present second than the threshold take from a link the classes that its
largest response no longer qualifies for. -/
def Obligations.AssaysRunAndDecide : Prop :=
  (∀ (s : State) (acc : Accessor) (x : XLink), alive s = true → passes s acc plainGate = true → reachedReady s = true →
    ((xlinkOf s x).state = .ready ∨ (xlinkOf s x).state = .qualified ∨ (xlinkOf s x).state = .unqualified →
      exec (.startAssay acc x) s = .next (sameTime s (replied acc .ok 0 (assayRun (entered s acc) x)))) ∧
    ((xlinkOf s x).state = .assay →
      exec (.startAssay acc x) s = .next (sameTime s (replied acc .ok 0 (entered s acc))))) ∧
  (∀ (s : State) (x : XLink), alive s = true → s.dev.stage = .localReady ∨ presented s = true → (xlinkOf s x).state = .ready →
    exec (.assayStart x) s = .next (sameTime s (assayRun s x))) ∧
  (∀ (s : State) (x : XLink) (t : Time), alive s = true → s.contract.assaying.find? (fun p => p.1 == x) = some (x, t) →
    s.contract.window.toNat * 1000000 ≤ since s t → (assayOf s x).samples ≠ [] → (xlinkOf s x).state = .assay →
    exec (.assayComplete x) s = .next (sameTime s (assayEnd s x (assayOf s x) (assayResult s (assayOf s x)))) ∧
    (assayResult s (assayOf s x)).a =
      BitVec.ofNat 32 ((maxNat (assayOf s x).samples * (100 + s.contract.margin.toNat) + 999) / 1000 * 10) ∧
    (assayResult s (assayOf s x)).classes = (if (assayOf s x).failed then 0 else
      qualified ((maxNat (assayOf s x).samples * (100 + s.contract.margin.toNat) + 999) / 1000 * 10))) ∧
  (∀ (s : State) (x : XLink) (n mx : Nat), alive s = true →
    tget ((0 : BitVec 64), 0, 0) s.contract.excSec x.toNat = (BitVec.ofNat 64 (s.now.toNat / 1000000000), n, mx) →
    s.contract.disq.toNat < n →
    exec (.disqualification x) s = .next (sameTime s (disqualify s x mx)))

/-- Each opcode's running step uses the issue slots that go to haul work, one haul operation in each. Rules: R148, R172,
R173, R174, R205, R221, R222, R224, R225, R226, R237, 07 Job queues. For COPY, FILL, CHECK, FLUSH, PREFETCH, ATOMIC,
RESERVE, CONDSTORE and MIGRATE: when a JOB step of a job of that opcode runs on a bench whose clock runs and whose
next issue slot goes to haul work, the command takes the slot and does the opcode's next operation, counts one
operation of the step and the bench event, and the first one starts the 2 us of R172; a step that can do nothing in
this slot, its loads out or its engine full, only uses the slot. -/
def Obligations.OpcodesOfRunningStepsOperate : Prop :=
  ∀ (s : State) (b : Bench) (x : Job) (r : Run),
    (StepReady s b opCopy x r → exec (.copy b) s = .next (sameTime s (haulOne s b x r))) ∧
    (StepReady s b opFill x r → exec (.fill b) s = .next (sameTime s (haulOne s b x r))) ∧
    (StepReady s b opCheck x r → exec (.check b) s = .next (sameTime s (haulOne s b x r))) ∧
    (StepReady s b opFlush x r → exec (.flush b) s = .next (sameTime s (haulOne s b x r))) ∧
    (StepReady s b opPrefetch x r → exec (.prefetch b) s = .next (sameTime s (haulOne s b x r))) ∧
    (StepReady s b opAtomic x r → exec (.atomic b) s = .next (sameTime s (haulOne s b x r))) ∧
    (StepReady s b opReserve x r → exec (.reserve b) s = .next (sameTime s (haulOne s b x r))) ∧
    (StepReady s b opCondstore x r → exec (.condstore b) s = .next (sameTime s (haulOne s b x r))) ∧
    (StepReady s b opMigrate x r → exec (.migrate b) s = .next (sameTime s (haulOne s b x r)))

/-- Slack is credited, steps are released, started, cut, ended and purged. Rules: R172, R176, R177, R178, R187, R189,
R233, R243, R244, 06 Haul work, 08 Check values. SLACK_UPDATE credits every bench, queues what waits and takes the
clocks of the next microsecond. JOB_STEP_RELEASE releases the next ready step of the first queue in turn with weight
left in the round, else begins the next round. STEP_START at the head of an idle bench's deque: a step of an earlier
epoch is dropped, its charge given back; a CHECK takes a free engine of the cluster, waits while all are busy, and
moves where none is in service; any other step runs. STEP_END of a finished step ends it, one with a parity mismatch
once the deque has room. STEP_CUT of a step whose first operation is 2 us old stops it, and ends it if nothing of it
is out. QUEUE_PURGE under the queue's epoch removes the steps of earlier epochs from the bench, and under another does
nothing. -/
def Obligations.HaulStepsRunAndEnd : Prop :=
  (∀ (s t : State), alive s = true → presented s = true → t = noteDrained (grantAll (feed (creditSlack s))) →
    exec .slackUpdate s = .next (sameTime s { t with clk := { t.clk with usClock := t.clk.clock } })) ∧
  (∀ (s t : State) (q : QueueId) (rest : List QueueId), alive s = true → presented s = true →
    queueOrder s s.job.rrStep.toNat = q :: rest → tget 0 s.job.rrRound q.toNat < weightOf s q → queueReady s q = true →
    releaseOf s q = (t, true) →
    exec .jobStepRelease s = .next (sameTime s (noteDrained { t with job := { t.job with
      rrStep := q, rrRound := tput 0 t.job.rrRound q.toNat (tget 0 s.job.rrRound q.toNat + 1) } }))) ∧
  (∀ (s t : State) (ok : Bool), alive s = true → presented s = true →
    releasePass s (queueOrder s s.job.rrStep.toNat) none = (t, ok) →
    exec .jobStepRelease s = .next (sameTime s (noteDrained (if ok then t else
      (releasePass { s with job := { s.job with rrRound := [] } } (queueOrder s (s.job.rrStep.toNat + 1)) none).1)))) ∧
  (∀ (s : State) (b : Bench) (t : StepRec) (rest : List StepRec), alive s = true → presented s = true →
    runOf s b = none → (benchOf s b).deque = t :: rest →
    (stale s t = true → exec (.stepStart b) s = .next (sameTime s (noteDrained
      (setLive (creditK (modBench s b (fun v => { v with deque := v.deque.tail })) b t.estimate.toNat) t
        (fun x => { x with open_ := x.open_ - 1 }))))) ∧
    (stale s t = false → isCheck s t = false →
      exec (.stepStart b) s = .next (sameTime s (noteDrained (takeStep s b t none)))) ∧
    (∀ e, stale s t = false → isCheck s t = true → freeEngine s (b.toNat / 16) = some e →
      exec (.stepStart b) s = .next (sameTime s (noteDrained (takeStep s b t (some e))))) ∧
    (stale s t = false → isCheck s t = true → anyEngine s (b.toNat / 16) = true → freeEngine s (b.toNat / 16) = none →
      exec (.stepStart b) s = .next (sameTime s (noteDrained (waitEngine s b t)))) ∧
    (stale s t = false → isCheck s t = true → anyEngine s (b.toNat / 16) = false →
      exec (.stepStart b) s = .next (sameTime s (noteDrained (moveCheck s b t))))) ∧
  (∀ (s : State) (b : Bench) (r : Run), alive s = true → runOf s b = some r → runDone s b r = true →
    r.parity = false ∨ hasRoom s b .job = true →
    exec (.stepEnd b) s = .next (sameTime s (endStep s b r))) ∧
  (∀ (s : State) (b : Bench) (r : Run) (t : Time), alive s = true → runOf s b = some r → r.started = some t →
    2000 ≤ since s t →
    exec (.stepCut b) s = .next (sameTime s (doStepEnd (modRun s b (fun r => { r with stop := true })) b))) ∧
  (∀ (s : State) (b : Bench) (q : QueueId) (e : Byte), alive s = true →
    (e = (queueOf s q).epoch → exec (.queuePurge b q e) s = .next (sameTime s
      (noteDrained (purgeBench s b (fun t => t.queue == q && t.epoch != e))))) ∧
    (e ≠ (queueOf s q).epoch → exec (.queuePurge b q e) s = .next s))

/-- An idle bench steals, a stolen record arrives, counts are published, and stealing across clusters matures. Rules:
R183, R184, R185, R186, R189, 06 Haul work. A steal request of an idle bench takes the tail of the longest deque of
its cluster; where there is none, of another cluster if its own may steal there, else it looks again after 50 ns; a
retry that is due does the same. A record that arrives is dropped if its epoch has passed; else, with room, it is
charged to the thief, counted and queued. COUNT_PUBLISH publishes every cluster's count, notes since when one is
loaded, and ends stealing where no cluster has 16 steps or the thief's has no idle bench; stealing matures when the
cluster has been drained and some cluster loaded for the imbalance time, and its idle benches steal at once. -/
def Obligations.StealingCompletes : Prop :=
  (∀ (s : State) (b : Bench), alive s = true → presented s = true → idleBench s b = true → (benchOf s b).incoming = [] →
    (∀ v, longest s (b.toNat / 16) = some v →
      exec (.stealRequest b) s = .next (sameTime s (noteDrained (stealFrom s b v false)))) ∧
    (∀ v, longest s (b.toNat / 16) = none → s.job.stealing.contains (b.toNat / 16) = true →
      (sourceOrder s (b.toNat / 16) 16).findSome? (longest s) = some v →
      exec (.stealRequest b) s = .next (sameTime s (noteDrained (stealFrom s b v true)))) ∧
    (longest s (b.toNat / 16) = none →
      (s.job.stealing.contains (b.toNat / 16) = false ∨ (sourceOrder s (b.toNat / 16) 16).findSome? (longest s) = none) →
      exec (.stealRequest b) s = .next (setBench s b { benchOf s b with retryAt := some (s.now + 50) }))) ∧
  (∀ (s : State) (b : Bench) (t : Time), alive s = true → (benchOf s b).retryAt = some t → t ≤ s.now →
    exec (.stealRetry b) s = .next (sameTime s (doSteal (setBench s b { benchOf s b with retryAt := none }) b))) ∧
  (∀ (s u : State) (b : Bench) (t : StepRec) (far : Bool) (rest : List (StepRec × Bool)), alive s = true →
    (benchOf s b).incoming = (t, far) :: rest → u = setBench s b { benchOf s b with incoming := rest } →
    (stale s t = true → exec (.stealRecordArrival b) s =
      .next (sameTime s (setLive u t (fun x => { x with open_ := x.open_ - 1 })))) ∧
    (stale s t = false → hasRoom s b t.kind = true →
      exec (.stealRecordArrival b) s = .next (sameTime s (noteDrained (pushStep
        (modBench (creditK u b (-(t.estimate.toNat : Int))) b (fun v =>
          if far then { v with stolenX := v.stolenX + 1 } else { v with stolen := v.stolen + 1 })) b t false))))) ∧
  (∀ (s : State) (p : Tab Nat), alive s = true → p = (List.range 16).foldl (fun t c => tput 0 t c (clusterCount s c)) [] →
    exec .countPublish s = .next (sameTime s (noteDrained { s with job := { s.job with
      published := p
      loadedSince := if p.any (fun e => s.cache.loadThreshold.toNat ≤ e.2) then some (s.job.loadedSince.getD s.now)
        else none } }))) ∧
  (∀ (s : State) (c : Cluster) (t : Time), alive s = true → presented s = true → s.job.loadedSince = some t →
    s.job.stealing.contains c.toNat = false → tget 0 s.job.drainedSince c.toNat ≠ BitVec.allOnes 64 →
    s.cache.imbalance.toNat ≤ since s (tget 0 s.job.drainedSince c.toNat) → s.cache.imbalance.toNat ≤ since s t →
    exec (.stealMature c) s = .next (sameTime s (noteDrained ((List.range 16).foldl (fun s i =>
      if idleBench s (BitVec.ofNat 8 (c.toNat * 16 + i)) && (benchOf s (BitVec.ofNat 8 (c.toNat * 16 + i))).incoming.isEmpty
      then (stealFar s (BitVec.ofNat 8 (c.toNat * 16 + i)) s.cache.loadThreshold.toNat).1 else s)
      { s with job := { s.job with stealing := s.job.stealing ++ [c.toNat] } }))))

/-- An issue slot goes to a contracted request before all else, and one slot in 64 to device work. Rules: R148, R174,
R372, R373, 05 Latency contracts, 06 Haul work. A contracted request with less than 200 ns left is issued in every
slot, and in any slot but each eighth, or with no Ash request ready, whatever its deadline; without one, slot 4 of
each 64 goes to device work that can move, then Ash requests go before haul work except after three in a row, and haul
work takes what is left. An issue slot of a presented device whose bench's clock runs is counted and goes to what this
chooses: the contracted request of the earliest deadline, the oldest ready Ash request, an operation of device work,
or an operation of the running step; a bench with nothing ready, no device work and no running step only counts the
slot. A bench that is held issues nothing. The event counters 0x017 to 0x019 count what is issued (log entry 130). -/
def Obligations.IssueSlotChoosesByClass : Prop :=
  (∀ slot ashRun n ash device haul, n < 200 → pickSlot slot ashRun (some n) ash device haul = .contracted) ∧
  (∀ slot ashRun n ash device haul, slot % 8 ≠ 0 → pickSlot slot ashRun (some n) ash device haul = .contracted) ∧
  (∀ slot ashRun n device haul, pickSlot slot ashRun (some n) false device haul = .contracted) ∧
  (∀ slot ashRun haul ash, slot % 64 = 4 → pickSlot slot ashRun none ash true haul = .floorOp) ∧
  (∀ slot ashRun haul device, slot % 64 ≠ 4 → ashRun < 3 → pickSlot slot ashRun none true device haul = .ash) ∧
  (∀ slot ashRun device, slot % 64 ≠ 4 → 3 ≤ ashRun → pickSlot slot ashRun none true device true = .haul) ∧
  (∀ slot ashRun device, slot % 64 ≠ 4 → pickSlot slot ashRun none false device true = .haul) ∧
  (∀ (s t : State) (b : Bench) (con ash : Option Req) (p : Pick), alive s = true → presented s = true → benchHeld s b = false →
    con = earliest s ((readyAt s b).filter (fun r => r.cls != .ash)) → ash = ((readyAt s b).filter (fun r => r.cls == .ash)).head? →
    p = pickSlot (benchOf s b).slot (benchOf s b).ashRun (con.bind (timeLeft s)) ash.isSome
      (deviceRuns s b || (floorStep s b).isSome) (benchOf s b).running.isSome →
    t = setBench s b { benchOf s b with slot := (benchOf s b).slot + 1 } →
    (∀ r, p = .contracted → con = some r → exec (.issueSlot b) s =
      .next (sameTime s (run (serve (countBench t b 0x017 (classQual r.cls)) r.id)))) ∧
    (∀ r u, p = .ash → ash = some r →
      u = countBench (modBench t b (fun v => { v with ashRun := v.ashRun + 1 })) b 0x018 0 →
      (con = none → exec (.issueSlot b) s = .next (sameTime s (run (serve u r.id)))) ∧
      (con ≠ none → exec (.issueSlot b) s = .next (sameTime s (run (serve (countBench u b 0x019 0) r.id))))) ∧
    (p = .floorOp → exec (.issueSlot b) s = .next (sameTime s (floorSlot t b))) ∧
    (p = .haul → exec (.issueSlot b) s =
      .next (sameTime s (haulOp (modBench t b (fun v => { v with ashRun := 0 })) b false).1)) ∧
    (p = .nothing → exec (.issueSlot b) s = .next t)) ∧
  (∀ (s : State) (b : Bench), alive s = true → benchHeld s b = true → exec (.issueSlot b) s = .next s)

/-- Queues are created, their limits written, and their doorbells move the ring pointers. Rules: R193, R194, R196, R197,
R198, R227, R389, R447, 07 Job queues. A valid record whose host link is up creates the lowest free queue, active,
with its epoch and counts kept, and answers its number; with none free FULL, invalid or its link down RANGE, PRIV
without class S ACCESS. MAXJOBS of 1 to 64 and any TLIMIT are taken, else RANGE. A write of SQ_TAIL inside the ring
that does not go back, and of CQ_HEAD inside the ring that frees no more than the slots in use, by the queue's own
link on an active queue with agreeing pointers, set both copies of the pointer; another value is ignored, counted and
raises E-0x281; to a queue that is not active it is ignored and counted. A doorbell on another link's page only
counts. -/
def Obligations.QueuesAreCreatedAndRung : Prop :=
  (∀ (s : State) (acc : Accessor) (r : QueueRec), alive s = true → passes s acc queueGate = true →
    (∀ n, ctxOk r = true → hostUp s r.link = true → (r.priv = true → classOfAcc acc = .s) → freeQueue s = some n →
      exec (.queueCreate acc r) s = .next (sameTime s (replied acc .ok n (setQueue (entered s acc) (BitVec.ofNat 13 n)
        { QueueS.init with ctx := r, state := .active, epoch := (queueOf s (BitVec.ofNat 13 n)).epoch
                           done := (queueOf s (BitVec.ofNat 13 n)).done })))) ∧
    (ctxOk r = true → hostUp s r.link = true → (r.priv = true → classOfAcc acc = .s) → freeQueue s = none →
      exec (.queueCreate acc r) s = .next (sameTime s (replied acc .full 0 (entered s acc)))) ∧
    (ctxOk r = true → hostUp s r.link = true → r.priv = true → classOfAcc acc ≠ .s →
      exec (.queueCreate acc r) s = .next (sameTime s (replied acc .access 0 (entered s acc)))) ∧
    (ctxOk r = false ∨ hostUp s r.link = false →
      exec (.queueCreate acc r) s = .next (sameTime s (replied acc .range 0 (entered s acc))))) ∧
  (∀ (s : State) (acc : Accessor) (q : QueueId) (value : BitVec 32), alive s = true → passes s acc queueGate = true →
    ((queueOf s q).state ≠ .free →
      exec (.queueLimitWrite acc q true value) s = .next (sameTime s (replied acc .ok 0 (setQueue (entered s acc) q
        { queueOf s q with ctx := { (queueOf s q).ctx with tlimit := value } }))) ∧
      (1 ≤ value.toNat → value.toNat ≤ 64 →
        exec (.queueLimitWrite acc q false value) s = .next (sameTime s (replied acc .ok 0 (setQueue (entered s acc) q
          { queueOf s q with ctx := { (queueOf s q).ctx with maxJobs := value.setWidth 7 } }))))) ∧
    (value.toNat < 1 ∨ 64 < value.toNat ∨ (queueOf s q).state = .free →
      exec (.queueLimitWrite acc q false value) s = .next (sameTime s (replied acc .range 0 (entered s acc))))) ∧
  (∀ (s : State) (l : HLink) (q : QueueId) (value : BitVec 32) (v : QueueS), alive s = true → v = queueOf s q →
    v.state = .active → v.ctx.link = l → ptrsOk v = true →
    (value.toNat % 65536 < sqSize v → sqAvail v v.sqTail.toNat ≤ sqAvail v (value.toNat % 65536) →
      exec (.sqTailWrite l q value) s = .next (setQueue s q (setSqTail v (value.toNat % 65536)))) ∧
    (sqSize v ≤ value.toNat % 65536 ∨ sqAvail v (value.toNat % 65536) < sqAvail v v.sqTail.toNat →
      exec (.sqTailWrite l q value) s = .next (sameTime s (badBell s q 0 value.toNat))) ∧
    (value.toNat % 65536 < cqSize v →
      (value.toNat % 65536 + cqSize v - v.cqHead.toNat % cqSize v) % cqSize v ≤ cqUsed v v.cqHead.toNat →
      exec (.cqHeadWrite l q value) s = .next (setQueue s q (setCqHead v (value.toNat % 65536)))) ∧
    (cqSize v ≤ value.toNat % 65536 ∨
      cqUsed v v.cqHead.toNat < (value.toNat % 65536 + cqSize v - v.cqHead.toNat % cqSize v) % cqSize v →
      exec (.cqHeadWrite l q value) s = .next (sameTime s (badBell s q 4 value.toNat)))) ∧
  (∀ (s : State) (l : HLink) (q : QueueId) (value : BitVec 32), alive s = true → inertPage s l q = false →
    (queueOf s q).state ≠ .active → ∀ i, i = Instr.sqTailWrite l q value ∨ i = .cqHeadWrite l q value →
    exec i s = .next { s with job := { s.job with ignored := s.job.ignored + 1 } }) ∧
  (∀ (s : State) (l : HLink) (q : QueueId) (value : BitVec 32), alive s = true → inertPage s l q = true →
    exec (.inertDoorbellWrite l q) s = .next { s with job := { s.job with inert := s.job.inert + 1 } } ∧
    ∀ i, i = Instr.sqTailWrite l q value ∨ i = .cqHeadWrite l q value →
      exec i s = .next { s with job := { s.job with inert := s.job.inert + 1 } })

/-- Descriptors are fetched, jobs without accesses finish, and jobs complete, time out and are aborted. Rules: R199, R201,
R202, R204, R205, R207, R213, R214, R216, R226, R227, 07 Job queues. The pointers of the active queues are compared,
and the next queue in turn that may fetch has its fetch made. A fetch that comes back to an active queue with agreeing
pointers moves the head unless it was chained, and its job enters the queue with the next JOBSEQ: a good descriptor,
whose next one is noted; a bad one; a line of poison, as a failed part; a refused fetch has its record written and
stops the queue with E-0x282. A NOP finishes; a FENCE is armed, and finishes when its condition holds. A MIGRATE
release of an orphan's line frees its sector. A job with nothing left has its status chosen and its record written. A
job past its limit, and a job named by an abort, end their release of steps and lose the steps that wait; an abort of
a job whose record is being written, or of none, answers RANGE. -/
def Obligations.JobsAreFetchedAndComplete : Prop :=
  (∀ (s : State), alive s = true → presented s = true →
    (∀ q, (queueOrder (checkPointers s) (checkPointers s).job.rr.toNat).find? (mayFetch (checkPointers s)) = some q →
      exec .descriptorFetch s = .next (sameTime s (fetchFor { checkPointers s with
        job := { (checkPointers s).job with rr := q + 1 } } q))) ∧
    ((queueOrder (checkPointers s) (checkPointers s).job.rr.toNat).find? (mayFetch (checkPointers s)) = none →
      exec .descriptorFetch s = .next (sameTime s (checkPointers s)))) ∧
  (∀ (s t : State) (q : QueueId) (a : SA) (chained : Bool) (g : Got) (n : Nat) (v : QueueS), alive s = true →
    ptrsOk (queueOf s q) = true → (queueOf s q).state = .active → (queueOf s q).fetching = some (a, chained, n) →
    (queueOf s q).fetched = some g → v = { queueOf s q with fetching := none, fetched := none } →
    t = setQueue s q (if chained then v else setSqHead v ((v.sqHead.toNat + 1) % sqSize v)) →
    (g.bad = none → (descOf g.data).flags.getLsbD 2 = false ∨ badDesc (descOf g.data) g.data = true →
      exec (.descriptorFetchReturn q) s =
        .next (sameTime s (addJob t (mkJob t q (descOf g.data) chained (badDesc (descOf g.data) g.data))))) ∧
    (g.bad = none → (descOf g.data).flags.getLsbD 2 = true → badDesc (descOf g.data) g.data = false →
      exec (.descriptorFetchReturn q) s = .next (sameTime s (modQueue (addJob t (mkJob t q (descOf g.data) chained false)) q
        (fun v => { v with chain := some ((descOf g.data).next, if chained then n + 1 else 1) })))) ∧
    (g.bad = some .poisoned → exec (.descriptorFetchReturn q) s = .next (sameTime s (addJob t
      { mkJob t q Desc.zero chained false with finished := true, failed := [(0, 0, .poisoned)] }))) ∧
    (∀ e x, g.bad = some e → e ≠ .poisoned →
      x = { mkJob t q Desc.zero chained false with finished := true, failed := [(0, 0, e)] } →
      exec (.descriptorFetchReturn q) s = .next (sameTime s (raise
        (modQueue (writeRecord (addJob t x) x (jobStatus x) true) q (fun v => { v with state := .stopped, why := 3 }))
        0x282 167 [(2, q.toNat)])))) ∧
  (∀ (s : State) (q : QueueId) (j : JobSeq), alive s = true →
    exec (.nop q j) s = .next (modJob s q j (fun x =>
      if x.d.opcode == opNop && !x.bad then { x with finished := true } else x)) ∧
    exec (.fence q j) s = .next (modJob s q j (fun x =>
      if x.d.opcode == opFence && !x.bad then { x with cut := 1 } else x))) ∧
  (∀ (s : State) (q : QueueId) (j : JobSeq) (x : Job), alive s = true → jobOf s q j = some x → x.d.opcode = opFence →
    x.cut = 1 → fenceHolds s x = true →
    exec (.fenceComplete q j) s = .next (modJob s q j (fun x => { x with finished := true }))) ∧
  (∀ (s : State) (sa : SA) (dla : DLA) (w : Nat), alive s = true → homeOf s sa = some (devId s, dla) →
    wayOfDla s dla = some w → (tagAt s (tagKey (benchOfDla dla) (lsOfDla dla) w)).state = .orphan →
    exec (.migrateReleaseLine sa) s = .next (sameTime s
      (doMigrateRelease.freeOrphanSector s (tagKey (benchOfDla dla) (lsOfDla dla) w) (secOfDla dla)))) ∧
  (∀ (s : State) (q : QueueId) (j : JobSeq) (x : Job), alive s = true → jobOf s q j = some x → jobOver s x = true →
    exec (.jobComplete q j) s = .next (sameTime s (completeJob s x))) ∧
  (∀ (s : State) (q : QueueId) (j : JobSeq) (x : Job) (n : Nat), alive s = true → jobOf s q j = some x →
    x.limit = some n → n * 1000000 ≤ since s x.tstart → x.recording = false → x.timedOut = false → x.reset = false →
    jobOver s x = false →
    exec (.jobTimeout q j) s = .next (sameTime s (noteDrained (purgeAll
      (modJob s q j (fun x => { x with timedOut := true })) (mineStep q j))))) ∧
  (∀ (s : State) (acc : Accessor) (q : QueueId) (j : JobSeq), alive s = true → passes s acc queueGate = true →
    (∀ x, jobOf s q j = some x → x.recording = false →
      exec (.jobAbort acc q j) s = .next (sameTime s (replied acc .ok 0 (noteDrained (purgeAll
        (modJob (entered s acc) q j (fun x => { x with aborted := true })) (mineStep q j)))))) ∧
    (jobOf s q j = none ∨ (∃ x, jobOf s q j = some x ∧ x.recording = true) →
      exec (.jobAbort acc q j) s = .next (sameTime s (replied acc .range 0 (entered s acc)))))

/-- Queues are reset, restarted and destroyed; an engine leaves service and returns. Rules: R202, R227, R228, R229, R243,
R244, 07 Job queues, 08 Check values. A reset and a destruction of a queue in use that is not being reset start its
reset: it stops, its epoch advances, its jobs are marked; a free queue answers RANGE, one being reset
QUIESCE_REQUIRED. When nothing of the queue runs or is in flight and it has no job left, the reset completes: both
copies of every pointer are 0, the phase is 1, and E-0x280 is raised; a destroyed queue is free, its epoch advanced
and its counts kept. A stopped queue that needs no reset restarts. A parity fault in an idle engine takes it out of
service, counts and raises E-0x2C1, and E-0x2C2 for the last one; in a busy engine it stops the step, which ends when
its loads have returned. A write returns an engine to service. -/
def Obligations.QueuesAreResetAndEnginesServe : Prop :=
  (∀ (s : State) (acc : Accessor) (q : QueueId), alive s = true → passes s acc queueGate = true →
    ((queueOf s q).state ≠ .free → (queueOf s q).resetting = false →
      exec (.queueReset acc q) s = .next (sameTime s (replied acc .ok 0 (startReset (entered s acc) q 1 false))) ∧
      exec (.queueDestroy acc q) s = .next (sameTime s (replied acc .ok 0 (startReset (entered s acc) q 1 true)))) ∧
    (∀ i, i = Instr.queueReset acc q ∨ i = .queueDestroy acc q →
      ((queueOf s q).state = .free → exec i s = .next (sameTime s (replied acc .range 0 (entered s acc)))) ∧
      ((queueOf s q).state ≠ .free → (queueOf s q).resetting = true →
        exec i s = .next (sameTime s (replied acc .quiesceRequired 0 (entered s acc)))))) ∧
  (∀ (s : State) (q : QueueId), alive s = true → resetReady s q = true → (∀ x ∈ s.job.jobs, x.q ≠ q) →
    ((queueOf s q).destroying = false →
      exec (.queueResetComplete q) s = .next (sameTime s (raise (setQueue (loseQueueResv s q) q (zeroQueue (queueOf s q)))
        0x280 167 [(2, q.toNat), (1, (queueOf s q).why.toNat), (2, (queueOf s q).lost)]))) ∧
    ((queueOf s q).destroying = true →
      exec (.queueResetComplete q) s = .next (sameTime s (setQueue (loseQueueResv s q) q
        { QueueS.init with epoch := (queueOf s q).epoch + 1, done := (queueOf s q).done })))) ∧
  (∀ v : QueueS, (zeroQueue v).sqHead = 0 ∧ (zeroQueue v).sqHead2 = 0 ∧ (zeroQueue v).sqTail = 0 ∧ (zeroQueue v).sqTail2 = 0 ∧
    (zeroQueue v).cqHead = 0 ∧ (zeroQueue v).cqHead2 = 0 ∧ (zeroQueue v).cqTail = 0 ∧ (zeroQueue v).cqTail2 = 0 ∧
    (zeroQueue v).phase = true ∧ (zeroQueue v).jobseq = 0 ∧ (zeroQueue v).ctx = v.ctx ∧ (zeroQueue v).epoch = v.epoch) ∧
  (∀ (s : State) (acc : Accessor) (q : QueueId), alive s = true → passes s acc queueGate = true →
    ((queueOf s q).state = .stopped → (queueOf s q).resetting = false → (queueOf s q).why ≠ 3 → (queueOf s q).why ≠ 4 →
      exec (.queueRestart acc q) s = .next (sameTime s (replied acc .ok 0 (setQueue (entered s acc) q
        { queueOf s q with state := .active, why := 0 })))) ∧
    ((queueOf s q).state = .stopped → (queueOf s q).resetting = true ∨ (queueOf s q).why = 3 ∨ (queueOf s q).why = 4 →
      exec (.queueRestart acc q) s = .next (sameTime s (replied acc .quiesceRequired 0 (entered s acc)))) ∧
    ((queueOf s q).state = .active →
      exec (.queueRestart acc q) s = .next (sameTime s (replied acc .ok 0 (entered s acc)))) ∧
    ((queueOf s q).state = .free →
      exec (.queueRestart acc q) s = .next (sameTime s (replied acc .range 0 (entered s acc))))) ∧
  (∀ (s : State) (e : BitVec 5), alive s = true → (engineOf s e.toNat).service = true →
    ((engineOf s e.toNat).busy = none →
      exec (.engineParityFault e) s = .next (sameTime s (engineOut s e.toNat 0 0))) ∧
    (∀ b q j, (engineOf s e.toNat).busy = some (b, q, j) → exec (.engineParityFault e) s =
      .next (sameTime s (doStepEnd (modRun s b (fun r => { r with stop := true, parity := true })) b)))) ∧
  (∀ (s : State) (e : Nat) (q : QueueId) (j : JobSeq),
    engineOf (engineOut s e q j) e = { engineOf s e with service := false, busy := none } ∧
    (engineOut s e q j).job.ckParity = s.job.ckParity + 1) ∧
  (∀ (s : State) (acc : Accessor) (e : BitVec 5), alive s = true → passes s acc plainGate = true →
    exec (.engineReturnToService acc e) s = .next (sameTime s (replied acc .ok 0
      (setEngine (entered s acc) e.toNat { engineOf s e.toNat with service := true }))))

/-- Scrub steps are scheduled, scrub is switched and paced, and the log is acknowledged. Rules: R257, R259, R264, 09 Data
array. A bench that is behind its schedule and has no step out gets a SCRUB step for its next set; one with nothing
due, a step out or 8 steps waiting does not. A pass that has ended and whose period is over gives way to a new one
first, and a lag of more than 4,096 sets raises E-0x306 once first. Nothing is scheduled while scrub is off. Writes of
1 and 0 to the scrub enable restart every bench with a new pass and stop scrub; a period of 1 to 168 hours is taken
and every bench keeps its position; other values are RANGE; an acknowledged sequence number is kept. -/
def Obligations.ScrubAndLogWritesComplete : Prop :=
  (∀ (s : State) (b : Bench), alive s = true → presented s = true → s.rel.scrubOn = true →
    ((benchOf s b).scrubDone.toNat ≠ 32768 ∨ since s (benchOf s b).scrubStart < scrubNs s →
      (scrubLag s b ≤ 4096 ∨ (benchOf s b).scrubRaised = true →
        (0 < scrubLag s b → (benchOf s b).scrubNext = (benchOf s b).scrubDone.setWidth 15 →
          (benchOf s b).pending.length < 8 →
          exec (.scrubSchedule b) s = .next (setBench s b { benchOf s b with
            scrubNext := (benchOf s b).scrubNext + 1
            pending := (benchOf s b).pending ++ [{ deviceStep .scrub b (benchOf s b).scrubNext.toNat 1024 1024 with
              jobseq := (benchOf s b).scrubPass.setWidth 16 }] })) ∧
        (scrubLag s b = 0 ∨ (benchOf s b).scrubNext ≠ (benchOf s b).scrubDone.setWidth 15 ∨
          8 ≤ (benchOf s b).pending.length → exec (.scrubSchedule b) s = .next s)) ∧
      (4096 < scrubLag s b → (benchOf s b).scrubRaised = false → exec (.scrubSchedule b) s =
        exec (.scrubSchedule b) (raise (modBench s b (fun v => { v with scrubRaised := true })) 0x306 (clusterIsland b)
          [(2, b.toNat)]))) ∧
    ((benchOf s b).scrubDone.toNat = 32768 → scrubNs s ≤ since s (benchOf s b).scrubStart → ∀ t, t = setBench s b
        { benchOf s b with
          scrubPass := (benchOf s b).scrubPass + 1, scrubStart := (benchOf s b).scrubStart + BitVec.ofNat 64 (scrubNs s)
          scrubNext := 0, scrubDone := 0, scrubRaised := false } → (benchOf t b).scrubDone = 0 →
      exec (.scrubSchedule b) s = exec (.scrubSchedule b) t)) ∧
  (∀ (s : State) (b : Bench), alive s = true → s.rel.scrubOn = false ∨ presented s = false →
    exec (.scrubSchedule b) s = .next s) ∧
  (∀ (s : State) (acc : Accessor), alive s = true → passes s acc plainGate = true →
    exec (.scrubEnableWrite acc 1) s = .next (sameTime s (replied acc .ok 0
      (scrubRestart { entered s acc with rel := { s.rel with scrubOn := true } } true))) ∧
    exec (.scrubEnableWrite acc 0) s = .next (sameTime s (replied acc .ok 0 { entered s acc with
      rel := { s.rel with scrubOn := false }
      cache := { s.cache with bench := s.cache.bench.map (fun p => (p.1, { p.2 with
        pending := p.2.pending.filter (fun t => t.kind != .scrub) })) } })) ∧
    (∀ v : BitVec 8, 2 ≤ v.toNat →
      exec (.scrubEnableWrite acc v) s = .next (sameTime s (replied acc .range 0 (entered s acc)))) ∧
    (∀ v : BitVec 8, 1 ≤ v.toNat → v.toNat ≤ 168 →
      exec (.scrubPeriodWrite acc v) s = .next (sameTime s (replied acc .ok 0
        (scrubRestart { entered s acc with rel := { s.rel with scrubPeriod := v } } false)))) ∧
    (∀ v : BitVec 8, v = 0 ∨ 168 < v.toNat →
      exec (.scrubPeriodWrite acc v) s = .next (sameTime s (replied acc .range 0 (entered s acc))))) ∧
  (∀ (s : State) (acc : Accessor) (seq : BitVec 32), alive s = true → passes s acc plainGate = true →
    exec (.logAcknowledge acc seq) s = .next (sameTime s (replied acc .ok 0
      { entered s acc with rel := { s.rel with logAck := seq } })))

/-- Flip masks of stacks and benches are armed and disarmed under the unlock. Rules: R266, R267, R430, 09 Data array. A
write of HBC_FLIP_CTL with ARM = 1 to a disarmed block of a selection in range takes the selection, clears DONE where
bit 8 says so, and arms. To an armed block it leaves the selection, and is OK where it names the same one, else
QUIESCE_REQUIRED; bit 8 acts. A write with ARM = 0 disarms, and takes a selection in range. A selection out of range
at a disarmed block is RANGE, and a write with ARM = 0 has disarmed. The same of BFLIP_CTL with a target of 0 or 1.
The status is recorded in the block and answered. -/
def Obligations.FlipMasksArmAndDisarm : Prop :=
  (∀ (s : State) (acc : Accessor) (st : Stack) (value : BitVec 32) (n : BitVec 32) (f : HbcFlip), alive s = true →
    passesWl s acc (flipGate st.toNat 0) = true →
    (n = value ||| 1 → f = { flipOf s st.toNat with
        msel := (n >>> 9).setWidth 3, match_ := n.getLsbD 2, meta_ := n.getLsbD 1, arm := true
        done := (flipOf s st.toNat).done && !n.getLsbD 8 } →
      ((flipOf s st.toNat).arm = false → (n >>> 9).setWidth 3 ≤ (4 : BitVec 3) →
        exec (.hbcFlipArm acc st value) s = .next (sameTime s (replied acc .ok 0 (flipNote st.toNat .ok
          (setFlip (entered s acc) st.toNat f))))) ∧
      ((flipOf s st.toNat).arm = false → (4 : BitVec 3) < (n >>> 9).setWidth 3 →
        exec (.hbcFlipArm acc st value) s = .next (sameTime s (replied acc .range 0 (flipNote st.toNat .range
          (entered s acc))))) ∧
      ((flipOf s st.toNat).arm = true → (flipOf s st.toNat).msel = f.msel → (flipOf s st.toNat).match_ = f.match_ →
        (flipOf s st.toNat).meta_ = f.meta_ →
        exec (.hbcFlipArm acc st value) s = .next (sameTime s (replied acc .ok 0 (flipNote st.toNat .ok
          (setFlip (entered s acc) st.toNat f))))) ∧
      ((flipOf s st.toNat).arm = true →
        ((flipOf s st.toNat).msel ≠ f.msel ∨ (flipOf s st.toNat).match_ ≠ f.match_ ∨ (flipOf s st.toNat).meta_ ≠ f.meta_) →
        exec (.hbcFlipArm acc st value) s = .next (sameTime s (replied acc .quiesceRequired 0
          (flipNote st.toNat .quiesceRequired (setFlip (entered s acc) st.toNat
            { flipOf s st.toNat with done := (flipOf s st.toNat).done && !n.getLsbD 8 })))))) ∧
    (n = value &&& ~~~1 →
      ((n >>> 9).setWidth 3 ≤ (4 : BitVec 3) →
        exec (.hbcFlipDisarm acc st value) s = .next (sameTime s (replied acc .ok 0 (flipNote st.toNat .ok
          (setFlip (entered s acc) st.toNat { flipOf s st.toNat with
            msel := (n >>> 9).setWidth 3, match_ := n.getLsbD 2, meta_ := n.getLsbD 1, arm := false
            done := (flipOf s st.toNat).done && !n.getLsbD 8 }))))) ∧
      ((4 : BitVec 3) < (n >>> 9).setWidth 3 →
        exec (.hbcFlipDisarm acc st value) s = .next (sameTime s (replied acc .range 0 (flipNote st.toNat .range
          (setFlip (entered s acc) st.toNat { flipOf s st.toNat with arm := false }))))))) ∧
  (∀ (s : State) (acc : Accessor) (b : Bench) (value : BitVec 32) (n : BitVec 32), alive s = true →
    passesWl s acc (bflipGate b 0) = true →
    (n = value ||| 1 →
      ((benchOf s b).flipArm = false → (n >>> 16).setWidth 2 ≤ (1 : BitVec 2) →
        exec (.bflipArm acc b value) s = .next (sameTime s (replied acc .ok 0 (bflipNote b .ok
          (setBench (entered s acc) b { benchOf s b with flipTgt := (n >>> 16).setWidth 2, flipArm := true
                                                         flipDone := (benchOf s b).flipDone && !n.getLsbD 8 }))))) ∧
      ((benchOf s b).flipArm = false → (1 : BitVec 2) < (n >>> 16).setWidth 2 →
        exec (.bflipArm acc b value) s = .next (sameTime s (replied acc .range 0 (bflipNote b .range (entered s acc))))) ∧
      ((benchOf s b).flipArm = true → ∀ e, e = (if (benchOf s b).flipTgt = (n >>> 16).setWidth 2 then DStatus.ok
          else .quiesceRequired) →
        exec (.bflipArm acc b value) s = .next (sameTime s (replied acc e 0 (bflipNote b e
          (setBench (entered s acc) b { benchOf s b with
            flipDone := (benchOf s b).flipDone && !n.getLsbD 8 })))))) ∧
    (n = value &&& ~~~1 →
      ((n >>> 16).setWidth 2 ≤ (1 : BitVec 2) →
        exec (.bflipDisarm acc b value) s = .next (sameTime s (replied acc .ok 0 (bflipNote b .ok
          (setBench (entered s acc) b { benchOf s b with flipTgt := (n >>> 16).setWidth 2, flipArm := false
                                                         flipDone := (benchOf s b).flipDone && !n.getLsbD 8 }))))) ∧
      ((1 : BitVec 2) < (n >>> 16).setWidth 2 →
        exec (.bflipDisarm acc b value) s = .next (sameTime s (replied acc .range 0 (bflipNote b .range
          (setBench (entered s acc) b { benchOf s b with flipArm := false })))))))

/-- Rows are remapped, stacks retired, and auto-persisted changes committed. Rules: R268, R270, R271, R391, R399, 09 Data
array. A write of a codeword address that need not wait (log entry 122) starts the remap, or answers and notes why it
cannot; an address outside the rows is RANGE; while an asked remap, or one of the stack, runs it joins those that
wait, which the end of a remap serves in order. When a running remap has moved every codeword of its row, the mapping
is entered, noted as the last remap and persisted, logged and raised; one that meets a metadata codeword that cannot
be corrected ends in containment. A stack starts to retire, a capacity change; with an orphan it is QUIESCE_REQUIRED,
once retired or retiring nothing more happens. When none of its blocks is valid or an orphan its retirement completes:
it is retired, in the mask of the next start too, and E-0x30A is raised. With an auto-persisted change waiting and no
commit running the engine starts a commit; else nothing happens. -/
def Obligations.RemapsAndRetirementsComplete : Prop :=
  (∀ (s t : State) (acc : Accessor) (st : Stack) (cw : BitVec 32) (e : DStatus), alive s = true →
    passes s acc plainGate = true →
    ((remapHeld s st.toNat = true ∨ s.rel.remapAsks ≠ []) → exec (.rowRemap acc st cw) s = .next (sameTime s
      { entered s acc with rel := { s.rel with
        remapAsks := s.rel.remapAsks ++ [⟨st.toNat, cw.toNat, (normAcc acc, none)⟩] } })) ∧
    (remapHeld s st.toNat = false → s.rel.remapAsks = [] → cw.toNat < 2 ^ 31 →
      remapStart (entered s acc) st.toNat cw.toNat false = (t, e) →
      (e = .ok → exec (.rowRemap acc st cw) s = .next (sameTime s (replied acc .ok 0 t))) ∧
      (e ≠ .ok → exec (.rowRemap acc st cw) s = .next (sameTime s (replied acc e 0
        { t with rel := { t.rel with lastRemap := (e, st, cw.setWidth 31, 0) } })))) ∧
    (remapHeld s st.toNat = false → s.rel.remapAsks = [] → 2 ^ 31 ≤ cw.toNat →
      exec (.rowRemap acc st cw) s = .next (sameTime s (replied acc .range 0 (entered s acc))))) ∧
  (∀ (s t : State) (st : Stack) (k : Nat) (r : RemapRun) (done : Bool), alive s = true →
    s.rel.remapRun.find? (fun p => p.1 == st.toNat) = some (k, r) →
    (List.range 32).foldl (fun (a : State × Bool) col => if a.2 then moveCw a.1 st.toNat r.cw.toNat r.spare.toNat col else a)
      ({ s with rel := { s.rel with
        remapRun := tput ⟨0, 0, false, []⟩ s.rel.remapRun st.toNat ⟨0, 0, false, []⟩ } }, true) = (t, done) →
    exec (.rowRemapComplete st) s = .next (sameTime s (settleRemaps (if done then nextRemap (remapDone t st r) st.toNat else t)))) ∧
  (∀ (s : State) (acc : Accessor) (st : Stack), alive s = true → passes s acc guardGate = true →
    (stackKeys s st (· == .orphan) = [] → s.rel.retired.getLsbD st.toNat = false → s.rel.retiring.contains st = false →
      exec (.stackRetire acc st) s = .next (sameTime s (replied acc .ok 0 (capChange
        { entered s acc with rel := { s.rel with retiring := s.rel.retiring ++ [st] } } .benches)))) ∧
    (stackKeys s st (· == .orphan) ≠ [] →
      exec (.stackRetire acc st) s = .next (sameTime s (replied acc .quiesceRequired 0 (entered s acc)))) ∧
    (stackKeys s st (· == .orphan) = [] → s.rel.retired.getLsbD st.toNat = true ∨ s.rel.retiring.contains st = true →
      exec (.stackRetire acc st) s = .next (sameTime s (replied acc .ok 0 (entered s acc))))) ∧
  (∀ (s t : State) (st : Stack), alive s = true → s.rel.retiring.contains st = true →
    stackKeys s st (fun b => b == .valid || b == .orphan) = [] →
    t = dropRecords s (s.cache.resident.filter (fun k => stackOf (benchOfKey k) == st)) →
    (stood s t = true → ∃ u, u = { t with
        rel := { t.rel with retiring := t.rel.retiring.filter (· != st), retired := t.rel.retired ||| bit st.toNat
                            retiredMask := t.rel.retiredMask ||| bit st.toNat }
        hen := { t.hen with pending := t.hen.pending.filter (fun e => !(e.group == 0x50 && e.item == 0x35)) } } ∧
      exec (.stackRetireComplete st) s =
        .next (sameTime s (raise (persistChange u) 0x30A (144 + st.toNat) [(1, st.toNat)]))) ∧
    (stood s t = false → exec (.stackRetireComplete st) s = .next (sameTime s t))) ∧
  (∀ (s : State) (st : Stack), alive s = true → s.rel.retiring.contains st = false ∨
    stackKeys s st (fun b => b == .valid || b == .orphan) ≠ [] → exec (.stackRetireComplete st) s = .next s) ∧
  (∀ (s : State), alive s = true →
    (s.rel.persistSince ≠ none → s.hen.commitRun = none → engineUp s = true →
      exec .autoPersistCommit s = .next (sameTime s (startCommit s))) ∧
    (s.rel.persistSince = none ∨ s.hen.commitRun ≠ none ∨ engineUp s = false → exec .autoPersistCommit s = .next s))

/-- Containment is entered by command and by notice, and its steps end. Rules: R272, R273, R275, R371, 09 Data array. A
guarded write of 7 and a notice from another member of the domain enter containment with causes 7 and 5; another value
is RANGE, and a notice from this device or from no member does nothing. The answer deadline passes 600 ns after entry.
The write-back puts what fits into the eviction queues, and ends in the declaration when nothing reachable is left; at
its limit what is left counts as lost. With auto-reset, the hold that has passed asks for a containment reset, unless
a sensor is still at its limit after a thermal cause. Before its time, and outside its phase, none of these does
anything. -/
def Obligations.ContainmentStepsComplete : Prop :=
  (∀ (s : State) (acc : Accessor) (v : Byte), alive s = true → passes s acc containGate = true →
    exec (.enterContainment acc 7) s = .next (sameTime s (replied acc .ok 0 (contain (entered s acc) 7 164))) ∧
    (v ≠ 7 → exec (.enterContainment acc v) s = .next (sameTime s (replied acc .range 0 (entered s acc))))) ∧
  (∀ (u s : State) (src : DevId), s = ctlIn u src → alive s = true →
    (s.peer.members.getLsbD src.toNat = true → src ≠ devId s →
      exec (.contain src) u = .next (sameTime s (contain s 5 164))) ∧
    (s.peer.members.getLsbD src.toNat = false ∨ src = devId s → exec (.contain src) u = .next s)) ∧
  (∀ (s : State), alive s = true → s.dev.stage = .containment →
    (s.rel.cphase = .stop → 600 ≤ since s s.rel.entered →
      exec .answerDeadline s = .next (sameTime s (passDeadline s))) ∧
    (s.rel.cphase ≠ .stop ∨ since s s.rel.entered < 600 → exec .answerDeadline s = .next s) ∧
    (s.rel.cphase = .writeBack → writtenBack (pump s) = true → exec .containmentWritebackComplete s =
      .next { tryReset (declare (pump s)) with pending := s.pending }) ∧
    (s.rel.cphase = .writeBack → writtenBack (pump s) = false → exec .containmentWritebackComplete s =
      .next { tryReset (pump s) with pending := s.pending }) ∧
    (s.rel.cphase = .writeBack → s.rel.wbLimit.toNat * 1000000 ≤ since s s.rel.wbStart →
      exec .writebackLimitExpiry s = .next { tryReset (declare (loseSectors s
        (sumNat (((dirtyKeys s).filter (reachable s)).map (dirtyCount s)) +
         sumNat (s.cache.bench.map (fun p => p.2.evq.length))))) with pending := s.pending }) ∧
    (s.rel.cphase = .writeBack → since s s.rel.wbStart < s.rel.wbLimit.toNat * 1000000 →
      exec .writebackLimitExpiry s = .next { tryReset s with pending := s.pending }) ∧
    (s.rel.cphase = .holding → s.rel.autoReset = true → s.rel.holdEnd ≤ s.now → stillWarm s = false →
      exec .containmentHoldExpiry s = .next { askReset s .containment s.dev.straps with pending := s.pending }) ∧
    (s.rel.cphase ≠ .holding ∨ s.rel.autoReset = false ∨ s.now < s.rel.holdEnd ∨ stillWarm s = true →
      exec .containmentHoldExpiry s = .next s))

/-- Entry into containment changes the stage, records the cause, drops haul work and disarms every stack's flip mask.
Rules: R272, R273, R266, 09 Data array. From MEMORY_ACTIVE, entry into containment for a cause leaves the device in
stage CONTAINMENT in its first step, with the cause and the time of entry recorded and the four results zero; no flip
block of a stack is armed, no bench holds a waiting, queued or stolen step, and every running step issues nothing
more; tag records, the data array, windows and links are as before. -/
def Obligations.EntryIntoContainmentRecordsItsCause : Prop :=
  ∀ (s : State) (cause island : Nat), s.dev.stage = .memoryActive →
    (contain s cause island).dev.stage = .containment ∧ (contain s cause island).rel.cphase = .stop ∧
    (contain s cause island).rel.cause = BitVec.ofNat 8 cause ∧ (contain s cause island).rel.entered = s.now ∧
    (contain s cause island).rel.resWritten = 0 ∧ (contain s cause island).rel.resLost = 0 ∧
    (contain s cause island).rel.resSkipped = 0 ∧ (contain s cause island).rel.resDiscarded = 0 ∧
    (∀ p ∈ (contain s cause island).rel.flip, p.2.arm = false) ∧
    (∀ p ∈ (contain s cause island).cache.bench, p.2.deque = [] ∧ p.2.pending = [] ∧ p.2.incoming = [] ∧
      ∀ r, p.2.running = some r → r.stop = true) ∧
    (contain s cause island).cache.tags = s.cache.tags ∧ (contain s cause island).rel.array = s.rel.array ∧
    (contain s cause island).region = s.region

/-- Quads, host links, decoders, function-level resets, IDE keys and configuration requests complete. Rules: R284, R285,
R286, R290, R291, R292, R293, R297, R301. A legal quad record on a quad with no slot up or training is taken and its
links are held; on a busy quad it is QUIESCE_REQUIRED, an illegal one RANGE. A host link parameter write that does not
move the socket of a link that is up is taken whole, and a new class is a capacity change; else it is
QUIESCE_REQUIRED. A decoder that passes its checks is committed, one that does not is marked not committed. A
function-level reset of a member clears the mailbox reply, the MSI-X state and AER status and nothing else of the
function, drops its mailbox command in progress and those that wait, and is counted. IDE keys on a member in L0 start
IDE with nothing unverified. While a member's CXL.io is up and PERST# is not asserted, a configuration read is
answered with its doubleword, a BAR write aligns the base to the BAR's size, a memory enable is taken if CXL.mem is up
too, and an MSI-X control write sends what was pending; before FIRMWARE the answer is CRS. On a member that does not
exist, or is down, these do nothing. -/
def Obligations.PortConfigurationCompletes : Prop :=
  (∀ (s : State) (acc : Accessor) (q : Quad) (value : BitVec 32) (new : Tab (BitVec 32)), alive s = true →
    passes s acc critGate = true → new = tput 0 s.port.quad q.toNat value →
    (quadSetOk new = true → quadBusy s q.toNat = false →
      exec (.quadConfigWrite acc q value) s = .next (sameTime s (replied acc .ok 0
        ((List.range 4).foldl (fun s k => setLink s (4 * q.toNat + k) { linkOf s (4 * q.toNat + k) with
            state := .held, width := 0, speed := 0, reversed := false, faults := [], polarity := 0, cause := 0 })
          { entered s acc with port := { s.port with quad := new } })))) ∧
    (quadSetOk new = true → quadBusy s q.toNat = true →
      exec (.quadConfigWrite acc q value) s = .next (sameTime s (replied acc .quiesceRequired 0 (entered s acc)))) ∧
    (quadSetOk new = false →
      exec (.quadConfigWrite acc q value) s = .next (sameTime s (replied acc .range 0 (entered s acc))))) ∧
  (∀ (s t : State) (acc : Accessor) (l : HLink) (value : BitVec 32), alive s = true → passes s acc critGate = true →
    t = setHlink (entered s acc) l { hlinkOf s l with
        telem := value.getLsbD 9, idereq := value.getLsbD 8, hsock := (value >>> 2).setWidth 4
        cls := classOf (value.setWidth 2) } →
    ((value >>> 2).setWidth 4 = (hlinkOf s l).hsock ∨ hostUp s l = false →
      exec (.hostLinkParamWrite acc l value) s = .next (sameTime s (replied acc .ok 0
        (if classOf (value.setWidth 2) = (hlinkOf s l).cls then t else capChange t (.linkClass l))))) ∧
    ((value >>> 2).setWidth 4 ≠ (hlinkOf s l).hsock → hostUp s l = true →
      exec (.hostLinkParamWrite acc l value) s = .next (sameTime s (replied acc .quiesceRequired 0 (entered s acc))))) ∧
  (∀ (s : State) (l : HLink) (i : BitVec 2) (base size skip : BitVec 64) (iw ig : BitVec 4) (d : Hdm), alive s = true →
    d = ⟨base, size, skip, iw, ig, false, false⟩ →
      exec (.hdmDecoderCommit l i base size skip iw ig) s = .next (sameTime s (run
        (setHlink s l { hlinkOf s l with hdm := tput Hdm.init (hlinkOf s l).hdm i.toNat { d with
          committed := hdmOk s l i.toNat d, notCommitted := !hdmOk s l i.toNat d } })))) ∧
  (∀ (s : State) (l : HLink) (m : BitVec 2), alive s = true →
    ((membersOf s l).any (fun t => t.1 == m.toNat) = true →
      exec (.functionLevelReset l m) s = .next (countReset (setFn (dropMailbox s l m) l m { fnOf s l m with
        reply := [], msixEnable := false, msixMask := false, msixOpen := [], msixTable := [], msixPend := [], aer := 0 })
        .flr 6)) ∧
    ((membersOf s l).any (fun t => t.1 == m.toNat) = false → exec (.functionLevelReset l m) s = .next s)) ∧
  (∀ (s : State) (l : HLink) (m : BitVec 2) (p : Nat), alive s = true → memberPort s l m = some p →
    ((linkOf s p).state = .l0 →
      exec (.ideKeyProgramming l m) s = .next (setLink s p { linkOf s p with ide := true, unverified := [] })) ∧
    ((linkOf s p).state ≠ .l0 → exec (.ideKeyProgramming l m) s = .next s)) ∧
  (∀ (s : State) (l : HLink) (m : BitVec 2) (r : CfgReq), alive s = true → memberPort s l m = none →
    exec (.ideKeyProgramming l m) s = .next s ∧ exec (.configurationRequest l m r) s = .next s) ∧
  (∀ (s : State) (l : HLink) (m : BitVec 2) (p : Nat), alive s = true → memberPort s l m = some p →
    (memberUp s l m = true ∨ (linkOf s p).state = .ioOnly → (hlinkOf s l).perst = false →
      (∀ r, s.dev.stage = .rom ∨ s.dev.stage = .power →
        exec (.configurationRequest l m r) s = .next (emit s (.crs l m))) ∧
      (s.dev.stage ≠ .rom → s.dev.stage ≠ .power →
        (∀ off, exec (.configurationRequest l m (.read off)) s =
          .next (emit (takeFree s) (.cpl l m [configDword (fnOf s l m) (off.toNat / 4 * 4) s.freeCount]))) ∧
        (∀ b base v k, k = min b.toNat 2 → v = BitVec.ofNat 64 (base.toNat / barSize k * barSize k) →
          exec (.configurationRequest l m (.barWrite b base)) s =
            .next (emit (setFn s l m { fnOf s l m with bar := tput 0 (fnOf s l m).bar k v }) (.cpl l m []))) ∧
        (∀ on, exec (.configurationRequest l m (.memEnable on)) s = .next (emit (setFn s l m { fnOf s l m with
          memEnable := on && (linkOf s p).state != .ioOnly }) (.cpl l m []))) ∧
        (∀ en mask, exec (.configurationRequest l m (.msixControl en mask)) s = .next (sameTime s (emit (msixFlush
          (setFn s l m { fnOf s l m with msixEnable := en, msixMask := mask }) l m) (.cpl l m [])))))) ∧
    ((memberUp s l m = false ∧ (linkOf s p).state ≠ .ioOnly) ∨ (hlinkOf s l).perst = true →
      ∀ r, exec (.configurationRequest l m r) s = .next s))

/-- Links train, go down by event and command, and follow PERST#. Rules: R299, R300, R302, R310, R315, R321, R342, R360.
Training that ends on a link in training takes the link to what its result says. A member link that is up, or up for
CXL.io, goes down with cause 6 as its role says; so does a peer link by its number. The assertion of a PERST# that was
not asserted is counted, takes every member down and gives the link's traffic up; its deassertion trains the members
where ports are live. A link-down command takes each member of a host link down, an expander link with no enabled
window to DISABLED, through REMOVING while requests are out, and a peer link whose loss leaves every route to
draining, or down if it was not up; a drained link goes down with nothing to reconcile. A link-train command trains a
host link that is not under PERST# and has a member down, an expander link that is down or REJECTED, and a peer link
that is down. Where the spec turns the command away it answers RANGE or QUIESCE_REQUIRED. -/
def Obligations.LinkTrainingAndLossComplete : Prop :=
  (∀ (s : State) (p : Port) (r : TrainResult), alive s = true →
    (∀ q n t, slotAt s p.toNat = some (q, n, t) → (linkOf s p.toNat).state = .training →
      exec (.linkTrainingComplete p r) s = .next (keepTime s (trained s p.toNat n t r))) ∧
    (slotAt s p.toNat = none ∨ (linkOf s p.toNat).state ≠ .training → exec (.linkTrainingComplete p r) s = .next s)) ∧
  (∀ (s : State) (p cause reason q n : Nat) (t : Slot), slotAt s p = some (q, n, t) →
    portUp s p = true ∨ (linkOf s p).state = .ioOnly →
    (t.role = .host → wentDown s p cause reason = hostDown s (t.lnum.setWidth 3) p cause) ∧
    (t.role = .expander → wentDown s p cause reason = expanderDown s t.lnum p cause reason) ∧
    (t.role = .peer → wentDown s p cause reason = peerDown s t.lnum.toNat p cause false) ∧
    (t.role = .idle → wentDown s p cause reason = s)) ∧
  (∀ (s : State) (p cause reason : Nat), slotAt s p = none ∨ (portUp s p = false ∧ (linkOf s p).state ≠ .ioOnly) →
    wentDown s p cause reason = s) ∧
  (∀ (s : State) (p : Port), alive s = true → exec (.memberLinkDown p) s = .next (keepTime s (wentDown s p.toNat 6 0x10))) ∧
  (∀ (s : State) (l : PLink), alive s = true → plinkOk l = true →
    (∀ p, plPort s l.toNat = some p →
      exec (.peerLinkDown l) s = .next (keepTime s (wentDown s p 6 0x10)) ∧
      ((linkOf s p).draining = true →
        exec (.peerLinkDrained l) s = .next (keepTime s (peerDown s l.toNat p 4 true))) ∧
      ((linkOf s p).draining = false → exec (.peerLinkDrained l) s = .next s)) ∧
    (plPort s l.toNat = none →
      exec (.peerLinkDown l) s = .next s ∧ exec (.peerLinkDrained l) s = .next s)) ∧
  (∀ (s : State) (l : HLink), alive s = true →
    ((hlinkOf s l).perst = false →
      exec (.perstAssert l) s = .next (sameTime s (run (goneLink ((membersOf s l).foldl (perstMember l)
        (countReset (setHlink s l { hlinkOf s l with perst := true }) .perst 5)) l)))) ∧
    ((hlinkOf s l).perst = true → exec (.perstAssert l) s = .next s) ∧
    (portsLive s = true →
      exec (.perstDeassert l) s = .next (sameTime s (trainHost (setHlink s l { hlinkOf s l with perst := false }) l))) ∧
    (portsLive s = false → exec (.perstDeassert l) s = .next (setHlink s l { hlinkOf s l with perst := false }))) ∧
  (∀ (s : State) (acc : Accessor) (num : Byte), alive s = true → passes s acc plainGate = true →
    (∀ r, r = Role.idle ∨ 32 ≤ num.toNat ∨ leadsOf s r num.toNat = [] →
      exec (.linkDownCommand acc r num) s = .next (keepTime s (replied acc .range 0 (entered s acc))) ∧
      exec (.linkTrainCommand acc r num) s = .next (sameTime s (replied acc .range 0 (entered s acc)))) ∧
    (num.toNat < 32 → leadsOf s .host num.toNat ≠ [] → exec (.linkDownCommand acc .host num) s = .next (keepTime s
      (replied acc .ok 0 ((leadsOf s .host num.toNat).foldl (fun s p =>
        if portUp s p || (linkOf s p).state == .ioOnly then hostDown s (num.setWidth 3) p 4
        else setLink s p { linkOf s p with state := .down }) (entered s acc))))) ∧
    (∀ x : XLink, num = x.setWidth 8 → leadsOf s .expander x.toNat ≠ [] →
      (untargeted s x = false → exec (.linkDownCommand acc .expander num) s =
        .next (keepTime s (replied acc .quiesceRequired 0 (entered s acc)))) ∧
      (untargeted s x = true → xlUp s x = true → s.cache.xreqs.any (fun r => r.xl == x) = true →
        exec (.linkDownCommand acc .expander num) s =
          .next (keepTime s (replied acc .ok 0 (dropAssay (setX (entered s acc) x .removing 0x14) x)))) ∧
      (untargeted s x = true → xlUp s x = false ∨ s.cache.xreqs.any (fun r => r.xl == x) = false →
        portUp s (xPort s x) = true → exec (.linkDownCommand acc .expander num) s = .next (keepTime s (replied acc .ok 0
          (tryLocalReady (setX (downState (dropAssay (entered s acc) x) (xPort s x) 4) x .disabled 0x14))))) ∧
      (untargeted s x = true → xlUp s x = false ∨ s.cache.xreqs.any (fun r => r.xl == x) = false →
        portUp s (xPort s x) = false → exec (.linkDownCommand acc .expander num) s = .next (keepTime s (replied acc .ok 0
          (tryLocalReady (setX (setLink (entered s acc) (xPort s x) { linkOf s (xPort s x) with state := .down })
            x .disabled 0x14)))))) ∧
    (∀ p, num.toNat < 32 → plPort s num.toNat = some p →
      (wouldSplit (entered s acc) num.toNat = true →
        exec (.linkDownCommand acc .peer num) s = .next (keepTime s (replied acc .range 0 (entered s acc)))) ∧
      (wouldSplit (entered s acc) num.toNat = false → portUp s p = true → exec (.linkDownCommand acc .peer num) s =
        .next (keepTime s (replied acc .ok 0
          (topology (setLink (entered s acc) p { linkOf s p with draining := true }))))) ∧
      (wouldSplit (entered s acc) num.toNat = false → portUp s p = false → exec (.linkDownCommand acc .peer num) s =
        .next (keepTime s (replied acc .ok 0 (setLink (entered s acc) p { linkOf s p with state := .down })))))) ∧
  (∀ (s : State) (acc : Accessor) (num : Byte), alive s = true → passes s acc plainGate = true → num.toNat < 32 →
    (∀ r, r ≠ Role.idle → leadsOf s r num.toNat ≠ [] → portsLive s = false → exec (.linkTrainCommand acc r num) s =
      .next (sameTime s (replied acc .quiesceRequired 0 (entered s acc)))) ∧
    (portsLive s = true →
      (∀ l : HLink, l = num.setWidth 3 → leadsOf s .host num.toNat ≠ [] →
        ((hlinkOf s l).perst = false → (leadsOf s .host num.toNat).any (trainable s) = true →
          exec (.linkTrainCommand acc .host num) s =
            .next (sameTime s (replied acc .ok 0 (trainHost (entered s acc) l)))) ∧
        ((hlinkOf s l).perst = true ∨ (leadsOf s .host num.toNat).any (trainable s) = false →
          exec (.linkTrainCommand acc .host num) s =
            .next (sameTime s (replied acc .quiesceRequired 0 (entered s acc))))) ∧
      (∀ x : XLink, x = num.setWidth 5 → leadsOf s .expander num.toNat ≠ [] →
        ((trainable s (xPort s x) || (xlinkOf s x).state == .rejected) = true →
          exec (.linkTrainCommand acc .expander num) s =
            .next (sameTime s (replied acc .ok 0 (startX (entered s acc) x 0x14)))) ∧
        ((trainable s (xPort s x) || (xlinkOf s x).state == .rejected) = false →
          exec (.linkTrainCommand acc .expander num) s =
            .next (sameTime s (replied acc .quiesceRequired 0 (entered s acc))))) ∧
      (∀ p, plPort s num.toNat = some p →
        (trainable s p = true → exec (.linkTrainCommand acc .peer num) s =
          .next (sameTime s (replied acc .ok 0 (startTraining (entered s acc) p)))) ∧
        (trainable s p = false → exec (.linkTrainCommand acc .peer num) s =
          .next (sameTime s (replied acc .quiesceRequired 0 (entered s acc)))))))

/-- Link errors are counted, retrains start and end, an IDE failure poisons, and flits leave. Rules: R298, R303, R304,
R305, R306, R307, R308, R333, R159. A correctable event of a link that is up adds one to its count of CRC errors or of
NAKs and to its events, and excuses what the link carries; at the threshold in L0 an expander link retrains, another
opens its grace window. A window tick clears every link's events. A grace window whose limits are reached or that has
no urgent flit ends in a retrain; an uncorrectable error is raised and retrains, or is raised alone during a retrain.
A retrain that finds a candidate set brings the link back at that width and speed, and what was held for it is
delivered; with none, or after 24 ms, the link goes down. An IDE failure raises both events, poisons the lines of
unverified writes and takes the link down. With the cut-through threshold assembled, a host member in L0 puts every
queued response in its slot, in a grace window the urgent one of the earliest deadline, and a peer link sends a flit,
in a grace window an urgent one. Elsewhere nothing happens. -/
def Obligations.LinkErrorsAndRetrainComplete : Prop :=
  (∀ (s t : State) (p : Port) (nak : Bool), alive s = true →
    (portUp s p.toNat = true → roleAt s p.toNat ≠ .idle → t = linkFault (setLink s p.toNat { linkOf s p.toNat with
        crc := if nak then (linkOf s p.toNat).crc else (linkOf s p.toNat).crc + 1
        naks := if nak then (linkOf s p.toNat).naks + 1 else (linkOf s p.toNat).naks
        events := (linkOf s p.toNat).events + 1 }) p.toNat →
      (t.port.thr = 0 ∨ (linkOf t p.toNat).events < t.port.thr.toNat ∨ (linkOf t p.toNat).state ≠ .l0 →
        exec (.correctableEvent p nak) s = .next (keepTime s t)) ∧
      (t.port.thr ≠ 0 → t.port.thr.toNat ≤ (linkOf t p.toNat).events → (linkOf t p.toNat).state = .l0 →
        (roleAt t p.toNat = .expander →
          exec (.correctableEvent p nak) s = .next (keepTime s (startRetrain t p.toNat false))) ∧
        (roleAt t p.toNat ≠ .expander →
          exec (.correctableEvent p nak) s = .next (keepTime s (peerChange (linkFault (raiseFirst
            (setLink t p.toNat { linkOf t p.toNat with state := .grace, graceStart := t.now, graceSent := 0
                                                       graces := (linkOf t p.toNat).graces + 1 })
            0x0A0 p.toNat []) p.toNat) p.toNat))))) ∧
    (portUp s p.toNat = false ∨ roleAt s p.toNat = .idle → exec (.correctableEvent p nak) s = .next s)) ∧
  (∀ (s : State), alive s = true → twf LinkS.init s.port.link = true → ∃ t, exec .thresholdWindowTick s = .next t ∧
    (∀ p, linkOf t p = { linkOf s p with events := 0 }) ∧ t = { s with port := { s.port with link := t.port.link } }) ∧
  (∀ (s : State) (p : Port), alive s = true →
    ((linkOf s p.toNat).state = .grace → 16 ≤ (linkOf s p.toNat).graceSent ∨
      200 ≤ since s (linkOf s p.toNat).graceStart ∨ urgentQueued s p.toNat = false →
      exec (.graceWindowEnd p) s = .next (sameTime s (startRetrain s p.toNat false))) ∧
    ((linkOf s p.toNat).state ≠ .grace ∨ ((linkOf s p.toNat).graceSent < 16 ∧
      since s (linkOf s p.toNat).graceStart < 200 ∧ urgentQueued s p.toNat = true) →
      exec (.graceWindowEnd p) s = .next s)) ∧
  (∀ (s : State) (p : Port), alive s = true →
    (portUp s p.toNat = true → roleAt s p.toNat ≠ .idle → (linkOf s p.toNat).state ≠ .recovery →
      exec (.uncorrectableLinkError p) s =
        .next (keepTime s (peerChange (startRetrain (raiseFirst s 0x0A1 p.toNat []) p.toNat true) p.toNat))) ∧
    (roleAt s p.toNat ≠ .idle → (linkOf s p.toNat).state = .recovery →
      exec (.uncorrectableLinkError p) s = .next (keepTime s (raiseFirst s 0x0A1 p.toNat []))) ∧
    (portUp s p.toNat = false ∨ roleAt s p.toNat = .idle → exec (.uncorrectableLinkError p) s = .next s)) ∧
  (∀ (s : State) (p : Port) (r : TrainResult) (l : List (BitVec 4)), alive s = true →
    (∀ q n t, slotAt s p.toNat = some (q, n, t) → (linkOf s p.toNat).state = .recovery →
      l = relock (linkOf s p.toNat).faults r.lanes (4 * n) →
      (∀ w rev, chooseWidth l (linkOf s p.toNat).width = some (w, rev) →
        exec (.retrainComplete p r) s = .next (keepTime s (deliverHeld (peerChange
          (relocked (retrainWait s p.toNat) p.toNat l w rev (retrainSpeed (linkOf s p.toNat) r)) p.toNat)))) ∧
      (chooseWidth l (linkOf s p.toNat).width = none →
        exec (.retrainComplete p r) s = .next (keepTime s (wentDown
          (setLink s p.toNat { linkOf s p.toNat with faults := l }) p.toNat 0x0B 0x10)))) ∧
    (slotAt s p.toNat = none ∨ (linkOf s p.toNat).state ≠ .recovery → exec (.retrainComplete p r) s = .next s) ∧
    ((linkOf s p.toNat).state = .recovery → 24000000 ≤ since s (linkOf s p.toNat).retrainStart →
      exec (.retrainTimeout p) s = .next (keepTime s (wentDown s p.toNat 6 0x11))) ∧
    ((linkOf s p.toNat).state ≠ .recovery ∨ since s (linkOf s p.toNat).retrainStart < 24000000 →
      exec (.retrainTimeout p) s = .next s)) ∧
  (∀ (s : State) (p : Port), alive s = true →
    (portUp s p.toNat = true → (linkOf s p.toNat).ide = true →
      exec (.ideIntegrityFailure p) s = .next (keepTime s (wentDown (poisonLines
        (raise (raiseFirst (takeFree s) 0x0A1 p.toNat []) 0x0A2 p.toNat []) (unverifiedLines s p.toNat)) p.toNat 7 0x10))) ∧
    (portUp s p.toNat = false ∨ (linkOf s p.toNat).ide = false → exec (.ideIntegrityFailure p) s = .next s)) ∧
  (∀ (s : State) (p : Port) (n : BitVec 9) (q k : Nat) (t : Slot), alive s = true → s.port.cut.toNat ≤ n.toNat →
    s.clk.unlocked.contains p.toNat = false → slotAt s p.toNat = some (q, k, t) →
    (t.role = .host → ∀ mine : Resp → Bool, mine = (fun v => v.link == t.lnum.setWidth 3 &&
        v.member == memberOfPort s (t.lnum.setWidth 3) p.toNat && !v.left && !v.inFlit) →
      ((linkOf s p.toNat).state = .l0 → exec (.flitTransmit p n) s = .next { s with port := { s.port with
        resp := mapIf mine (fun v => { v with inFlit := true }) s.port.resp } }) ∧
      ((linkOf s p.toNat).state = .grace → (linkOf s p.toNat).graceSent < 16 →
        since s (linkOf s p.toNat).graceStart ≤ 200 →
        (∀ v, urgentResp (s.port.resp.filter (fun v => mine v && v.cls == .vermilion)) = some v →
          ∃ u, u = setLink s p.toNat { linkOf s p.toNat with
            graceSent := (linkOf s p.toNat).graceSent + 1, urgent := (linkOf s p.toNat).urgent + 1 } ∧
          exec (.flitTransmit p n) s = .next { u with port := { u.port with
            resp := mapIf (fun x => x.id == v.id) (fun x => { x with inFlit := true }) s.port.resp } }) ∧
        (urgentResp (s.port.resp.filter (fun v => mine v && v.cls == .vermilion)) = none →
          exec (.flitTransmit p n) s = .next s))) ∧
    (t.role = .peer →
      ((linkOf s p.toNat).state = .l0 →
        exec (.flitTransmit p n) s = .next (sameTime s (peerFlit s t.lnum.toNat false).1)) ∧
      ((linkOf s p.toNat).state = .grace → (linkOf s p.toNat).graceSent < 16 →
        since s (linkOf s p.toNat).graceStart ≤ 200 → ∀ u sent, peerFlit s t.lnum.toNat true = (u, sent) →
        exec (.flitTransmit p n) s = .next (sameTime s (if sent then setLink u p.toNat { linkOf u p.toNat with
          graceSent := (linkOf u p.toNat).graceSent + 1, urgent := (linkOf u p.toNat).urgent + 1 } else u)))) ∧
    ((t.role ≠ .host ∧ t.role ≠ .peer) ∨ ((linkOf s p.toNat).state ≠ .l0 ∧ (linkOf s p.toNat).state ≠ .grace) ∨
      ((linkOf s p.toNat).state = .grace ∧
        (16 ≤ (linkOf s p.toNat).graceSent ∨ 200 < since s (linkOf s p.toNat).graceStart)) →
      exec (.flitTransmit p n) s = .next s)) ∧
  (∀ (s : State) (p : Port) (n : BitVec 9), alive s = true → n.toNat < s.port.cut.toNat ∨
    s.clk.unlocked.contains p.toNat = true ∨ slotAt s p.toNat = none → exec (.flitTransmit p n) s = .next s)

/-- Expanders are found, enumerated, removed, lost and found again. Rules: R288, R311, R312, R313, R314, R315, R316, R317,
R360. A receiver on an empty configured link starts its training where ports are live. Enumeration in state ENUM of a
device with every requirement of R312 and R313 met makes the link READY with what the device said of itself, and of
one that fails rejects it with the first failing reason, its serial number recorded where the reason is found after
that step; after a second it is rejected with reason 5. A removal of a link that is up, with no enabled window on it,
starts, and ends in DISABLED when no request is outstanding; with an enabled window it is QUIESCE_REQUIRED, of a link
that is not up RANGE. The loss of a link in states 2 to 6 of Table 10-7 ends at once as R316 says. The receiver of a
REJECTED link disappears to EMPTY, and of a LOST link returns to training. An AER message of a link in states 2 to 6
is kept with it. In every other state these do nothing. -/
def Obligations.ExpanderStatesComplete : Prop :=
  (∀ (s : State) (x : XLink), alive s = true →
    (portsLive s = true → leadsOf s .expander x.toNat ≠ [] → (xlinkOf s x).state = .empty →
      exec (.expanderDetectPoll x true) s = .next (sameTime s (startX s x 0))) ∧
    exec (.expanderDetectPoll x false) s = .next s ∧
    (portsLive s = false ∨ leadsOf s .expander x.toNat = [] ∨ (xlinkOf s x).state ≠ .empty →
      exec (.expanderDetectPoll x true) s = .next s)) ∧
  (∀ (s : State) (x : XLink) (r : XIdent), alive s = true →
    ((xlinkOf s x).state = .enum → enumReason s x r = 0 → exec (.enumerationComplete x r) s =
      .next (sameTime s (tryLocalReady (setX (identified s x r) x .ready 0)))) ∧
    ((xlinkOf s x).state = .enum → enumReason s x r ≠ 0 → exec (.enumerationComplete x r) s =
      .next (sameTime s (tryLocalReady (setX (if enumReason s x r ∈ [3, 4, 6] then
        setXlink s x { xlinkOf s x with serial := r.serial } else s) x .rejected (enumReason s x r))))) ∧
    ((xlinkOf s x).state ≠ .enum → exec (.enumerationComplete x r) s = .next s)) ∧
  (∀ (s : State) (x : XLink), alive s = true →
    ((xlinkOf s x).state = .enum → 1000000000 ≤ since s (xlinkOf s x).enumStart →
      exec (.enumTimeout x) s = .next (sameTime s (tryLocalReady (setX s x .rejected 5)))) ∧
    ((xlinkOf s x).state ≠ .enum ∨ since s (xlinkOf s x).enumStart < 1000000000 →
      exec (.enumTimeout x) s = .next s)) ∧
  (∀ (s : State) (acc : Accessor) (x : XLink), alive s = true → passes s acc plainGate = true →
    (xlUp s x = true → untargeted s x = true → exec (.managedRemoval acc x) s =
      .next (sameTime s (replied acc .ok 0 (dropAssay (setX (entered s acc) x .removing 0x14) x)))) ∧
    (xlUp s x = true → untargeted s x = false → exec (.managedRemoval acc x) s =
      .next (sameTime s (replied acc .quiesceRequired 0 (entered s acc)))) ∧
    (xlUp s x = false → exec (.managedRemoval acc x) s =
      .next (sameTime s (replied acc .range 0 (entered s acc))))) ∧
  (∀ (s : State) (x : XLink), alive s = true →
    ((xlinkOf s x).state = .removing → s.cache.xreqs.any (fun r => r.xl == x) = false →
      exec (.managedRemovalComplete x) s = .next (sameTime s (setX (downState s (xPort s x) 4) x .disabled 0x14))) ∧
    ((xlinkOf s x).state ≠ .removing ∨ s.cache.xreqs.any (fun r => r.xl == x) = true →
      exec (.managedRemovalComplete x) s = .next s)) ∧
  (∀ (s : State) (x : XLink), alive s = true →
    (xLosable s x = true → portUp s (xPort s x) = true → exec (.expanderLoss x) s =
      .next (sameTime s (tryLocalReady (loseExpander (downState s (xPort s x) 6) x 0x10)))) ∧
    (xLosable s x = true → portUp s (xPort s x) = false → exec (.expanderLoss x) s =
      .next (sameTime s (tryLocalReady (loseExpander s x 0x10)))) ∧
    (xLosable s x = false → exec (.expanderLoss x) s = .next s)) ∧
  (∀ (s : State) (x : XLink), alive s = true →
    ((xlinkOf s x).state = .rejected →
      exec (.receiverDisappears x) s = .next (sameTime s (setX (setLink s (xPort s x) { linkOf s (xPort s x) with
        state := .empty, width := 0, speed := 0 }) x .empty 0))) ∧
    ((xlinkOf s x).state ≠ .rejected → exec (.receiverDisappears x) s = .next s) ∧
    ((xlinkOf s x).state = .lost → portsLive s = true →
      exec (.expanderReturns x) s = .next (sameTime s (startX s x 0))) ∧
    ((xlinkOf s x).state ≠ .lost ∨ portsLive s = false → exec (.expanderReturns x) s = .next s)) ∧
  (∀ (s : State) (x : XLink) (sev : BitVec 2) (status : BitVec 32), alive s = true →
    (xLosable s x = true → exec (.aerReceived x sev status) s =
      .next (setXlink s x { xlinkOf s x with aer := (sev, status) :: (xlinkOf s x).aer })) ∧
    (xLosable s x = false → exec (.aerReceived x sev status) s = .next s))

/-- The CXL mailbox commands that read answer success with the fields their rules name. Rules: R318, R319, R320, R262,
R405. On a member function whose CXL.io is up, with no other mailbox command of its host link running or waiting, Get
Event Records, Get Event Interrupt Policy, Get FW Info, Get Supported Logs, Get Log inside the log, Identify Memory
Device, Get Health Info and Get Timestamp answer code 0 with their payload (a timestamp never set is a free value); a
Get Log that leaves the log is Invalid Input. A Get Poison List of a device without other members answers its own list
in the range asked, and with other members asks each of them on CTL. Every other opcode is answered Unsupported. While
one is running each joins those that wait (R318). On a function that is not up nothing answers. The payload's layout
is the model's (log entry 26). -/
def Obligations.MailboxReadsComplete : Prop :=
  (∀ (s : State) (l : HLink) (m : BitVec 2), alive s = true → ioUp s l m = true → mboxBusy s l = false →
    (∀ k : BitVec 2, exec (.getEventRecords l m k) s = .next (sameTime s (mboxReply s l m 0
      (b1 (b2n ((fnOf s l m).overflow.getLsbD k.toNat)) ++ b2 (logOf s l m k.toNat).length ++
        (logOf s l m k.toNat).flatMap eventBytes)))) ∧
    exec (.getEventInterruptPolicy l m) s = .next (sameTime s (mboxReply s l m 0 (fnOf s l m).policy)) ∧
    exec (.getFwInfo l m) s = .next (sameTime s (mboxReply s l m 0 (firmwareBytes s))) ∧
    exec (.getSupportedLogs l m) s = .next (sameTime s (mboxReply s l m 0 (b2 1 ++ b4 effectsLog.length))) ∧
    (∀ off len : BitVec 32,
      (off.toNat + len.toNat ≤ effectsLog.length → exec (.getLog l m off len) s =
        .next (sameTime s (mboxReply s l m 0 ((effectsLog.drop off.toNat).take len.toNat)))) ∧
      (effectsLog.length < off.toNat + len.toNat → exec (.getLog l m off len) s =
        .next (sameTime s (mboxReply s l m 2 [])))) ∧
    exec (.identifyMemoryDevice l m) s = .next (sameTime s (mboxReply s l m 0
      (b8 (capacity256 s) ++ b8 (capacity256 s) ++ b8 0 ++ b4 32768))) ∧
    exec (.getHealthInfo l m) s = .next (sameTime s (mboxReply s l m 0 (healthBytes s))) ∧
    ((fnOf s l m).tsBase = 0 → (fnOf s l m).tsAt = 0 → exec (.getTimestamp l m) s =
      .next (sameTime s (mboxReply (takeFree s) l m 0 (b8 (Config.freeValue s.freeCount).toNat)))) ∧
    ((fnOf s l m).tsBase ≠ 0 ∨ (fnOf s l m).tsAt ≠ 0 → exec (.getTimestamp l m) s = .next (sameTime s (mboxReply s l m 0
      (b8 ((fnOf s l m).tsBase + (s.now - (fnOf s l m).tsAt)).toNat)))) ∧
    (∀ base len : BitVec 64, others s = [] →
      exec (.getPoisonList l m base len) s = .next (sameTime s (poisonReply s l m base len s.rel.poison))) ∧
    (∀ base len : BitVec 64, others s ≠ [] →
      exec (.getPoisonList l m base len) s = .next (sameTime s ((others s).foldl (fun s d => ctlSend s d 0x0F [0])
        { s with peer := { s.peer with poisonAsk := s.peer.poisonAsk ++
          [⟨l, m, base, len, s.peer.members &&& ~~~(bit (devId s).toNat), s.rel.poison⟩] } }))) ∧
    (∀ op : BitVec 16, exec (.unsupportedMailboxCommand l m op) s = .next (sameTime s (mboxReply s l m 3 [])))) ∧
  (∀ (s : State) (l : HLink) (m k : BitVec 2) (x y : BitVec 64) (a b : BitVec 32) (op : BitVec 16), alive s = true →
    ioUp s l m = true → mboxBusy s l = true →
    ∀ p ∈ [(Instr.getEventRecords l m k, MboxCmd.getEvents k), (.getEventInterruptPolicy l m, .getPolicy),
      (.getFwInfo l m, .getFwInfo), (.getSupportedLogs l m, .getSupportedLogs), (.getLog l m a b, .getLog a b),
      (.identifyMemoryDevice l m, .identify), (.getHealthInfo l m, .getHealth), (.getTimestamp l m, .getTimestamp),
      (.getPoisonList l m x y, .getPoison x y), (.unsupportedMailboxCommand l m op, .other)],
      exec p.1 s = .next { s with hen := { s.hen with mwait := s.hen.mwait ++ [⟨l, m, p.2⟩] } }) ∧
  (∀ (s : State) (l : HLink) (m k : BitVec 2) (x y : BitVec 64) (a b : BitVec 32) (op : BitVec 16), alive s = true →
    ioUp s l m = false → ∀ i ∈ [Instr.getEventRecords l m k, .getEventInterruptPolicy l m, .getFwInfo l m,
      .getSupportedLogs l m, .getLog l m a b, .identifyMemoryDevice l m, .getHealthInfo l m, .getTimestamp l m,
      .getPoisonList l m x y, .unsupportedMailboxCommand l m op], exec i s = .next s)

/-- The CXL mailbox commands that write take effect and answer. Rules: R263, R318, R319, R405, R262, R27, R44. With no
other mailbox command of the host link running or waiting: Clear Event Records drops the named records, or all of them
and the overflow flag; a handle that names none is Invalid Handle. Set Event Interrupt Policy keeps its four bytes,
another length is Invalid Input; Set Timestamp keeps its value. Inject Poison and Clear Poison of an address below
2^48 are full-line writes by the management class at the home, answered when they complete, or at once with the code
of why they cannot be issued; an address above is refused. A Henos command of a legal length that parses is taken as
an arriving frame of the link; another is Invalid Input. A POISONQ request of another member is answered with this
device's list, and a reply joins the oldest ask that waits for its sender; from no other member it does nothing. While
one is running each mailbox command joins those that wait. On a function that is not up nothing happens. -/
def Obligations.MailboxWritesComplete : Prop :=
  (∀ (s : State) (l : HLink) (m : BitVec 2), alive s = true → ioUp s l m = true → mboxBusy s l = false →
    (∀ (k : BitVec 2) (handles : List (BitVec 16)),
      (handles.all (fun h => (logOf s l m k.toNat).any (fun e => e.1 == h)) = true →
        ∃ left, left = (logOf s l m k.toNat).filter (fun e => !handles.contains e.1) ∧
        exec (.clearEventRecords l m k false handles) s = .next (sameTime s (mboxReply
          (setFn s l m { fnOf s l m with events := tput [] (fnOf s l m).events k.toNat left }) l m 0 []))) ∧
      (handles.all (fun h => (logOf s l m k.toNat).any (fun e => e.1 == h)) = false →
        exec (.clearEventRecords l m k false handles) s = .next (sameTime s (mboxReply s l m 0xE [])))) ∧
    (∀ (k : BitVec 2) (handles : List (BitVec 16)),
      exec (.clearEventRecords l m k true handles) s = .next (sameTime s (mboxReply
        (setFn s l m { fnOf s l m with events := tput [] (fnOf s l m).events k.toNat []
                                       overflow := (fnOf s l m).overflow &&& ~~~(bit k.toNat) }) l m 0 []))) ∧
    (∀ policy : List Byte,
      (policy.length = 4 → exec (.setEventInterruptPolicy l m policy) s =
        .next (sameTime s (mboxReply (setFn s l m { fnOf s l m with policy := policy }) l m 0 []))) ∧
      (policy.length ≠ 4 → exec (.setEventInterruptPolicy l m policy) s =
        .next (sameTime s (mboxReply s l m 2 [])))) ∧
    (∀ v : BitVec 64, exec (.setTimestamp l m v) s =
      .next (sameTime s (mboxReply (setFn s l m { fnOf s l m with tsBase := v, tsAt := s.now }) l m 0 []))) ∧
    (∀ (sa : BitVec 64) (data : Line),
      (∀ t bad, sa.toNat < 2 ^ 48 → ncIssue s .ncWrite (.mbox l m) .management (lineSa (sa.setWidth 48)) 0
          (BitVec.allOnes 64) true 0 0 = (t, bad) →
        exec (.injectPoison l m sa) s = .next (sameTime s (if bad = none then t else mboxReply t l m (poisonCode bad) []))) ∧
      (∀ t bad, sa.toNat < 2 ^ 48 → ncIssue s .ncWrite (.mbox l m) .management (lineSa (sa.setWidth 48)) data
          (BitVec.allOnes 64) false 0 0 = (t, bad) →
        exec (.clearPoison l m sa data) s = .next (sameTime s (if bad = none then t else mboxReply t l m (poisonCode bad) []))) ∧
      (∀ i, i = Instr.injectPoison l m sa ∨ i = .clearPoison l m sa data → 2 ^ 48 ≤ sa.toNat →
        exec i s = .next (sameTime s (mboxReply (refuse s false 0 0xFF .management 0xFFFF 164) l m
          (poisonCode (some .unmapped)) [])))) ∧
    (∀ frame : List Byte,
      (24 ≤ frame.length → frame.length ≤ 1032 → (parseFrame m frame).isSome = true →
        exec (.henosMailboxCommand l m frame) s = .next (sameTime s (doArrival { s with hen := { s.hen with
          mbox := tput 0 s.hen.mbox l.toNat (m.setWidth 3 + 1) } } ⟨.mailbox, l, 0⟩ m frame))) ∧
      (24 ≤ frame.length → frame.length ≤ 1032 → parseFrame m frame = none →
        exec (.henosMailboxCommand l m frame) s =
          .next (sameTime s (mboxReply (doArrival s ⟨.mailbox, l, 0⟩ m frame) l m 2 []))) ∧
      (frame.length < 24 ∨ 1032 < frame.length →
        exec (.henosMailboxCommand l m frame) s = .next (sameTime s (mboxReply s l m 2 []))))) ∧
  (∀ (s : State) (l : HLink) (m k : BitVec 2) (all : Bool) (hs : List (BitVec 16)) (bytes : List Byte) (v : BitVec 64)
    (data : Line), alive s = true → ioUp s l m = true → mboxBusy s l = true →
    ∀ p ∈ [(Instr.clearEventRecords l m k all hs, MboxCmd.clearEvents k all hs),
      (.setEventInterruptPolicy l m bytes, .setPolicy bytes), (.setTimestamp l m v, .setTimestamp v),
      (.injectPoison l m v, .injectPoison v), (.clearPoison l m v data, .clearPoison v data),
      (.henosMailboxCommand l m bytes, .henos bytes)],
      exec p.1 s = .next { s with hen := { s.hen with mwait := s.hen.mwait ++ [⟨l, m, p.2⟩] } }) ∧
  (∀ (s : State) (l : HLink) (m k : BitVec 2) (all : Bool) (hs : List (BitVec 16)) (bytes : List Byte) (v : BitVec 64)
    (data : Line), alive s = true → ioUp s l m = false →
    ∀ i ∈ [Instr.clearEventRecords l m k all hs, .setEventInterruptPolicy l m bytes, .setTimestamp l m v,
      .injectPoison l m v, .clearPoison l m v data, .henosMailboxCommand l m bytes], exec i s = .next s) ∧
  (∀ (u s : State) (src : DevId) (lines : List SA), s = ctlIn u src → alive s = true →
    (fromMember s src = true → src ≠ devId s →
      exec (.poisonq src false lines) u =
        .next (sameTime s (ctlSend s src 0x0F (1 :: s.rel.poison.map (fun a => a.setWidth 64)))) ∧
      exec (.poisonq src true lines) u = .next (sameTime s (settleAsks { s with peer := { s.peer with
        poisonAsk := takeLists src lines s.peer.poisonAsk } }))) ∧
    (fromMember s src = false ∨ src = devId s → ∀ reply, exec (.poisonq src reply lines) u = .next s))

/-- The MCTP control commands are answered and the I3C target takes its addresses, reads and resets. Rules: R406, R407,
R415. On a member function whose CXL.io is up, Set Endpoint ID with operation 0 or 1 and a legal EID takes it and says
so, another is answered with an error code; Get Endpoint ID answers it, a version query of a supported type answers
one version (whose number is a value of Config), another an error code, Get Message Type Support answers types 0 and
7Eh, and the vendor support answers 4E5Ah; the codes are the model's (log entry 26). ENTDAA, and SETDASA to the static
address 30h plus the board identifier, set the dynamic address; SETDASA to another does nothing. A private read takes
the oldest response that is ready, else the oldest event of the first I3C subscriber that has one, else nothing; a
target reset discards the partial message, as more than 100 ms of idle bus do. -/
def Obligations.ManagementTransportsComplete : Prop :=
  (∀ (s : State) (l : HLink) (m : BitVec 2), alive s = true → ioUp s l m = true →
    (∀ (op : BitVec 2) (eid : Byte),
      (op.toNat < 2 → eid ≠ 0 → eid ≠ 0xFF → exec (.setEndpointId l m op eid) s =
        .next (emit (setFn s l m { fnOf s l m with eid := eid }) (.mctp l m [0, 0, eid, 0]))) ∧
      (2 ≤ op.toNat ∨ eid = 0 ∨ eid = 0xFF → exec (.setEndpointId l m op eid) s = .next (emit s (.mctp l m [2])))) ∧
    exec (.getEndpointId l m) s = .next (emit s (.mctp l m [0, (fnOf s l m).eid, 0, 0])) ∧
    (∀ type : Byte,
      (type = 0xFF ∨ type = 0 ∨ type = 0x7E → exec (.getMctpVersionSupport l m type) s =
        .next (emit s (.mctp l m ([0, 1] ++ (List.range 4).map (fun k =>
          Config.openByte (2 ^ 41 + 4 * type.toNat + k)))))) ∧
      (type ≠ 0xFF → type ≠ 0 → type ≠ 0x7E → exec (.getMctpVersionSupport l m type) s =
        .next (emit s (.mctp l m [0x80])))) ∧
    exec (.getMessageTypeSupport l m) s = .next (emit s (.mctp l m [0, 2, 0x00, 0x7E])) ∧
    exec (.getVendorDefinedMessageSupport l m) s = .next (emit s (.mctp l m [0, 0xFF, 0, 0x4E, 0x5A, 0, 0]))) ∧
  (∀ (s : State) (l : HLink) (m op : BitVec 2) (eid type : Byte), alive s = true → ioUp s l m = false →
    ∀ i ∈ [Instr.setEndpointId l m op eid, .getEndpointId l m, .getMctpVersionSupport l m type,
      .getMessageTypeSupport l m, .getVendorDefinedMessageSupport l m], exec i s = .next s) ∧
  (∀ (s : State) (a b : BitVec 7), alive s = true →
    exec (.entdaa a) s = .next { s with hen := { s.hen with i3cAddr := a } } ∧
    (a.toNat = 0x30 + (devId s).toNat →
      exec (.setdasa a b) s = .next { s with hen := { s.hen with i3cAddr := b } }) ∧
    (a.toNat ≠ 0x30 + (devId s).toNat → exec (.setdasa a b) s = .next s) ∧
    (∀ f t, s.hen.i3cReady = f :: t →
      exec .i3cPrivateRead s = .next (emit { s with hen := { s.hen with i3cReady := t } } (.i3c f))) ∧
    (∀ u, s.hen.i3cReady = [] → s.hen.subs.find? (fun u => u.acc.transport == .i3c && !u.queue.isEmpty) = some u →
      exec .i3cPrivateRead s = .next (emit (emit { s with hen := { s.hen with subs := s.hen.subs.map (fun x =>
        if x.acc == u.acc then { x with queue := x.queue.drop 1 } else x) } }
        (.event u.acc (u.queue.headD []))) (.i3c (u.queue.headD [])))) ∧
    (s.hen.i3cReady = [] → s.hen.subs.find? (fun u => u.acc.transport == .i3c && !u.queue.isEmpty) = none →
      exec .i3cPrivateRead s = .next s) ∧
    exec .i3cTargetReset s = .next { s with hen := { s.hen with i3cPartial := [] } } ∧
    (100000000 < since s s.hen.i3cSince →
      exec .i3cIdleTimeout s = .next { s with hen := { s.hen with i3cPartial := [] } }) ∧
    (since s s.hen.i3cSince ≤ 100000000 → exec .i3cIdleTimeout s = .next s))

/-- HELLO, LSA and the formation messages have their effects. Rules: R324, R325, R326, R344, R345, R346, R347, R348, R139.
A HELLO on a link that is up fences the link with the first failed check, an event, or passes it; a fenced link
repeats its HELLO after 10 ms. A newer LSA of another device is kept and flooded. A JOIN of a device of the domain
while forming replaces its earlier one; after COMMIT a device that is no member is told so. A WINDIR of the domain is
kept. A COMMIT while waiting, from the lowest device heard, that names this one is recorded; a READY of a member is
noted by the leader of a committed domain; ACTIVE from the leader in LOCAL_READY makes memory active; FAIL from the
domain fails a formation. The formation timeout tries again, and the ready timeout with a member missing fails all. In
every other case these change nothing. Each CTL message that arrives is counted (s holds the count). -/
def Obligations.FormationMessagesComplete : Prop :=
  (∀ (u s : State) (l : PLink) (h : HelloMsg), s = ctlIn u h.bid → alive s = true → plinkOk l = true →
    (plUp s l.toNat = true →
      (helloCause s h ≠ 0 → exec (.hello l h) u = .next (keepTime s (topology (raise (setPlink s l.toNat
        { plinkOf s l.toNat with peer := some h.bid, peerLink := h.link, fence := BitVec.ofNat 8 (helloCause s h), checked := false })
        0x342 164 [(1, helloCause s h)])))) ∧
      (helloCause s h = 0 → exec (.hello l h) u = .next (keepTime s (topology (tellLate (setPlink s l.toNat
        { plinkOf s l.toNat with peer := some h.bid, peerLink := h.link, fence := 0, checked := true, cross := crossDomain s h.bid })
        l.toNat h.bid))))) ∧
    (plUp u l.toNat = false → exec (.hello l h) u = .next u) ∧
    (plUp u l.toNat = true → (plinkOf u l.toNat).fence ≠ 0 → 10000000 ≤ since u (plinkOf u l.toNat).helloAt →
      exec (.helloRepeat l) u = .next (sameTime u (sendHello u l.toNat))) ∧
    (plUp u l.toNat = false ∨ (plinkOf u l.toNat).fence = 0 ∨ since u (plinkOf u l.toNat).helloAt < 10000000 →
      exec (.helloRepeat l) u = .next u)) ∧
  (∀ (u s : State) (l : PLink) (dev : DevId) (seq old : BitVec 32) (was units : BitVec 64), s = ctlNear u l.toNat →
    alive s = true → plinkOk l = true → tget (0, 0) s.peer.lsdb dev.toNat = (old, was) →
    (plPasses s l.toNat = true → dev ≠ devId s → seq ≠ old → (seq - old).msb = false → exec (.lsa l dev seq units) u =
      .next (keepTime s (topology (floodLsa (dbPut s dev seq units) dev seq units (some l.toNat))))) ∧
    (plPasses s l.toNat = true → dev = devId s ∨ seq = old ∨ (seq - old).msb = true →
      exec (.lsa l dev seq units) u = .next s) ∧
    (plPasses u l.toNat = false → exec (.lsa l dev seq units) u = .next u)) ∧
  (∀ (u s : State) (dev : DevId) (digest : BitVec 32) (socks : List (HostSock × BitVec 8)) (time : Time) (fw : BitVec 16),
    s = ctlIn u dev → alive s = true →
    (inDomain s dev = true → s.peer.form = .none ∨ s.peer.form = .waiting →
      exec (.join dev digest socks time fw) u = .next (keepTime s (tryForm { s with peer := { s.peer with
        joins := s.peer.joins.filter (fun k => k.dev != dev) ++ [⟨dev, digest, socks, time, fw, s.now⟩] } }))) ∧
    (inDomain s dev = true → committed s = true → s.peer.members.getLsbD dev.toNat = false →
      exec (.join dev digest socks time fw) u = .next (keepTime s (ctlSend s dev 0x07 [5]))) ∧
    (inDomain s dev = false ∨ s.peer.form = .failed ∨ (committed s = true ∧ s.peer.members.getLsbD dev.toNat = true) →
      exec (.join dev digest socks time fw) u = .next s)) ∧
  (∀ (u s : State) (dev : DevId) (l : List (WinId × DirEntry)), s = ctlIn u dev → alive s = true →
    (inDomain s dev = true → exec (.windir dev l) u = .next { s with contract := { s.contract with
      dir := l.foldl (fun t e => tput ⟨0, 0, .ash, false⟩ t (dev.toNat * 64 + e.1.toNat) e.2) s.contract.dir } }) ∧
    (inDomain s dev = false → exec (.windir dev l) u = .next s)) ∧
  (∀ (u s : State) (src : DevId) (mem : BitVec 8) (att : List (HostSock × DevId × BitVec 8)) (t : Time), s = ctlIn u src → alive s = true →
    (s.peer.form = .waiting → fromLowest s src = true → mem.getLsbD (devId s).toNat = true →
      exec (.commit src mem att t) u =
        .next (sameTime s (maybeReady (updateParent (updateSplit (recordCommit s src mem att)))))) ∧
    (s.peer.form ≠ .waiting ∨ fromLowest s src = false ∨ mem.getLsbD (devId s).toNat = false →
      exec (.commit src mem att t) u = .next s)) ∧
  (∀ (u s : State) (dev : DevId), s = ctlIn u dev → alive s = true →
    (s.peer.form = .committed → s.peer.leader = some (devId s) → s.peer.members.getLsbD dev.toNat = true →
      exec (.ready dev) u =
        .next (sameTime s (sendActive { s with peer := { s.peer with ready := s.peer.ready ||| bit dev.toNat } }))) ∧
    (s.peer.form ≠ .committed ∨ s.peer.leader ≠ some (devId s) ∨ s.peer.members.getLsbD dev.toNat = false →
      exec (.ready dev) u = .next s) ∧
    (s.peer.form = .committed → s.peer.leader = some dev → s.dev.stage = .localReady →
      exec (.active dev) u = .next (sameTime s (enterActive s))) ∧
    (s.peer.form ≠ .committed ∨ s.peer.leader ≠ some dev ∨ s.dev.stage ≠ .localReady →
      exec (.active dev) u = .next s)) ∧
  (∀ (u s : State) (src : DevId) (cause : Byte), s = ctlIn u src → alive s = true →
    (inDomain s src = true → s.peer.form = .waiting ∨ s.peer.form = .committed →
      exec (.fail src cause) u = .next (sameTime s (formFailed s cause.toNat))) ∧
    (inDomain s src = false ∨ (s.peer.form ≠ .waiting ∧ s.peer.form ≠ .committed) →
      exec (.fail src cause) u = .next s)) ∧
  (∀ (s : State), alive s = true →
    (formOver s = true → exec .formationTimeout s = .next (keepTime s (tryForm s))) ∧
    (formOver s = false → exec .formationTimeout s = .next s) ∧
    (s.peer.form = .committed → s.peer.leader = some (devId s) → s.peer.ready ≠ s.peer.members →
      s.peer.formTimeout.toNat * 1000000 ≤ since s s.peer.commitAt →
      exec .readyTimeout s = .next (sameTime s (failAll s (memberList s) 4))) ∧
    (s.peer.form ≠ .committed ∨ s.peer.leader ≠ some (devId s) ∨ s.peer.ready = s.peer.members ∨
      since s s.peer.commitAt < s.peer.formTimeout.toNat * 1000000 → exec .readyTimeout s = .next s))

/-- Board time is exchanged, lost links are reconciled, detours and splits follow their delays. Rules: R339, R340, R349,
R351. A sync interval sends one SYNCREQ to the parent, or while none is known to every neighbour, except from the time
leader. A SYNCREQ on a link that passes is answered with four values, its own time stepped forward first when the
child is ahead by more than the threshold. A SYNCRSP of the neighbour notes its hop count; one of the parent gives the
offset, locks time at the first exchange and corrects the rate at later ones. RECON on a frozen link sends again what
was not received; a buffer frozen for the reconciliation timeout raises E-0x347 once; a direct route lost for the
detour delay is given up for the best one; a split that has lasted the settle time enters containment with cause 4. In
every other case these change nothing. Each CTL message that arrives is counted (s holds the count). -/
def Obligations.BoardTimeAndLinkLossComplete : Prop :=
  (∀ (s : State), alive s = true →
    (∀ d, s.peer.parent = some d → exec .syncInterval s = .next (sameTime s (syncReqOn s d))) ∧
    (s.peer.parent = none → s.peer.hops ≠ 0 → exec .syncInterval s = .next (sameTime s
      ((((plList.filter (plPasses s)).filterMap (fun l => (plinkOf s l).peer)).eraseDups).foldl syncReqOn s))) ∧
    (s.peer.parent = none → s.peer.hops = 0 → exec .syncInterval s = .next s)) ∧
  (∀ (u s : State) (l : PLink) (src : DevId) (t1 : Time) (hops : Byte), s = ctlNear u l.toNat → alive s = true → plinkOk l = true →
    (plPasses s l.toNat = true →
      (s.peer.hops = 0xFF ∨ t1.toNat ≤ s.now.toNat + s.peer.syncFault.toNat →
        exec (.syncreq l src t1 hops) u =
          .next (ctlEmit s l.toNat 0x09 [t1, s.now, s.now, s.peer.hops.setWidth 64])) ∧
      (s.peer.hops ≠ 0xFF → s.now.toNat + s.peer.syncFault.toNat < t1.toNat →
        exec (.syncreq l src t1 hops) u = .next (keepTime s (ctlEmit (stepTime s t1) l.toNat 0x09
          [t1, s.now, t1, s.peer.hops.setWidth 64])))) ∧
    (plPasses u l.toNat = false → exec (.syncreq l src t1 hops) u = .next u)) ∧
  (∀ (u s t : State) (l : PLink) (src : DevId) (t1 t2 t3 t4 : Time) (hops : Byte), s = ctlIn u src → alive s = true → plinkOk l = true →
    (plPasses s l.toNat = true → (plinkOf s l.toNat).peer = some src →
      ((noteHops s src hops t3).peer.parent = some src →
        t = { noteHops s src hops t3 with peer := { (noteHops s src hops t3).peer with
          offset := BitVec.ofInt 64 (syncOffset t1 t2 t3 t4) } } →
        exec (.syncrsp l src t1 t2 t3 t4 hops) u = .next (keepTime s
          (if t.peer.lockedOnce then laterSync t (syncOffset t1 t2 t3 t4) else firstSync t (syncOffset t1 t2 t3 t4)))) ∧
      ((noteHops s src hops t3).peer.parent ≠ some src →
        exec (.syncrsp l src t1 t2 t3 t4 hops) u = .next (keepTime s (noteHops s src hops t3)))) ∧
    (plPasses u l.toNat = false ∨ (plinkOf u l.toNat).peer ≠ some src →
      exec (.syncrsp l src t1 t2 t3 t4 hops) u = .next u)) ∧
  (∀ (u s : State) (src : DevId) (pl : PLink) (last : BitVec 16), s = ctlIn u src → alive s = true → plinkOk pl = true →
    (∀ l, frozenLink s src pl = some l → exec (.recon src pl last) u = .next (sameTime s (reconciled s l last))) ∧
    (frozenLink s src pl = none → exec (.recon src pl last) u = .next s)) ∧
  (∀ (s : State) (l : PLink), alive s = true → plinkOk l = true →
    ((plinkOf s l.toNat).frozen = true → (plinkOf s l.toNat).late = false →
      s.peer.reconTimeout.toNat * 1000 ≤ since s (plinkOf s l.toNat).frozenAt →
      exec (.reconciliationTimeout l) s =
        .next (raise (setPlink s l.toNat { plinkOf s l.toNat with late := true }) 0x347 164 [(1, 3)])) ∧
    ((plinkOf s l.toNat).frozen = false ∨ (plinkOf s l.toNat).late = true ∨
      since s (plinkOf s l.toNat).frozenAt < s.peer.reconTimeout.toNat * 1000 →
      exec (.reconciliationTimeout l) s = .next s)) ∧
  (∀ (s : State) (d : DevId), alive s = true →
    (routeOf s d = .direct → availTo s d = [] → (domainDevs s).contains d = true → d ≠ devId s →
      s.peer.detourDelay.toNat * 1000 ≤ since s (tget 0 s.peer.lostAt d.toNat) →
      exec (.detourDelayExpiry d) s = .next (sameTime s (setRoute s d (rawRoute s d)))) ∧
    (routeOf s d ≠ .direct ∨ availTo s d ≠ [] ∨ (domainDevs s).contains d = false ∨ d = devId s ∨
      since s (tget 0 s.peer.lostAt d.toNat) < s.peer.detourDelay.toNat * 1000 →
      exec (.detourDelayExpiry d) s = .next s)) ∧
  (∀ (s : State), alive s = true →
    (∀ t, s.peer.splitSince = some t → splitNow s = true → s.peer.settle.toNat * 1000 ≤ since s t →
      exec .splitSettleExpiry s = .next (sameTime s (contain (raise s 0x345 164 []) 4 164))) ∧
    (s.peer.splitSince = none ∨ splitNow s = false → exec .splitSettleExpiry s = .next s) ∧
    (∀ t, s.peer.splitSince = some t → since s t < s.peer.settle.toNat * 1000 → exec .splitSettleExpiry s = .next s))

/-- Messages of members are received by their destination and passed on by an intermediate. Rules: R20, R35, R44, R273,
R326, R330, R334, R335, R336, R338, R341. On a link that carries the domain's traffic, a request, snoop, response or
data message of another member for this device is received and counted; one that names this device as intermediate
waits to leave toward its destination with its deadline, and another is dropped. An opcode that is none of its class
is discarded and counted. A received request, its poison logged first, joins its home bench with its contract's class
if MEMORY_ACTIVE, home, window and rights allow it; else it is refused and answered; in containment it is answered at
once. A salvaged message of another member is received as what it wraps. On another link, and from no member, nothing
happens. -/
def Obligations.PeerMessagesComplete : Prop :=
  (∀ (s : State) (l : PLink) (m : PeerReq), alive s = true → plinkOk l = true → carries s l.toNat m.src = true →
    (m.op ≠ .memInv .s → m.dst = devId s →
      exec (.peerReq l m) s = .next (sameTime s (reqIn s m (portOfPl s l.toNat)))) ∧
    (m.op ≠ .memInv .s → m.dst ≠ devId s → m.via = some (devId s) →
      exec (.peerReq l m) s = .next { s with peer := { s.peer with
        tx := s.peer.tx ++ [⟨m.dst, .req m, deadlineOf m.cls true (tinOf s m.tin), s.now⟩] } }) ∧
    (m.op ≠ .memInv .s → m.dst ≠ devId s → m.via ≠ some (devId s) → exec (.peerReq l m) s = .next s) ∧
    (m.op = .memInv .s → exec (.peerReq l m) s = .next (sameTime s (unknownOp s)))) ∧
  (∀ (s t : State) (m : PeerReq) (island : Nat),
    t = (if m.poison then notePoison (countRecv s m.src 0) 2 island m.sa else countRecv s m.src 0) →
    (s.dev.stage = .containment → reqIn s m island = containReq t m) ∧
    (presented s = false → s.dev.stage ≠ .containment → reqIn s m island = peerRefuse t m false 0xFF island) ∧
    (s.dev.stage = .memoryActive →
      (homeOf s m.sa = none → reqIn s m island = peerRefuse t m false 0xFF island) ∧
      (∀ d dla, homeOf s m.sa = some (d, dla) → d ≠ devId s →
        reqIn s m island = peerRefuse (raise t 0x184 164 []) m false 0xFF island) ∧
      (∀ dla, homeOf s m.sa = some (devId s, dla) →
        (windowAt s dla = none → reqIn s m island = peerRefuse t m false 0xFF island) ∧
        (∀ w, windowAt s dla = some w → rightsOk (winOf s w) m.rqk m.op = false →
          reqIn s m island = peerRefuse t m true w.toNat island) ∧
        (∀ w c, windowAt s dla = some w → rightsOk (winOf s w) m.rqk m.op = true →
          c = (if m.cls == .ash || !shareNames s m w then .ash else homeClass t w m.lcls m.cls) →
          reqIn s m island = run (arrive t
            { formReq t t.cache.nextReq m.op (.peer m.src m.tag) m.rqk m.hs m.sa dla w c
                (if m.cls == .ash then none else some (m.src, m.cidx)) (tinOf t m.tin) m.data m.be m.poison m.queue m.epoch with
              causeFault := m.via.isSome }))))) ∧
  (∀ (s : State) (l : PLink) (m : PeerSnp), alive s = true → plinkOk l = true → carries s l.toNat m.src = true →
    (m.dst = devId s → s.dev.stage ≠ .containment →
      exec (.peerSnp l m) s = .next (sameTime s (snpArrive (countRecv s m.src 1) m))) ∧
    (m.dst = devId s → s.dev.stage = .containment → exec (.peerSnp l m) s = .next (countRecv s m.src 1)) ∧
    (m.dst ≠ devId s → m.via = some (devId s) →
      exec (.peerSnp l m) s = .next { s with peer := { s.peer with tx := s.peer.tx ++ [⟨m.dst, .snp m, none, s.now⟩] } }) ∧
    (m.dst ≠ devId s → m.via ≠ some (devId s) → exec (.peerSnp l m) s = .next s)) ∧
  (∀ (s : State) (l : PLink) (m : PeerRsp) (i : Instr) (k : Nat), alive s = true → plinkOk l = true →
    carries s l.toNat m.src = true → (i = .peerRsp l m ∧ k = 2) ∨ (i = .peerData l m ∧ k = 3) →
    (rspClass m.op = k → m.dst = devId s → exec i s = .next (sameTime s (rspIn s m (portOfPl s l.toNat)))) ∧
    (rspClass m.op = k → m.dst ≠ devId s → m.via = some (devId s) → exec i s = .next { s with peer := { s.peer with
      tx := s.peer.tx ++ [⟨m.dst, .rsp m, deadlineDsl s m.dsl, s.now⟩] } }) ∧
    (rspClass m.op = k → m.dst ≠ devId s → m.via ≠ some (devId s) → exec i s = .next s) ∧
    (rspClass m.op ≠ k → exec i s = .next (sameTime s (unknownOp s)))) ∧
  (∀ (s : State) (l : PLink) (q : PeerReq) (n : PeerSnp) (m : PeerRsp), alive s = true → plinkOk l = true →
    (carries s l.toNat q.src = false → exec (.peerReq l q) s = .next s) ∧
    (carries s l.toNat n.src = false → exec (.peerSnp l n) s = .next s) ∧
    (carries s l.toNat m.src = false → exec (.peerRsp l m) s = .next s ∧ exec (.peerData l m) s = .next s)) ∧
  (∀ (u s : State) (src : DevId), s = ctlIn u src → alive s = true →
    (s.peer.members.getLsbD src.toNat = true → src ≠ devId s →
      (∀ m : PeerReq,
        (m.dst = devId s → exec (.salvage src (.req m)) u = .next (sameTime s (reqIn s m 164))) ∧
        (m.dst ≠ devId s → exec (.salvage src (.req m)) u = .next s)) ∧
      (∀ m : PeerSnp,
        (m.dst = devId s → exec (.salvage src (.snp m)) u = .next (sameTime s (snpIn s m))) ∧
        (m.dst ≠ devId s → exec (.salvage src (.snp m)) u = .next s)) ∧
      (∀ m : PeerRsp,
        (m.dst = devId s → exec (.salvage src (.rsp m)) u = .next (sameTime s (rspIn s m 164))) ∧
        (m.dst ≠ devId s → exec (.salvage src (.rsp m)) u = .next s))) ∧
    (s.peer.members.getLsbD src.toNat = false ∨ src = devId s → ∀ w, exec (.salvage src w) u = .next s))

/-- Resets and the end of a commit complete, in every state that the spec lets them act in. Rules: R357, R361, R362, R380,
R389, R399, R440. A power-on reset acts in every state, also after a trip: the device is in ROM at time 0, powered and
not tripped, with the straps given. Power-down leaves it unpowered. The COLDRST# pin acts at once. A guarded warm or
cold reset that passes is answered and asked for; a management reset that passes, and a watchdog expiry while the
engine is up, restart the management cores; one that its gate turns away is answered why, and one that does not reach
the engine does nothing. A commit that ends well makes its copy valid and loaded, is counted and raised; one that
fails is counted and raised, and persists its changes again unless a reset waits; a reset that waited for the commit
may follow. -/
def Obligations.ResetsComplete : Prop :=
  (∀ (s : State) (straps : Straps), ∃ t, exec (.powerOnReset straps) s = .next t ∧ t.dev.stage = .rom ∧ t.now = 0 ∧
    alive t = true ∧ t.dev.straps = straps ∧ t.pending = s.pending ∧
    t = { doPowerOn s straps with pending := s.pending }) ∧
  (∀ (s : State), ∃ t, exec .powerDown s = .next t ∧ t.dev.powered = false ∧ t.dev.stage = .power ∧
    t = { doPowerDown s with pending := s.pending }) ∧
  (∀ (s : State) (acc : Accessor) (straps : Straps), alive s = true →
    exec (.coldReset true acc straps) s = .next { wholeReset s .cold straps true with pending := s.pending }) ∧
  (∀ (s t : State) (acc : Accessor) (straps : Straps), alive s = true → passes s acc (resetGate true) = true →
    t = (if (normAcc acc).transport == .bar0 then gctlNote .ok (entered s acc) else entered s acc) →
    exec (.coldReset false acc straps) s = .next { askReset (replied acc .ok 0 t) .cold straps with pending := s.pending }) ∧
  (∀ (s t : State) (acc : Accessor), alive s = true → passes s acc (resetGate false) = true →
    t = (if (normAcc acc).transport == .bar0 then gctlNote .ok (entered s acc) else entered s acc) →
    exec (.warmReset acc) s = .next { askReset (replied acc .ok 0 t) .warm s.dev.straps with pending := s.pending } ∧
    exec (.managementReset acc) s = .next (sameTime s (doMgmtReset (replied acc .ok 0 t)))) ∧
  (∀ (s : State) (acc : Accessor) (straps : Straps) (cold : Bool) (i : Instr), alive s = true →
    (i = .coldReset false acc straps ∧ cold = true) ∨ (i = .warmReset acc ∧ cold = false) ∨
      (i = .managementReset acc ∧ cold = false) →
    (served s (normAcc acc) (resetGate cold) = false → exec i s = .next s) ∧
    (∀ e u, served s (normAcc acc) (resetGate cold) = true →
      gateCheck (entered s acc) (normAcc acc) (resetGate cold) (armedBy s acc) = some e →
      u = (if (e == .locked && (normAcc acc).transport == .bar0) = true then
        accessError (entered s acc) 4 (normAcc acc).link 0xC 0 true 1 15 else entered s acc) →
      exec i s = .next (sameTime s (status (if (normAcc acc).transport == .bar0 then gctlNote e u else u)
        (normAcc acc) e [])))) ∧
  (∀ (s : State), alive s = true →
    (engineUp s = true → exec .watchdogExpiry s = .next (sameTime s (doMgmtReset s))) ∧
    (engineUp s = false → exec .watchdogExpiry s = .next s)) ∧
  (∀ (s t u : State) (copy : Bool) (at_ : Time) (good : Bool), alive s = true → s.hen.commitRun = some (copy, at_) →
    t = { s with hen := { s.hen with commitRun := none, commitAuto := false, commitResult := if good then 1 else 2 } } →
    u = setImg t copy { imgOf s copy with valid := true } →
    (good = true → exec (.commitComplete good) s = .next { tryReset (raise { u with
      dev := { u.dev with loaded := some copy }, hen := { u.hen with commitsOk := s.hen.commitsOk + 1 } } 0x3C0 164 []) with
      pending := s.pending }) ∧
    (good = false → exec (.commitComplete good) s = .next { tryReset (raise { t with
      hen := { t.hen with commitsBad := s.hen.commitsBad + 1 }
      rel := { s.rel with persistSince := if s.hen.commitAuto && s.dev.pendingReset.isNone then some s.now
                                          else s.rel.persistSince } } 0x3C1 164 []) with pending := s.pending })) ∧
  (∀ (s : State) (copy : Bool) (at_ : Time), alive s = true → s.hen.commitRun = some (copy, at_) →
    s.dev.pendingReset = none →
    (∃ t, exec (.commitComplete true) s = .next t ∧ t.hen.commitRun = none ∧ t.hen.commitResult = 1 ∧
      t.hen.commitsOk = s.hen.commitsOk + 1 ∧ t.dev.loaded = some copy ∧ imgOf t copy = { imgOf s copy with valid := true } ∧
      t.hen.pending = s.hen.pending) ∧
    (∃ t, exec (.commitComplete false) s = .next t ∧ t.hen.commitRun = none ∧ t.hen.commitResult = 2 ∧
      t.hen.commitsBad = s.hen.commitsBad + 1 ∧ t.dev.loaded = s.dev.loaded ∧ imgOf t copy = imgOf s copy)) ∧
  (∀ (s : State) (good : Bool), alive s = true → s.hen.commitRun = none → exec (.commitComplete good) s = .next s)

/-- Each step of start-up takes the device to its next stage, and a failed one to HALTED. Rules: R363, R364, R366, R367,
R369, R371, R95. A passed SRAM self-test clears the snoop filter and the resident tags and raises E-0x383 for each
repair (whose number is a free value); a failed one halts with 0x11. In ROM a verified slot runs and the stage is
FIRMWARE, with E-0x381 when it is the other one; without one the device halts with 0x10. CONFIG without an image is
SERVICE; with one its image is loaded and CONFIG's checks decide. Stack training without a failure leads to MEMORY; a
stack in service that failed halts with 0x12. A memory test handles each fault it found (the quick test finds none),
retires the listed ways and ends, or halts with 0x13; the expander wait limit ends the wait. Out of its stage none of
these does anything. -/
def Obligations.StartUpStagesComplete : Prop :=
  (∀ (s : State), alive s = true →
    (starting s = true → s.dev.sramDone = false →
      exec (.sramSelfTestComplete false) s = .next (sameTime s (halt s 0x11)) ∧
      (exec (.sramSelfTestComplete true) s = .next (sameTime s
        ((List.range (Config.freeValue s.freeCount).toNat).foldl (fun s _ => raise s 0x383 164 [])
          (takeFree { s with dev := { s.dev with sramDone := true }, snoop := { s.snoop with entries := [] }
                             cache := { s.cache with resident := [] } }))))) ∧
    (starting s = false ∨ s.dev.sramDone = true → ∀ pass, exec (.sramSelfTestComplete pass) s = .next s)) ∧
  (∀ (s : State), alive s = true →
    (∀ b other, s.dev.stage = .rom → chooseSlot s = some (b, other) →
      ∃ t, t = setStage { s with dev := { s.dev with running := some b, fwStarted := true } } .firmware 2 ∧
        exec .firmwareVerified s = .next (if other then raise t 0x381 164 [] else t)) ∧
    (s.dev.stage = .rom → chooseSlot s = none → exec .firmwareVerified s = .next (sameTime s (halt s 0x10))) ∧
    (s.dev.stage ≠ .rom → exec .firmwareVerified s = .next s)) ∧
  (∀ (s : State), alive s = true →
    (s.dev.stage = .firmware → (s.dev.straps.defcfg = true ∨ 2 ≤ s.dev.straps.mode.toNat ∨ imageToLoad s = none) →
      exec .configComplete s = .next (setStage { s with dev := { s.dev with loaded := none } } .service 9)) ∧
    (∀ b only t, s.dev.stage = .firmware → s.dev.straps.defcfg = false → s.dev.straps.mode.toNat < 2 →
      imageToLoad s = some (b, only) → t = { s with dev := { s.dev with loaded := some b } } →
      exec .configComplete s = .next (keepTime s
        (enterConfig (loadImage (if only then raise t 0x382 164 [] else t) (imgOf s b).entries)))) ∧
    (s.dev.stage ≠ .firmware → exec .configComplete s = .next s)) ∧
  (∀ (s : State) (failed : BitVec 8), alive s = true →
    (s.dev.stage = .config → bitsOf (failed &&& ~~~s.rel.retired) = [] → exec (.stackTrainingComplete failed) s =
      .next (setStage { s with dev := { s.dev with trained := true } } .memory 4)) ∧
    (s.dev.stage = .config → bitsOf (failed &&& ~~~s.rel.retired) ≠ [] →
      exec (.stackTrainingComplete failed) s = .next (sameTime s (halt
        ((bitsOf (failed &&& ~~~s.rel.retired)).foldl (fun s st => raise s 0x384 (144 + st) []) s) 0x12))) ∧
    (s.dev.stage ≠ .config → exec (.stackTrainingComplete failed) s = .next s)) ∧
  (∀ (s t u : State) (faults : List (Stack × BitVec 31)) (on : Bool), alive s = true →
    (s.dev.stage = .memory → s.dev.testDone = false →
      (if s.dev.testSel = 1 then [] else faults).foldl (fun (a : State × Bool) f =>
        if a.2 then testFault a.1 f.1.toNat f.2.toNat else a) (s, true) = (t, on) →
      (on = true → u = retireListed t → exec (.memoryTestComplete faults) s =
        .next (sameTime s (tryLocalReady { u with dev := { u.dev with testDone := true } }))) ∧
      (on = false → exec (.memoryTestComplete faults) s = .next (sameTime s (halt t 0x13)))) ∧
    (s.dev.stage ≠ .memory ∨ s.dev.testDone = true → exec (.memoryTestComplete faults) s = .next s)) ∧
  (∀ (s : State), alive s = true →
    (starting s = true → s.dev.waitLimit.toNat * 1000000 ≤ s.now.toNat →
      exec .expanderWaitLimit s = .next (sameTime s (tryLocalReady { s with dev := { s.dev with waitEnded := true } }))) ∧
    (starting s = false ∨ s.now.toNat < s.dev.waitLimit.toNat * 1000000 → exec .expanderWaitLimit s = .next s))

/-- Rails, clocks, locks, the sync word, sensors and thermal limits. Rules: R358, R372, R373, R375, R376, R377, R378,
R379, R380. Rails are measured, each out of tolerance raising E-0x38B. A clock change that started 2 us ago ends at
its rate, and excuses what waited if thermal control made it. A legal cap at which every share still fits is taken,
and the clock goes there, or stays below while it is throttled; an illegal one is RANGE, one at which a share does not
fit FULL. A lost lock raises E-0x388, and in a cluster, stack, tag or snoop filter island leads to containment; the
loss of REFCLK leads to holdover, and its return locks every PLL and delivers what was held. A sync word that holds
device time is compared by every island, another does nothing. Nine legal thermal limits are kept; illegal ones are
RANGE, another number TYPE. A sensor reading sets the outputs, throttles, cools, and acts on a critical limit. A
hardware trip stops the device and asserts domain-fatal. -/
def Obligations.ClocksRailsAndSensorsComplete : Prop :=
  (∀ (s : State) (volts amps : List (BitVec 16)), alive s = true → railsOk volts amps = true →
    exec (.railMonitor volts amps) s = .next (sameTime s ((List.range 8).foldl (fun s i =>
      if railOut (rails.getD i (0, 0)) (volts.getD i 0).toNat then
        raise s 0x38B 164 [(1, i), (4, (volts.getD i 0).toNat), (8, s.now.toNat)] else s)
      (setClk s (fun c => { c with volts := volts, amps := amps }))))) ∧
  (∀ (s t : State) (c : Cluster), alive s = true →
    (∀ k mhz start thermal, s.clk.target.find? (fun p => p.1 == c.toNat) = some (k, mhz, start, thermal) →
      (2000 ≤ since s start → t = (if thermal then
          markFault s (fun r => clusterOf (benchOfDla r.dla) == c) (fun _ => false) (fun _ => false) else s) →
        exec (.clockChangeComplete c) s = .next (sameTime s (setClk (foldCycles t c.toNat false) (fun k => { k with
          target := k.target.filter (fun p => p.1 != c.toNat), clock := tput 1500 k.clock c.toNat mhz })))) ∧
      (since s start < 2000 → exec (.clockChangeComplete c) s = .next s)) ∧
    (s.clk.target.find? (fun p => p.1 == c.toNat) = none → exec (.clockChangeComplete c) s = .next s)) ∧
  (∀ (s t : State) (acc : Accessor) (c : Cluster) (mhz : BitVec 16), alive s = true → passes s acc plainGate = true →
    (mhzOk mhz.toNat = true → failing (entered s acc) (.thermal c (mhz.setWidth 12)) = none →
      t = setClk (entered s acc) (fun k => { k with cap := tput 1500 k.cap c.toNat (mhz.setWidth 12) }) →
      exec (.clockCapWrite acc c mhz) s = .next (sameTime s (replied acc .ok 0 (startClock t c.toNat
        (if s.clk.throttled.contains c.toNat then min (rateOf s c.toNat) mhz.toNat else mhz.toNat) false)))) ∧
    (mhzOk mhz.toNat = true → failing (entered s acc) (.thermal c (mhz.setWidth 12)) ≠ none →
      exec (.clockCapWrite acc c mhz) s = .next (sameTime s (replied acc .full 0 (entered s acc)))) ∧
    (mhzOk mhz.toNat = false →
      exec (.clockCapWrite acc c mhz) s = .next (sameTime s (replied acc .range 0 (entered s acc))))) ∧
  (∀ (s : State) (i : Byte), alive s = true → islandOk i = true →
    (coreIsland i.toNat = true → exec (.pllLockLoss i) s =
      .next (sameTime s (contain (raise (loseLock s i.toNat) 0x388 164 []) 8 i.toNat))) ∧
    (coreIsland i.toNat = false → exec (.pllLockLoss i) s =
      .next (sameTime s (raise (loseLock s i.toNat) 0x388 164 [])))) ∧
  (∀ (s : State) (t : Time), alive s = true →
    (s.clk.refclk = true → exec .refclkLoss s = .next (sameTime s (contain (raise
      (((List.range 168).filter (· != 165)).foldl loseLock (setClk s (fun k => { k with refclk := false, holdover := true })))
      0x388 164 []) 8 164))) ∧
    (s.clk.refclk = false → exec .refclkLoss s = .next s) ∧
    exec .refclkReturn s = .next (sameTime s (deliverHeld (setClk (s.clk.unlocked.foldl (fun s i => foldIsland s i false) s)
      (fun k => { k with refclk := true, holdover := false, unlocked := [] })))) ∧
    exec (.timeSyncWord s.now) s = .next (sameTime s ((s.clk.island.map (·.1)).foldl syncIsland s)) ∧
    (t ≠ s.now → exec (.timeSyncWord t) s = .next s) ∧
    exec .hardwareTrip s = .next (emit { s with dev := { s.dev with tripped := true }, rel := { s.rel with domFatal := true } }
      (.domFatal true))) ∧
  (∀ (s : State) (acc : Accessor) (l : List (BitVec 32)), alive s = true → passes s acc plainGate = true →
    (l.length = 9 → limitsOk l = true → exec (.thermalLimitsWrite acc l) s = .next (sameTime s (replied acc .ok 0
      (setClk (entered s acc) (fun k => { k with limits := l }))))) ∧
    (l.length = 9 → limitsOk l = false →
      exec (.thermalLimitsWrite acc l) s = .next (sameTime s (replied acc .range 0 (entered s acc)))) ∧
    (l.length ≠ 9 →
      exec (.thermalLimitsWrite acc l) s = .next (sameTime s (replied acc .type 0 (entered s acc))))) ∧
  (∀ (s : State) (temps : List (BitVec 32)), alive s = true → readingOk temps = true →
    exec (.sensorRead temps) s =
      .next (sameTime s (criticalCheck (coolDown (throttleHot (readTemps s temps))))))

/-- Frames arrive, management cycles queue them, and a frame takes its turn. Rules: R387, R389, R390, R391, R392, R406,
R407, R411, R412, R414. On a transport that reaches the engine, bytes that are no frame are discarded and counted; a
frame, with the member function on which it arrived, waits for the cycle, unless its buffers are taken, or its console
is disabled. On I3C whole packets of an incomplete message are kept. A management cycle first completes the clears of
marks whose older accesses have been performed (the model's choice of when, log entry 21), and queues every waiting
frame that passes step 2, in the order mailbox, MCTP, I3C, console; one that does not is answered. A frame at the
front of the queue, or one that waits nowhere, is answered again, on the member of the repeat, where it repeats a kept
one, RANGE where step 2 fails, and NO_OBJECT or the first failing check where its object does not allow it; a frame
that waits stays. BAR0 accesses that waited for it follow. -/
def Obligations.FramesAndCyclesComplete : Prop :=
  (∀ (s : State) (acc : Accessor) (m : BitVec 2) (l : List Byte), alive s = true →
    (reaches s acc.transport = true → acc.transport ≠ .i3c →
      exec (.frameArrival ⟨acc, m⟩ l) s = .next (sameTime s (frameIn s (normAcc acc) (arrivedOn acc m) l))) ∧
    (reaches s acc.transport = true → acc.transport = .i3c →
      (partialI3c (s.hen.i3cPartial ++ l) = true → exec (.frameArrival ⟨acc, m⟩ l) s = .next { s with hen := { s.hen with
        i3cPartial := s.hen.i3cPartial ++ l, i3cSince := s.now } }) ∧
      (partialI3c (s.hen.i3cPartial ++ l) = false → exec (.frameArrival ⟨acc, m⟩ l) s = .next (sameTime s
        (frameIn { s with hen := { s.hen with i3cPartial := [] } } (normAcc acc) 0 (s.hen.i3cPartial ++ l))))) ∧
    (reaches s acc.transport = false → exec (.frameArrival ⟨acc, m⟩ l) s = .next s)) ∧
  (∀ (s t : State) (a : Accessor) (m : BitVec 2) (l : List Byte) (n : Nat), n = transportNo a.transport → t = tcountAt s n 0 →
    (parseFrame m l = none → frameIn s a m l = discardFrame t n 1 1) ∧
    (∀ f, parseFrame m l = some f → f.member = m ∧
      (a.transport ≠ .console ∨ s.hen.conOn = true ∨ consolePass t a f = true →
        (noBuffer t a m = false → frameIn s a m l = { t with hen := { t.hen with cycle := s.hen.cycle ++ [⟨a, f⟩] } }) ∧
        (noBuffer t a m = true → frameIn s a m l = discardFrame t n 2 2)) ∧
      (a.transport = .console → s.hen.conOn = false → consolePass t a f = false → frameIn s a m l = t))) ∧
  (∀ (s t : State) (l : List InFrame), alive s = true → engineUp s = true ∨ recovery s = true → t = finishClears s →
    l = t.hen.cycle.filter (fun q => q.acc.transport == .mailbox) ++ t.hen.cycle.filter (fun q => q.acc.transport == .mctpPcie) ++
      t.hen.cycle.filter (fun q => q.acc.transport == .i3c) ++ t.hen.cycle.filter (fun q => q.acc.transport == .console) →
    exec .managementCycle s = .next (sameTime s (afterTurn s (l.foldl enqueue { t with hen := { t.hen with
      cycle := [], cycles := t.hen.cycles + 1 } }))) ∧
    (s.hen.clears = [] → s.hen.bars = [] → l.all (fun q => !badFrame s q.f) = true →
      exec .managementCycle s = .next { s with hen := { s.hen with
        cycle := [], cycles := s.hen.cycles + 1, queue := s.hen.queue ++ l } })) ∧
  (∀ s : State, alive s = true → engineUp s = false → recovery s = false →
    exec .managementCycle s = .next (sameTime s (afterTurn s s))) ∧
  (∀ (s t : State) (acc : Accessor) (f : Frame) (i : Instr) (op : Byte), t = unqueued s acc f op →
    (i, op) ∈ [(Instr.read acc f, (1 : Byte)), (.readImage acc f, 3), (.writeImage acc f, 4), (.henosCommit acc f, 5),
      (.unlock acc f, 6), (.openSession acc f, 7), (.sread acc f, 8), (.swrite acc f, 9), (.closeSession acc f, 10),
      (.describe acc f, 11), (.next acc f, 12), (.subscribe acc f, 13), (.unsubscribe acc f, 14)] →
    (FrameTurn s acc f op →
      (∀ k, keptFor s (normAcc acc) (opFrame f op) = some k → exec i s = .next (sameTime s (afterTurn s (replay t k f.member)))) ∧
      (keptFor s (normAcc acc) (opFrame f op) = none → badFrame s (opFrame f op) = true →
        exec i s = .next (sameTime s (afterTurn s (responded acc f op .range 0 0 [] (opCount t)))))) ∧
    (alive s = true → reaches s (normAcc acc).transport = false ∨ itsTurn s acc f op = false →
      exec i s = .next (sameTime s (afterTurn s s)))) ∧
  (∀ (s t : State) (acc : Accessor) (f : Frame), t = unqueued s acc f 2 →
    (FrameTurn s acc f 2 →
      (∀ k, keptFor s (normAcc acc) (opFrame f 2) = some k →
        exec (.write acc f) s = .next { afterTurn s (replay t k f.member) with pending := s.pending }) ∧
      (keptFor s (normAcc acc) (opFrame f 2) = none → badFrame s (opFrame f 2) = true →
        exec (.write acc f) s =
          .next { afterTurn s (responded acc f 2 .range 0 0 [] (opCount t)) with pending := s.pending })) ∧
    (alive s = true → reaches s (normAcc acc).transport = false ∨ itsTurn s acc f 2 = false →
      exec (.write acc f) s = .next { afterTurn s s with pending := s.pending })) ∧
  (∀ (s t : State) (acc : Accessor) (f : Frame) (i : Instr) (op : Byte) (armed : Bool),
    (i, op) ∈ [(Instr.read acc f, (1 : Byte)), (.readImage acc f, 3), (.writeImage acc f, 4), (.openSession acc f, 7),
      (.sread acc f, 8), (.swrite acc f, 9), (.closeSession acc f, 10), (.describe acc f, 11)] →
    FrameRuns s acc f op → frameState s acc f op = (t, armed) →
    (objAt t f.group.toNat f.item.toNat = none →
      exec i s = .next (sameTime s (afterTurn s (responded acc f op .noObject 0 0 [] t)))) ∧
    (∀ o e, objAt t f.group.toNat f.item.toNat = some o →
      checkObj t (normAcc acc) (opFrame f op) o (needOf op) armed = some e →
      exec i s = .next (sameTime s (afterTurn s (responded acc f op e o.type 0 [] t))))) ∧
  (∀ (s t : State) (acc : Accessor) (f : Frame) (armed : Bool), FrameRuns s acc f 2 → frameState s acc f 2 = (t, armed) →
    (objAt t f.group.toNat f.item.toNat = none →
      exec (.write acc f) s = .next { afterTurn s (responded acc f 2 .noObject 0 0 [] t) with pending := s.pending }) ∧
    (∀ o e, objAt t f.group.toNat f.item.toNat = some o →
      checkObj t (normAcc acc) (opFrame f 2) o .write armed = some e →
      exec (.write acc f) s = .next { afterTurn s (responded acc f 2 e o.type 0 [] (noteOf o f.index.toNat e t)) with
        pending := s.pending }))

/-- The operations on objects have their effects and are answered. Rules: R388, R389, R391, R395, R396, R397, R400, R401,
R402, R403. A frame that has its turn, whose object exists and passes checks 3 to 7, is answered with what its
operation gives: READ the live value, READ_IMAGE the pending one, WRITE_IMAGE the value kept in the pending image of a
persisted object, and nothing of an action's; none of a session object (ACCESS), nor WRITE_IMAGE of an object that is
not persisted (RANGE). OPEN a handle on a session object no one holds, its own again, or BUSY; SREAD the bytes of a
held session, SWRITE bytes put in the staging area, CLOSE the end of the session, each with the status its checks
give; DESCRIBE the description. WRITE is answered with the status of the object's own check, takes effect where it is
OK, with SAVE in the pending image too, or is answered later. -/
def Obligations.ObjectOperationsComplete : Prop :=
  ∀ (s t : State) (acc a : Accessor) (f : Frame) (armed : Bool), a = normAcc acc →
    (∀ o, ObjReady s acc f 1 o → frameState s acc f 1 = (t, armed) →
      (o.type ≠ 9 → exec (.read acc f) s =
        .next (sameTime s (afterTurn s (responded acc f 1 .ok o.type 0 (objRead t o f.index.toNat) (afterRead t o))))) ∧
      (o.type = 9 → exec (.read acc f) s =
        .next (sameTime s (afterTurn s (responded acc f 1 .access o.type 0 [] t))))) ∧
    (∀ o, ObjReady s acc f 2 o → frameState s acc f 2 = (t, armed) →
      (o.type = 9 → exec (.write acc f) s =
        .next { afterTurn s (responded acc f 2 .access o.type 0 [] t) with pending := s.pending }) ∧
      (o.type ≠ 9 → f.flags.getLsbD 0 = true → persisted o = false → exec (.write acc f) s =
        .next { afterTurn s (responded acc f 2 .range o.type 0 [] (noteOf o f.index.toNat .range t)) with pending := s.pending }) ∧
      (o.type ≠ 9 → f.flags.getLsbD 0 = false ∨ persisted o = true → ∀ u,
        (writeObj t a (some (opFrame f 2)) o f.index.toNat f.value = (u, none) →
          exec (.write acc f) s = .next { afterTurn s u with pending := s.pending }) ∧
        (∀ aux v, writeObj t a (some (opFrame f 2)) o f.index.toNat f.value = (u, some (.ok, aux)) →
          v = (if f.flags.getLsbD 0 then pendingPut u o f.index.toNat f.value else u) →
          exec (.write acc f) s = .next { afterTurn s (afterWrite
            (responded acc f 2 .ok o.type aux [] (noteOf o f.index.toNat .ok v)) o f.value) with pending := s.pending }) ∧
        (∀ e aux, e ≠ .ok → writeObj t a (some (opFrame f 2)) o f.index.toNat f.value = (u, some (e, aux)) →
          exec (.write acc f) s = .next { afterTurn s
            (responded acc f 2 e o.type aux [] (noteOf o f.index.toNat e u)) with pending := s.pending }))) ∧
    (∀ o, ObjReady s acc f 3 o → frameState s acc f 3 = (t, armed) →
      (o.type ≠ 9 → exec (.readImage acc f) s =
        .next (sameTime s (afterTurn s (responded acc f 3 .ok o.type 0 (imageRead t o f.index.toNat) t)))) ∧
      (o.type = 9 → exec (.readImage acc f) s =
        .next (sameTime s (afterTurn s (responded acc f 3 .access o.type 0 [] t))))) ∧
    (∀ o, ObjReady s acc f 4 o → frameState s acc f 4 = (t, armed) →
      (o.type ≠ 9 → o.action = false → persisted o = true → exec (.writeImage acc f) s =
        .next (sameTime s (afterTurn s (responded acc f 4 .ok o.type 0 [] (pendingPut t o f.index.toNat f.value))))) ∧
      (o.type ≠ 9 → o.action = true → exec (.writeImage acc f) s =
        .next (sameTime s (afterTurn s (responded acc f 4 .ok o.type 0 [] t)))) ∧
      (o.type ≠ 9 → o.action = false → persisted o = false → exec (.writeImage acc f) s =
        .next (sameTime s (afterTurn s (responded acc f 4 .range o.type 0 [] t)))) ∧
      (o.type = 9 → exec (.writeImage acc f) s =
        .next (sameTime s (afterTurn s (responded acc f 4 .access o.type 0 [] t))))) ∧
    (∀ o u e h, ObjReady s acc f 7 o → frameState s acc f 7 = (t, armed) → doOpen t a (opFrame f 7) o = (u, e, h) →
      exec (.openSession acc f) s = .next (sameTime s (afterTurn s (responded acc f 7 e o.type h [] u)))) ∧
    (∀ o, o.type = 9 → o.group < 256 → o.item < 65536 → sessionOn t o = none → s.now.toNat < 2 ^ 63 → t.now = s.now → isStaging o = false ∨ f.arg = 0 →
      ∃ u h, doOpen t a (opFrame f 7) o = (u, .ok, h) ∧ (sessionOn u o).isSome = true) ∧
    (∀ o, ObjReady s acc f 8 o → frameState s acc f 8 = (t, armed) →
      (∀ v l, heldBy t a f o = some v → f.value.length = 6 → fieldAt f.value 4 2 ≤ 1008 →
        sessionRead t o v (fieldAt f.value 0 4) (fieldAt f.value 4 2) = some l →
        exec (.sread acc f) s = .next (sameTime s (afterTurn s (responded acc f 8 .ok o.type 0 l t)))) ∧
      (∀ e l, doSread t a (opFrame f 8) o = (e, l) →
        exec (.sread acc f) s = .next (sameTime s (afterTurn s (responded acc f 8 e o.type 0 l t))))) ∧
    (∀ o, ObjReady s acc f 9 o → frameState s acc f 9 = (t, armed) →
      (∀ v, heldBy t a f o = some v → 4 ≤ f.value.length → f.value.length ≤ 1008 →
        v.base.toNat + fieldAt f.value 0 4 + (f.value.length - 4) ≤ stagingSize →
        exec (.swrite acc f) s = .next (sameTime s (afterTurn s (responded acc f 9 .ok o.type 0 [] { t with
          hen := { t.hen with
            staging := putBytes t.hen.staging (v.base.toNat + fieldAt f.value 0 4) (f.value.drop 4) } })))) ∧
      (∀ u e, doSwrite t a (opFrame f 9) o = (u, e) →
        exec (.swrite acc f) s = .next (sameTime s (afterTurn s (responded acc f 9 e o.type 0 [] u))))) ∧
    (∀ o, ObjReady s acc f 10 o → frameState s acc f 10 = (t, armed) →
      ((heldBy t a f o).isSome = true → exec (.closeSession acc f) s =
        .next (sameTime s (afterTurn s (responded acc f 10 .ok o.type 0 [] (dropSession t o))))) ∧
      (heldBy t a f o = none → exec (.closeSession acc f) s =
        .next (sameTime s (afterTurn s (responded acc f 10 .access o.type 0 [] t))))) ∧
    (∀ o, ObjReady s acc f 11 o → frameState s acc f 11 = (t, armed) →
      exec (.describe acc f) s = .next (sameTime s (afterTurn s (responded acc f 11 .ok o.type 0 (describeBytes o) t))))

/-- Commits, unlocks, NEXT, subscribers, installs, lapses and the engine's own objects. Rules: R388, R393, R399, R401,
R404, R412, R462, R385, R408. A frame that has its turn: COMMIT with none running starts a commit, else it is BUSY
with an estimate (a free value); UNLOCK with the key arms the accessor for 1 s, and with anything else is LOCKED,
counted and raised; NEXT answers the next existing object or NO_OBJECT; SUBSCRIBE of a transport that events are sent
on adds it or changes its mask, or is ACCESS, TYPE, RANGE or FULL; UNSUBSCRIBE drops it. Lapsed unlocks and expired
sessions go. A staged firmware of its owner, for a slot that does not run, starts an install if it verifies (a free
value) and is refused if not; an install whose end is good makes the slot valid, and each end is raised. The console
rate and enable and the configuration lock take their legal values. -/
def Obligations.EngineOperationsComplete : Prop :=
  (∀ (s t : State) (acc a : Accessor) (f : Frame) (armed : Bool), a = normAcc acc →
    (FrameRuns s acc f 5 → frameState s acc f 5 = (t, armed) →
      (t.hen.commitRun = none → exec (.henosCommit acc f) s =
        .next (sameTime s (afterTurn s (responded acc f 5 .ok 0 0 [] (startCommit t))))) ∧
      (t.hen.commitRun ≠ none → exec (.henosCommit acc f) s = .next (sameTime s (afterTurn s (responded acc f 5 .busy 0
        ((Config.freeValue t.freeCount).setWidth 32 : BitVec 32).toNat [] (takeFree t)))))) ∧
    (FrameRuns s acc f 6 → frameState s acc f 6 = (t, armed) →
      (f.value.length = 4 → leNat f.value = 0x6A0D93B1 → exec (.unlock acc f) s =
        .next (sameTime s (afterTurn s (responded acc f 6 .ok 0 0 [] { t with hen := { t.hen with
          armed := t.hen.armed ++ [(a, t.now + 1000000000)] } })))) ∧
      (f.value.length ≠ 4 ∨ leNat f.value ≠ 0x6A0D93B1 → exec (.unlock acc f) s =
        .next (sameTime s (afterTurn s (responded acc f 6 .locked 0 0 [] (raise { t with hen := { t.hen with
          wrongKeys := t.hen.wrongKeys + 1 } } 0x3C3 164 [])))))) ∧
    (FrameRuns s acc f 12 → frameState s acc f 12 = (t, armed) →
      (∀ g i, nextObj t f.group.toNat f.item.toNat = some (g, i) → exec (.next acc f) s =
        .next (sameTime s (afterTurn s (responded acc f 12 .ok 0 0 (leBytes 2 g ++ leBytes 2 i) t)))) ∧
      (nextObj t f.group.toNat f.item.toNat = none → exec (.next acc f) s =
        .next (sameTime s (afterTurn s (responded acc f 12 .noObject 0 0 [] t))))) ∧
    (∀ u e, FrameRuns s acc f 13 → frameState s acc f 13 = (t, armed) → doSubscribe t a (opFrame f 13) = (u, e) →
      exec (.subscribe acc f) s = .next (sameTime s (afterTurn s (responded acc f 13 e 0 0 [] u)))) ∧
    (FrameRuns s acc f 14 → frameState s acc f 14 = (t, armed) →
      exec (.unsubscribe acc f) s = .next (sameTime s (afterTurn s (responded acc f 14 .ok 0 0 [] { t with hen := { t.hen with
        subs := t.hen.subs.filter (fun b => b.acc != a) } }))))) ∧
  (∀ (t : State) (a : Accessor) (f : Frame),
    (a.transport ≠ .i3c → a.transport ≠ .console → doSubscribe t a f = (t, .access)) ∧
    (a.transport = .i3c ∨ a.transport = .console →
      (f.value.length ≠ 256 → doSubscribe t a f = (t, .type)) ∧
      (f.value.length = 256 → 3 ≤ f.arg.toNat → doSubscribe t a f = (t, .range)) ∧
      (f.value.length = 256 → f.arg.toNat < 3 → t.hen.subs.any (fun b => b.acc == a) = false →
        (8 ≤ t.hen.subs.length → doSubscribe t a f = (t, .full)) ∧
        (t.hen.subs.length < 8 → ∃ m : BitVec 2048, m = (if f.arg = 2 then 0 else BitVec.ofNat 2048 (leNat f.value)) ∧
          doSubscribe t a f = ({ t with hen := { t.hen with subs := t.hen.subs ++ [⟨a, m, [], false⟩] } }, .ok))) ∧
      (∀ b m, f.value.length = 256 → f.arg.toNat < 3 → t.hen.subs.find? (fun b => b.acc == a) = some b →
        m = BitVec.ofNat 2048 (leNat f.value) → ∃ n : BitVec 2048,
          n = (if f.arg = 0 then m else if f.arg = 1 then b.mask ||| m else b.mask &&& ~~~m) ∧
          doSubscribe t a f = ({ t with hen := { t.hen with
            subs := t.hen.subs.map (fun b => if b.acc == a then { b with mask := n } else b) } }, .ok)))) ∧
  (∀ (s : State), alive s = true →
    (∀ acc : Accessor, exec (.unlockLapse acc) s = .next { s with hen := { s.hen with
      armed := s.hen.armed.filter (fun x => !(x.1 == normAcc acc && x.2 ≤ s.now)) } }) ∧
    (∀ (g : Byte) (i : BitVec 16), exec (.sessionExpiry g i) s = .next { s with hen := { s.hen with
      sessions := s.hen.sessions.filter (fun v => !(v.group == g && v.item == i && v.until_ ≤ s.now)) } }) ∧
    (∀ (n : Byte) (at_ : Time) (t : State), s.hen.install = some (n, at_) →
      t = { s with hen := { s.hen with install := none } } →
      exec (.firmwareInstallComplete true) s =
        .next (raise (setSlot t (n == 1) { slotVer s (n == 1) with valid := true }) 0x3C0 164 []) ∧
      exec (.firmwareInstallComplete false) s = .next (raise t 0x3C1 164 [])) ∧
    (∀ good, s.hen.install = none → exec (.firmwareInstallComplete good) s = .next s)) ∧
  (∀ (s : State) (acc : Accessor), alive s = true →
    (∀ slot : Byte, passes s acc installGate = true →
      (s.hen.stagingOwner = some (normAcc acc) → slot.toNat < 2 → s.dev.running ≠ some (slot.toNat == 1) →
        s.hen.install = none →
        exec (.firmwareInstall acc slot) s = .next (sameTime s (if Config.fwVerifies s.hen.staging then
          replied acc .ok 0 (setSlot { entered s acc with hen := { (entered s acc).hen with install := some (slot, s.now) } }
            (slot.toNat == 1) ⟨Config.fwStaged s.hen.staging, false⟩)
          else replied acc .range 0 (entered s acc)))) ∧
      (s.hen.stagingOwner ≠ some (normAcc acc) →
        exec (.firmwareInstall acc slot) s = .next (sameTime s (replied acc .access 0 (entered s acc)))) ∧
      (s.hen.stagingOwner = some (normAcc acc) → 2 ≤ slot.toNat →
        exec (.firmwareInstall acc slot) s = .next (sameTime s (replied acc .range 0 (entered s acc)))) ∧
      (s.hen.stagingOwner = some (normAcc acc) → slot.toNat < 2 → s.dev.running = some (slot.toNat == 1) →
        exec (.firmwareInstall acc slot) s = .next (sameTime s (replied acc .quiesceRequired 0 (entered s acc)))) ∧
      (s.hen.stagingOwner = some (normAcc acc) → slot.toNat < 2 → s.dev.running ≠ some (slot.toNat == 1) →
        s.hen.install ≠ none →
        exec (.firmwareInstall acc slot) s = .next (sameTime s (replied acc .busy 0 (entered s acc))))) ∧
    (∀ rate : BitVec 32, passes s acc plainGate = true →
      (rates.contains rate.toNat = true →
        exec (.consoleRateWrite acc rate) s = .next (sameTime s (replied acc .ok 0 { entered s acc with
          hen := { (entered s acc).hen with conRate := rate } }))) ∧
      (rates.contains rate.toNat = false →
        exec (.consoleRateWrite acc rate) s = .next (sameTime s (replied acc .range 0 (entered s acc))))) ∧
    (∀ v : Byte, passes s acc (conGate s acc v.toNat) = true →
      (v.toNat ≤ 1 → exec (.consoleEnableWrite acc v) s = .next (sameTime s (replied acc .ok 0 { entered s acc with
        hen := { (entered s acc).hen with conOn := v.toNat == 1 } }))) ∧
      (1 < v.toNat →
        exec (.consoleEnableWrite acc v) s = .next (sameTime s (replied acc .range 0 (entered s acc))))) ∧
    (∀ v : Byte, passes s acc lockGate = true →
      (v.toNat < 2 → s.hen.lock ≠ (v.toNat == 1) →
        exec (.configLockWrite acc v) s = .next (sameTime s (replied acc .ok 0 (raise { entered s acc with
          hen := { (entered s acc).hen with lock := v.toNat == 1 } } 0x3C4 164 [])))) ∧
      (v.toNat < 2 → s.hen.lock = (v.toNat == 1) →
        exec (.configLockWrite acc v) s = .next (sameTime s (replied acc .ok 0 (entered s acc)))) ∧
      (2 ≤ v.toNat →
        exec (.configLockWrite acc v) s = .next (sameTime s (replied acc .range 0 (entered s acc))))))

/-- Console characters, breaks and timeouts, and the observation fuse. Rules: R409, R410, R411, R448, R449. A character
that begins with a start bit and ends with a stop bit is received as the byte of its eight bits, each the majority of
its three middle samples; one without a stop bit and all 0 drops the partial frame, another without one and a start
bit that is noise do nothing. A break of 250 ms sets 115,200 baud; an incomplete frame is dropped after 100 ms. The
key written to an unblown fuse starts its blowing; its end closes the peek sessions, clears Seam and raises E-0x3F0;
at a blown fuse the key is OK. -/
def Obligations.ConsoleAndFuseComplete : Prop :=
  (∀ (s : State) (l : List Bool) (b : Byte), alive s = true →
    b = (List.range 8).foldl (fun b k => if majority l (16 * (k + 1) + 7) then b ||| bit k else b) 0 →
    (l.getD 0 true = false → majority l 7 = false →
      (majority l 151 = true → exec (.consoleCharacter l) s = .next (sameTime s (conByte s b))) ∧
      (majority l 151 = false → b = 0 → exec (.consoleCharacter l) s = .next (sameTime s (dropPartial s))) ∧
      (majority l 151 = false → b ≠ 0 → exec (.consoleCharacter l) s = .next s)) ∧
    (l.getD 0 true = true ∨ majority l 7 = true → exec (.consoleCharacter l) s = .next s)) ∧
  (∀ (s : State) (ms : BitVec 16), alive s = true →
    (ms.toNat < 250 → exec (.consoleBreak ms) s = .next (sameTime s (dropPartial s))) ∧
    (250 ≤ ms.toNat → ∃ t, t = dropPartial s ∧ exec (.consoleBreak ms) s =
      .next (sameTime s (raise { t with hen := { t.hen with conRate := 115200 } } 0x3C6 164 [])))) ∧
  (∀ (s : State), alive s = true →
    (s.hen.conBuf ≠ [] → 100000000 ≤ since s s.hen.conStart →
      exec .consoleFrameTimeout s = .next (sameTime s (dropPartial s))) ∧
    (s.hen.conBuf = [] ∨ since s s.hen.conStart < 100000000 → exec .consoleFrameTimeout s = .next s)) ∧
  (∀ (s : State) (acc : Accessor), alive s = true → passes s acc fuseGate = true →
    (s.obs.seam.fuse = false → exec (.blowObservationFuse acc 0x4F425346) s = .next (sameTime s (replied acc .ok 0
      (setSeam (entered s acc) { s.obs.seam with blowing := true })))) ∧
    (s.obs.seam.fuse = true → exec (.blowObservationFuse acc 0x4F425346) s =
      .next (sameTime s (replied acc .ok 0 (entered s acc)))) ∧
    (∀ v : BitVec 32, v ≠ 0x4F425346 → exec (.blowObservationFuse acc v) s =
      .next (sameTime s (replied acc .range 0 (entered s acc))))) ∧
  (∀ (s : State), alive s = true →
    (s.obs.seam.blowing = true → ∃ t, exec .fuseBlowComplete s = .next t ∧
      t.obs.seam.fuse = true ∧ t.obs.seam.control = 0 ∧ t.obs.seam.buf = [] ∧ t.obs.seam.ringOn = false ∧
      t.hen.sessions = s.hen.sessions.filter (fun v => !fuseSession v) ∧
      t.evt.raises = s.evt.raises ++ [⟨0x3F0, 164, islandTime s 164, []⟩] ∧ t.obs.cnt = s.obs.cnt ∧ t.cache = s.cache) ∧
    (s.obs.seam.blowing = false → exec .fuseBlowComplete s = .next s))

/-- BAR accesses, the lock key, and the parity and voting sweeps. Rules: R419, R420, R421, R422, R423, R426, R428, R429,
R432, R433, R434, R440. From FIRMWARE on, a full read of one doubleword that is assigned is answered with its value,
one that is not with 0 and an access error, a 64-bit read with both, a narrow read with the bytes it names, a read of
the mailbox payload with its bytes; an oversize or unaligned read is an unsupported request with an access error; a
read behind a waiting write to its block waits, and a link that waits for a reset it asked for gets no completion from
BAR0. A full or 64-bit write reaches its registers, in its turn, or its doorbell page, and one that reaches none is an
access error, as a narrow write is; an oversize or unaligned write is discarded and reported. Before FIRMWARE both are
unsupported requests. The right key arms the link's unlock for 1 ms; a wrong one disarms it, is counted and raised;
before FIRMWARE either is discarded and is an access error (on member 0: log entry 121); the unlock lapses at its
time. A parity sweep corrects or reloads every master and reloads and reports every upset copy, a voting sweep every
outvoted master, and without a majority enters containment with cause 6. -/
def Obligations.RegisterCommandsComplete : Prop :=
  (∀ (s : State) (a : BarAccess), alive s = true → barBehind s a = none → a.bar = 0 → s.reg.muted.contains a.link = true →
    exec (.registerRead a) s = .next s) ∧
  (∀ (s t : State) (a : BarAccess), alive s = true → barBehind s a = none →
    (a.bar = 0 → s.reg.muted.contains a.link = false) →
    (barsUp s = true →
      (∀ v, classify a = .full → dwordRead s a.link a.member a.bar.toNat (offOf a) true true = (t, some v) →
        exec (.registerRead a) s = .next (sameTime s (emit t (.cpl a.link a.member [BitVec.ofNat 32 v])))) ∧
      (classify a = .full → dwordRead s a.link a.member a.bar.toNat (offOf a) true true = (t, none) →
        exec (.registerRead a) s = .next (sameTime s (emit (barError t a 3 (offOf a) false) (.cpl a.link a.member [0])))) ∧
      (∀ l, classify a = .wide → readDwords s a true 2 = (t, l) →
        exec (.registerRead a) s = .next (sameTime s (emit t (.cpl a.link a.member l)))) ∧
      (∀ l, classify a = .narrow → readDwords s a false 1 = (t, l) →
        exec (.registerRead a) s = .next (sameTime s (emit t (.cpl a.link a.member (l.map (enabled a.be.toNat)))))) ∧
      (classify a = .payload → exec (.registerRead a) s = .next (sameTime s (emit s (.cpl a.link a.member
        ((List.range (dwordsOf a)).map (fun k => BitVec.ofNat 32 (regValue s a.link a.member (offOf a + 4 * k)))))))) ∧
      (classify a = .oversize → exec (.registerRead a) s =
        .next (sameTime s (emit (barError s a 5 (offOf a) false) (.ur a.link a.member)))) ∧
      (classify a = .unaligned → exec (.registerRead a) s =
        .next (sameTime s (emit (barError s a 2 (offOf a) false) (.ur a.link a.member))))) ∧
    (barsUp s = false → exec (.registerRead a) s =
      .next (sameTime s (emit (barError (takeFree s) a (freeKind s) (offOf a) false) (.ur a.link a.member))))) ∧
  (∀ (s : State) (a : BarAccess) (w : BarWait), alive s = true → barBehind s a = some w →
    exec (.registerRead a) s = .next { s with hen := { s.hen with bars := s.hen.bars ++
      [⟨a.link, a.member, offOf a, 0, false, (s.hen.bars.map (·.behind)).foldl max w.behind, some a⟩] } }) ∧
  (∀ (s : State) (a : BarAccess) (value : BitVec 64), alive s = true →
    (barsUp s = true →
      (classify a = .full → exec (.registerWrite a value) s =
        .next { dwordWrite s a (offOf a) (value.setWidth 32) with pending := s.pending }) ∧
      (classify a = .wide → exec (.registerWrite a value) s =
        .next { dwordWrite (dwordWrite s a (offOf a) (value.setWidth 32)) a (offOf a + 4) ((value >>> 32).setWidth 32) with
          pending := s.pending }) ∧
      (classify a = .payload → exec (.registerWrite a value) s = .next { payloadWrite s a value with pending := s.pending }) ∧
      (classify a = .narrow → exec (.registerWrite a value) s =
        .next { barError s a (if 2 ≤ a.bar.toNat then 6 else 1) (offOf a) true with pending := s.pending }) ∧
      (classify a = .oversize → exec (.registerWrite a value) s = .next { urWrite s a 5 with pending := s.pending }) ∧
      (classify a = .unaligned → exec (.registerWrite a value) s = .next { urWrite s a 2 with pending := s.pending })) ∧
    (barsUp s = false → exec (.registerWrite a value) s =
      .next { urWrite (takeFree s) a (freeKind s) with pending := s.pending })) ∧
  (∀ (s t : State) (a : BarAccess) (off : Nat) (v : BitVec 32), barsUp s = true → t = loseUnlock s a.link →
    (a.bar = 0 → assigned off = true →
      (dictReg off = false ∨ (framesAhead s = 0 ∧ s.hen.bars = []) →
        dwordWrite s a off v = bar0Write s a.link a.member off v) ∧
      (dictReg off = true → framesAhead s ≠ 0 ∨ s.hen.bars ≠ [] →
        ((s.hen.bars.filter (fun w => w.link == a.link && w.read.isNone)).length < 64 →
          dwordWrite s a off v = { t with hen := { t.hen with bars := s.hen.bars ++
            [⟨a.link, a.member, off, v, s.now < tget 0 s.reg.unlock a.link.toNat, framesAhead t, none⟩] } }) ∧
        (64 ≤ (s.hen.bars.filter (fun w => w.link == a.link && w.read.isNone)).length → dwordWrite s a off v = s))) ∧
    (a.bar = 0 → assigned off = false →
      (0x3000000 ≤ off → (pageBit ((off - 0x3000000) / 4096)).isSome = true → dwordWrite s a off v = t) ∧
      (off < 0x3000000 ∨ (pageBit ((off - 0x3000000) / 4096)).isSome = false →
        dwordWrite s a off v = barError t a 3 off true)) ∧
    (a.bar = 1 →
      (∀ u, bellWrite s a.link off v = some u → dwordWrite s a off v = u) ∧
      (bellWrite s a.link off v = none → dwordWrite s a off v = barError (bellStray s a.link off) a 3 off true)) ∧
    (a.bar ≠ 0 → a.bar ≠ 1 → dwordWrite s a off v = barError s a 6 off true)) ∧
  (∀ (s : State) (l : HLink), alive s = true →
    (barsUp s = true → exec (.lockkeyWrite l 0x6A0D93B1) s = .next { s with reg := { s.reg with
      unlock := tput 0 s.reg.unlock l.toNat (s.now + 1000000) } }) ∧
    (∀ value, barsUp s = true → value ≠ 0x6A0D93B1 → ∃ t, exec (.lockkeyWrite l value) s = .next t ∧
      t.reg.unlock = tput 0 s.reg.unlock l.toNat 0 ∧
      t.reg.wrong.toNat = min (s.reg.wrong.toNat + 1) 0xFFFF ∧
      t.evt.raises = s.evt.raises ++ [⟨0x3E2, 164, islandTime s 164, leBytes 2 l.toNat⟩]) ∧
    (∀ value, barsUp s = false → exec (.lockkeyWrite l value) s =
      .next (sameTime s (urWrite (takeFree s) ⟨l, 0, 0, 0x18, 1, 15⟩ (freeKind s)))) ∧
    (tget 0 s.reg.unlock l.toNat ≤ s.now → exec (.bar0UnlockLapse l) s =
      .next { s with reg := { s.reg with unlock := tput 0 s.reg.unlock l.toNat 0 } }) ∧
    (s.now < tget 0 s.reg.unlock l.toNat → exec (.bar0UnlockLapse l) s = .next s)) ∧
  (∀ (s : State), alive s = true →
    exec .configParitySweep s = .next (sameTime s (sweepCopies (sweepMasters s))) ∧
    (s.reg.soft = [] → ∃ t, exec .configParitySweep s = .next t ∧ t.reg.upsets = [] ∧
      t.reg.parity = s.reg.parity + BitVec.ofNat 64 s.reg.upsets.length ∧ t.reg.masters = s.reg.masters) ∧
    (noMajority s.reg.masters = false → ∃ t, exec .voteSweep s = .next t ∧ t.reg.masters = [] ∧
      t.reg.votes = s.reg.votes + BitVec.ofNat 64 s.reg.masters.length ∧ t.dev.stage = s.dev.stage) ∧
    (noMajority s.reg.masters = true → exec .voteSweep s = .next (sameTime s (contain s 6 164)))) ∧
  (∀ (s t : State) (g i k : Nat) (o : Obj), reloadMaster s (g, i, k, false) = s ∧
    (objAt s g i = some o → t = (writeNow s ⟨.console, 0, 0⟩ o k (masterValue s o k)).1 → ∃ u,
      u = logRec t { LogRec.init with type := 0x15, sev := 2, unit := 6, flags := 16, island := 164,
                                      detail := bit 63 ||| BitVec.ofNat 64 (g * 65536 + i) } ∧
      reloadMaster s (g, i, k, true) =
        raise { u with reg := { u.reg with parity := u.reg.parity + 1 } } 0x3E0 164 [(2, i), (2, 164)]))

/-- A raise is taken in its order, counted and recorded; acknowledgement, routing and unmasking complete. Rules: R19,
R373, R451, R452, R456, R458, R459, R464. The oldest raise on its way from an island is taken, when no raise of
another island that is more than 60 ns older and no mark request that the island sent before it are on their way (log
entry 125) and island 164 has its clock; else nothing happens. Taking a raise of a source adds one to its count, makes
its time the last, ends its acknowledgement and puts a record with the next sequence number first in the ring of
1,024; unless the source was acknowledged nothing is signalled. An acknowledgement makes the source acknowledged, that
of E-0x3C2 its transports too; outside the 2,048 events it is RANGE. A routing entry without reserved bits is taken,
one with them RANGE; BAR0 presents neither. Unmasking a vector of a member opens it and sends what was pending. -/
def Obligations.EventUnitCommandsComplete : Prop :=
  (∀ (s : State) (i : Byte), alive s = true → islandOk i = true →
    (∀ r rest, takeFirst (fun r : Raise => r.island == i) s.evt.raises = some (r, rest) →
      s.clk.unlocked.contains 164 = false → markFirst s i = false →
      (olderFirst s r = true → exec (.eventRaise i) s = .next s) ∧
      (olderFirst s r = false → exec (.eventRaise i) s = .next (sameTime s (takeRaise (raiseIn s i rest) r)))) ∧
    (takeFirst (fun r : Raise => r.island == i) s.evt.raises = none ∨ s.clk.unlocked.contains 164 = true ∨
      markFirst s i = true → exec (.eventRaise i) s = .next s)) ∧
  (∀ (s : State) (r : Raise), (evSrc s r.event.toNat).acked = false → ∃ t, t = takeRaise s r ∧
    t.evt.src = tput EvSrc.init s.evt.src r.event.toNat ⟨(evSrc s r.event.toNat).count + 1, r.time, false⟩ ∧
    t.evt.ring = ⟨s.evt.nextSeq, r, (evSrc s r.event.toNat).count + 1, timeFree s⟩ :: s.evt.ring.take 1023 ∧
    t.evt.nextSeq = s.evt.nextSeq + 1 ∧ t.out = s.out ∧ t.hen = s.hen ∧ t.port = s.port) ∧
  (∀ (s t : State) (acc : Accessor) (e : BitVec 16) (n : Nat), alive s = true → passes s acc ackGate = true →
    n = (if acc.transport == .bar0 then e.toNat % 2048 else e.toNat) →
    t = { entered s acc with evt := { s.evt with
      src := tmod EvSrc.init s.evt.src n (fun v => { v with acked := true }) } } →
    (n < 2048 → n ≠ 0x3C2 → exec (.eventAcknowledge acc e) s = .next (sameTime s (replied acc .ok 0 t))) ∧
    (n = 0x3C2 → exec (.eventAcknowledge acc e) s =
      .next (sameTime s (replied acc .ok 0 { t with hen := { t.hen with discards := [] } }))) ∧
    (2048 ≤ n → exec (.eventAcknowledge acc e) s = .next (sameTime s (replied acc .range 0 (entered s acc))))) ∧
  (∀ (s : State) (acc : Accessor) (e : EventId) (value v : BitVec 32), alive s = true →
    passes s acc (routeGate e.toNat) = true → v = (if acc.transport == .bar0 then value &&& ~~~routeRsv else value) →
    (v &&& routeRsv = 0 →
      exec (.routingEntryWrite acc e value) s = .next (sameTime s (replied acc .ok 0 { entered s acc with
        evt := { s.evt with route := tput 0 s.evt.route e.toNat v } }))) ∧
    (v &&& routeRsv ≠ 0 →
      exec (.routingEntryWrite acc e value) s = .next (sameTime s (replied acc .range 0 (entered s acc))))) ∧
  (∀ (s : State) (l : HLink) (m : BitVec 2) (v : BitVec 11), alive s = true →
    ((membersOf s l).any (fun t => t.1 == m.toNat) = true →
      exec (.msixUnmask l m v) s = .next (sameTime s (msixFlush (setFn s l m { fnOf s l m with
        msixOpen := (fnOf s l m).msixOpen.filter (· != v.toNat) ++ [v.toNat] }) l m))) ∧
    ((membersOf s l).any (fun t => t.1 == m.toNat) = false → exec (.msixUnmask l m v) s = .next s))

/-- Selectors, sampling and histogram clears complete. Rules: R467, R468, R469, R471, R472, R477. A legal selector is
taken by its counter, another is RANGE. A crossing of a device counter raises E-0x3F2; of a bench counter, with
sampling on and no sample pending or recent, a sample is pending, else it counts as lost; with sampling off the record
is raised without one. A sample of a request that took its tracker since the crossing within 33 events is raised and
ended; one without a request for 1 ms is given up; else nothing happens. Sampling control takes a legal period,
another is RANGE; a histogram clear clears what its bits name. -/
def Obligations.CountersAndSamplingComplete : Prop :=
  (∀ (s : State) (acc : Accessor) (b : Option Bench) (n : BitVec 4) (v : BitVec 32), alive s = true → counterOk b n = true →
    passes s acc plainGate = true →
    (selOk b.isSome v.toNat = true →
      exec (.selectorWrite acc b n v) s = .next (sameTime s (replied acc .ok 0 (setCnt (entered s acc) (cntKey b n.toNat)
        { cntOf (entered s acc) (cntKey b n.toNat) with sel := v })))) ∧
    (selOk b.isSome v.toNat = false →
      exec (.selectorWrite acc b n v) s = .next (sameTime s (replied acc .range 0 (entered s acc))))) ∧
  (∀ (s t : State) (b : Option Bench) (n : BitVec 4), alive s = true → counterOk b n = true →
    (∀ c rest, takeFirst (fun c : Crossing => c.bench == b && c.n == n) s.obs.cross = some (c, rest) →
      t = { s with obs := { s.obs with cross := rest } } →
      (b = none → exec (.samplingCrossing b n) s = .next (raise t 0x3F2 164 [(1, n.toNat)])) ∧
      (∀ k, b = some k → s.obs.sampling = false →
        exec (.samplingCrossing b n) s = .next (sameTime s (benchCrossing t k none))) ∧
      (∀ k, b = some k → s.obs.sampling = true →
        (s.obs.pend.any (fun p => p.1 == k.toNat) = false →
          tget 0 s.obs.sampLast k.toNat = 0 ∨ 10000 ≤ since s (tget 0 s.obs.sampLast k.toNat) →
          exec (.samplingCrossing b n) s = .next { s with obs := { s.obs with
            cross := rest, pend := s.obs.pend ++ [(k.toNat, ⟨n, c.at_, 0⟩)] } }) ∧
        (s.obs.pend.any (fun p => p.1 == k.toNat) = true ∨ (tget 0 s.obs.sampLast k.toNat ≠ 0 ∧
          since s (tget 0 s.obs.sampLast k.toNat) < 10000) →
          exec (.samplingCrossing b n) s = .next { s with obs := { s.obs with
            cross := rest, sampLost := tinc s.obs.sampLost k.toNat } }))) ∧
    (takeFirst (fun c : Crossing => c.bench == b && c.n == n) s.obs.cross = none →
      exec (.samplingCrossing b n) s = .next s)) ∧
  (∀ (s : State) (b : Bench) (id k : Nat) (m : Sample), alive s = true →
    s.obs.pend.find? (fun p => p.1 == b.toNat) = some (k, m) →
    (∀ r, reqOf s id = some r →
      (atBench b r = true → r.pool.isSome = true → 1 ≤ m.skid → m.skid ≤ 33 → since s r.tracked ≤ since s m.at_ →
        exec (.sampleTaken b id) s = .next (sameTime s (endSample (benchCrossing s b (some (r, m))) b))) ∧
      (atBench b r = false ∨ r.pool = none ∨ m.skid < 1 ∨ 33 < m.skid ∨ since s m.at_ < since s r.tracked →
        exec (.sampleTaken b id) s = .next s)) ∧
    (reqOf s id = none → exec (.sampleTaken b id) s = .next s) ∧
    (1000000 ≤ since s m.at_ →
      exec (.sampleTimeout b) s = .next (sameTime s (endSample (benchCrossing s b none) b))) ∧
    (since s m.at_ < 1000000 → exec (.sampleTimeout b) s = .next s)) ∧
  (∀ (s : State) (b : Bench) (id : Nat), alive s = true → s.obs.pend.find? (fun p => p.1 == b.toNat) = none →
    exec (.sampleTaken b id) s = .next s ∧ exec (.sampleTimeout b) s = .next s) ∧
  (∀ (s : State) (acc : Accessor) (v : BitVec 32), alive s = true → passes s acc plainGate = true →
    (10 ≤ v.toNat % 256 → v.toNat % 256 ≤ 48 → v.toNat / 256 ≤ 1 →
      exec (.samplingControlWrite acc v) s = .next (sameTime s (replied acc .ok 0 { entered s acc with
        obs := { (entered s acc).obs with samplingLog := v.setWidth 8, sampling := v.getLsbD 8 } }))) ∧
    (v.toNat % 256 < 10 ∨ 48 < v.toNat % 256 ∨ 1 < v.toNat / 256 →
      exec (.samplingControlWrite acc v) s = .next (sameTime s (replied acc .range 0 (entered s acc)))) ∧
    exec (.histogramClear acc v) s = .next (sameTime s (replied acc .ok 0 { entered s acc with
      obs := { (entered s acc).obs with
        hist := if v.getLsbD 0 then [] else s.obs.hist, xhist := if v.getLsbD 1 then [] else s.obs.xhist } })))

/-- Seam captures, drops, exports and writes its ring. Rules: R480, R481, R482, R483, R484, R485, R486, R487. While Seam
records and is not fused or held, an observation that no filter captures only counts; one that is captured is stored
when it fits, over the oldest records where no sink is enabled, and dropped and counted when it does not. Control
takes recording and frozen; stopping leaves only a record the ring has begun. Legal filters, ring settings that leave
a running ring where it is, and export settings of a port that is disabled are taken at once, export settings of one
that is enabled at a frame's end; others are TYPE, RANGE or QUIESCE_REQUIRED. An export frame sends the whole records
that fit. In MEMORY_ACTIVE an enabled ring with nothing outstanding writes the next of the three parts of its record.
Else nothing happens. -/
def Obligations.SeamCommandsComplete : Prop :=
  (∀ (s : State) (o : SeamObs) (m n : SeamS) (need : Nat), alive s = true →
    (s.obs.seam.control = 1 → s.obs.seam.fuse = false → s.clk.unlocked.contains 166 = false → o.type.toNat ≠ 0 →
      o.type.toNat < 10 →
      (filterAll s.obs.seam o = (m, false) → exec (.seamCapture o) s = .next (setSeam s m)) ∧
      (filterAll s.obs.seam o = (m, true) → need = seamLen o.type.toNat + (if m.lostSince = 0 then 0 else 32) →
        n = (if m.ringOn || exportOn m then m else seamMakeRoom need m.buf.length m) →
        (bufBytes n + need ≤ 4194304 →
          exec (.seamCapture o) s = .next (sameTime s (countDev (seamStore (setSeam s n) o.type.toNat
            (seamTime s o.tag) (seamBody s o.type.toNat o.body)) 0x10F 0))) ∧
        (4194304 < bufBytes n + need → exec (.seamCapture o) s = .next (sameTime s (seamDrop (setSeam s n)))))) ∧
    (s.obs.seam.control ≠ 1 ∨ s.obs.seam.fuse = true ∨ s.clk.unlocked.contains 166 = true ∨ o.type.toNat = 0 ∨
      10 ≤ o.type.toNat → exec (.seamCapture o) s = .next s)) ∧
  (∀ (s : State) (acc : Accessor), alive s = true → passes s acc seamGate = true →
    (∀ v : Byte, v = 1 ∨ v = 2 → exec (.seamControlWrite acc v) s = .next (sameTime s (replied acc .ok 0
      (setSeam (entered s acc) { s.obs.seam with control := v.setWidth 2 })))) ∧
    (∀ keep, keep = (if s.obs.seam.ringOn && s.obs.seam.ringPart != 0 then (s.obs.seam.buf.drop s.obs.seam.ringNext).take 1
        else []) →
      exec (.seamControlWrite acc 0) s = .next (sameTime s (replied acc .ok 0 (setSeam (entered s acc) (seamTrim
        { s.obs.seam with control := 0, buf := keep, ringNext := 0, expNext := keep.length }))))) ∧
    (∀ v : Byte, 3 ≤ v.toNat → exec (.seamControlWrite acc v) s =
      .next (sameTime s (replied acc .range 0 (entered s acc)))) ∧
    (∀ l : List Byte,
      (l.length = 64 → (List.range 4).all (filterOk l) = true →
        exec (.seamFilterWrite acc l) s = .next (sameTime s (replied acc .ok 0
          (setSeam (entered s acc) { s.obs.seam with filters := l, filterCount := [] })))) ∧
      (l.length = 64 → (List.range 4).all (filterOk l) = false →
        exec (.seamFilterWrite acc l) s = .next (sameTime s (replied acc .range 0 (entered s acc)))) ∧
      (l.length ≠ 64 →
        exec (.seamFilterWrite acc l) s = .next (sameTime s (replied acc .type 0 (entered s acc))))) ∧
    (∀ v : BitVec 32,
      (v.toNat < 4 → exportOn s.obs.seam = false →
        exec (.exportSettingsWrite acc v) s = .next (sameTime s (replied acc .ok 0 (applyExport (entered s acc) v)))) ∧
      (v.toNat < 4 → exportOn s.obs.seam = true →
        exec (.exportSettingsWrite acc v) s = .next (sameTime s (replied acc .ok 0
          (setSeam (entered s acc) { s.obs.seam with exportNext := some v })))) ∧
      (4 ≤ v.toNat →
        exec (.exportSettingsWrite acc v) s = .next (sameTime s (replied acc .range 0 (entered s acc)))))) ∧
  (∀ (s : State) (acc : Accessor) (l : List Byte) (log on : Byte) (base : Nat) (m : SeamS), alive s = true →
    passes s acc ringGate = true → log = l.getD 8 0 → on = l.getD 9 0 → base = leNat (l.take 8) →
    (l.length = 16 → 16 ≤ log.toNat → log.toNat ≤ 30 → on.toNat < 2 → (l.drop 10).all (· == 0) = true →
      base % 2 ^ log.toNat = 0 → base < 2 ^ 48 →
      (s.obs.seam.ringOn = false ∨ (BitVec.ofNat 64 base = s.obs.seam.ringBase ∧ log = s.obs.seam.ringLog) →
        m = (if on = 1 ∧ s.obs.seam.ringOn = false then { s.obs.seam with ringPos := 0, ringPart := 0, ringNext := 0 }
             else s.obs.seam) →
        exec (.ringSettingsWrite acc l) s = .next (sameTime s (replied acc .ok 0 (setSeam (entered s acc) (seamTrim
          { m with ringBase := BitVec.ofNat 64 base, ringLog := log, ringOn := on == 1 }))))) ∧
      (s.obs.seam.ringOn = true → BitVec.ofNat 64 base ≠ s.obs.seam.ringBase ∨ log ≠ s.obs.seam.ringLog →
        exec (.ringSettingsWrite acc l) s = .next (sameTime s (replied acc .quiesceRequired 0 (entered s acc))))) ∧
    (l.length = 16 → log.toNat < 16 ∨ 30 < log.toNat ∨ 2 ≤ on.toNat ∨ (l.drop 10).all (· == 0) = false ∨
      base % 2 ^ log.toNat ≠ 0 ∨ 2 ^ 48 ≤ base →
      exec (.ringSettingsWrite acc l) s = .next (sameTime s (replied acc .range 0 (entered s acc)))) ∧
    (l.length ≠ 16 →
      exec (.ringSettingsWrite acc l) s = .next (sameTime s (replied acc .type 0 (entered s acc))))) ∧
  (∀ (s t : State) (l : List SeamRec), alive s = true → s.obs.seam.fuse = false → exportOn s.obs.seam = true →
    l = frameRecs 4096 (s.obs.seam.buf.drop s.obs.seam.expNext) → t = (if l = [] then s else exportSend s l) →
    (t.obs.seam.exportNext = none → exec .exportFrame s = .next (sameTime s t)) ∧
    (∀ v, t.obs.seam.exportNext = some v → exec .exportFrame s = .next (sameTime s (applyExport t v)))) ∧
  (∀ (s : State), alive s = true → s.obs.seam.fuse = true ∨ exportOn s.obs.seam = false → exec .exportFrame s = .next s) ∧
  (∀ (s : State) (r : SeamRec) (pad : Bool) (m : SeamS) (a : Nat), alive s = true → m = s.obs.seam → m.fuse = false →
    m.ringOn = true → presented s = true → ringBusy s = false → ringRec m = some (r, pad) →
    a = m.ringBase.toNat + m.ringPos.toNat →
    (m.ringPart = 0 → exec .seamRingWrite s =
      .next (sameTime s (ringBytes 4 (setSeam s { m with ringPart := 1 }) a ((recBytes r 0).take 8)))) ∧
    (m.ringPart = 1 → exec .seamRingWrite s =
      .next (sameTime s (ringBytes 4 (setSeam s { m with ringPart := 2 }) (a + 8) ((recBytes r (recLen r)).drop 8)))) ∧
    (m.ringPart ≠ 0 → m.ringPart ≠ 1 → exec .seamRingWrite s =
      .next (sameTime s (ringAdvance (ringBytes 4 s a ((recBytes r (recLen r)).take 8)) r pad)))) ∧
  (∀ (s : State), alive s = true → s.obs.seam.fuse = true ∨ s.obs.seam.ringOn = false ∨ presented s = false ∨
    ringBusy s = true ∨ ringRec s.obs.seam = none → exec .seamRingWrite s = .next s)

end Statements
end

