-- ==== Sys2Proof/Laws/Tab.lean ====
section
/-!
SUPPORT. Sparse tables: a read after a write, and the canonical form that every write keeps.
-/

namespace Sys2Proof.Machine

@[simp] theorem tget_nil {α : Type} (d : α) (n : Nat) : tget d [] n = d := rfl

theorem tget_cons {α : Type} (d : α) (k : Nat) (v : α) (t : Tab α) (n : Nat) :
    tget d ((k, v) :: t) n = if n = k then v else tget d t n := rfl

/-- A write leaves every other key alone. -/
theorem tget_tput_ne {α : Type} [DecidableEq α] (d : α) (t : Tab α) (n m : Nat) (v : α) (h : m ≠ n) :
    tget d (tput d t n v) m = tget d t m := by
  induction t with
  | nil => by_cases hv : v = d <;> simp [tput, tget, hv, h]
  | cons a t ih =>
    obtain ⟨k, w⟩ := a
    simp only [tput]
    split
    · split <;> simp [tget, h]
    · split
      · subst n
        split <;> simp [tget, h]
      · simp [tget, ih]

/-- A key below the first key of a table in canonical form is unlisted. -/
theorem tget_below {α : Type} [DecidableEq α] (d : α) (t : Tab α) (l n : Nat) (h : twfFrom d (some l) t = true)
    (hn : n ≤ l) : tget d t n = d := by
  induction t generalizing l with
  | nil => rfl
  | cons a t ih =>
    obtain ⟨k, w⟩ := a
    simp only [twfFrom, Bool.and_eq_true, decide_eq_true_eq] at h
    have hk : n ≠ k := by omega
    simp only [tget, hk, if_false]
    exact ih k h.2 (by omega)

/-- A read after a write of a value other than the default gives the value. -/
theorem tget_tput_new {α : Type} [DecidableEq α] (d : α) (t : Tab α) (n : Nat) (v : α) (hv : v ≠ d) :
    tget d (tput d t n v) n = v := by
  induction t with
  | nil => simp [tput, tget, hv]
  | cons a t ih =>
    obtain ⟨k, w⟩ := a
    simp only [tput]
    split
    · simp [tget]
    · split
      · simp [tget]
      · rename_i h2
        simp [tget, h2, ih]

theorem twfFrom_weaken {α : Type} [DecidableEq α] (d : α) (t : Tab α) (l : Nat) (h : twfFrom d (some l) t = true) :
    twfFrom d none t = true := by
  cases t with
  | nil => rfl
  | cons a t =>
    obtain ⟨k, w⟩ := a
    simp only [twfFrom, Bool.and_eq_true] at h ⊢
    exact ⟨⟨trivial, h.1.2⟩, h.2⟩

theorem twfFrom_lower {α : Type} [DecidableEq α] (d : α) (t : Tab α) (l m : Nat) (h : twfFrom d (some l) t = true)
    (hm : m ≤ l) : twfFrom d (some m) t = true := by
  cases t with
  | nil => rfl
  | cons a t =>
    obtain ⟨k, w⟩ := a
    simp only [twfFrom, Bool.and_eq_true, decide_eq_true_eq] at h ⊢
    exact ⟨⟨by omega, h.1.2⟩, h.2⟩

/-- In a table in canonical form a read after a write gives the value. -/
theorem tget_tput_self {α : Type} [DecidableEq α] (d : α) (t : Tab α) (n : Nat) (v : α) (h : twf d t = true) :
    tget d (tput d t n v) n = v := by
  by_cases hv : v = d
  · subst hv
    unfold twf at h
    induction t with
    | nil => simp [tput]
    | cons a t ih =>
      obtain ⟨k, w⟩ := a
      simp only [twfFrom, Bool.and_eq_true, decide_eq_true_eq] at h
      simp only [tput, if_true]
      split
      · rename_i h1
        simp only [tget, Nat.ne_of_lt h1, if_false]
        exact tget_below v t k n h.2 (Nat.le_of_lt h1)
      · split
        · subst n
          exact tget_below v t k k h.2 (Nat.le_refl k)
        · rename_i h2
          simp only [tget, h2, if_false]
          exact ih (twfFrom_weaken v t k h.2)
  · exact tget_tput_new d t n v hv

theorem twfFrom_tput {α : Type} [DecidableEq α] (d : α) (t : Tab α) (lo : Option Nat) (n : Nat) (v : α)
    (h : twfFrom d lo t = true) (hl : ∀ l, lo = some l → l < n) : twfFrom d lo (tput d t n v) = true := by
  induction t generalizing lo with
  | nil =>
    by_cases hv : v = d
    · simp [tput, hv, twfFrom]
    · cases lo with
      | none => simp [tput, hv, twfFrom]
      | some l => simp [tput, hv, twfFrom, hl l rfl]
  | cons a t ih =>
    obtain ⟨k, w⟩ := a
    have h0 := h
    simp only [twfFrom, Bool.and_eq_true, decide_eq_true_eq] at h
    simp only [tput]
    split
    · rename_i h1
      split
      · exact h0
      · rename_i hv
        simp only [twfFrom, Bool.and_eq_true, decide_eq_true_eq]
        refine ⟨⟨?_, hv⟩, ⟨h1, h.1.2⟩, h.2⟩
        cases lo with
        | none => rfl
        | some l => simpa using hl l rfl
    · split
      · subst n
        split
        · cases lo with
          | none => exact twfFrom_weaken d t k h.2
          | some l => exact twfFrom_lower d t k l h.2 (Nat.le_of_lt (hl l rfl))
        · rename_i hv
          simp only [twfFrom, Bool.and_eq_true, decide_eq_true_eq]
          exact ⟨⟨h.1.1, hv⟩, h.2⟩
      · simp only [twfFrom, Bool.and_eq_true, decide_eq_true_eq]
        exact ⟨⟨h.1.1, h.1.2⟩, ih (some k) h.2 (by intro l hl'; cases hl'; omega)⟩

/-- Every write keeps the canonical form. -/
theorem twf_tput {α : Type} [DecidableEq α] (d : α) (t : Tab α) (n : Nat) (v : α) (h : twf d t = true) :
    twf d (tput d t n v) = true :=
  twfFrom_tput d t none n v h (by simp)

theorem twf_tmod {α : Type} [DecidableEq α] (d : α) (t : Tab α) (n : Nat) (f : α → α) (h : twf d t = true) :
    twf d (tmod d t n f) = true :=
  twf_tput d t n _ h

theorem twf_tinc (t : Tab (BitVec 64)) (n : Nat) (h : twf 0 t = true) : twf 0 (tinc t n) = true :=
  twf_tmod 0 t n _ h

@[simp] theorem twf_nil {α : Type} [DecidableEq α] (d : α) : twf d [] = true := rfl

end Sys2Proof.Machine
end

