-- ==== Sys2Proof/Laws/State.lean ====
section
/-!
SUPPORT. What each named update of the state leaves in each field.
-/

namespace Sys2Proof.Machine

-- emit
@[simp] theorem emit_region (s : State) (o : Out) : (emit s o).region = s.region := rfl
@[simp] theorem emit_cache (s : State) (o : Out) : (emit s o).cache = s.cache := rfl
@[simp] theorem emit_snoop (s : State) (o : Out) : (emit s o).snoop = s.snoop := rfl
@[simp] theorem emit_contract (s : State) (o : Out) : (emit s o).contract = s.contract := rfl
@[simp] theorem emit_job (s : State) (o : Out) : (emit s o).job = s.job := rfl
@[simp] theorem emit_rel (s : State) (o : Out) : (emit s o).rel = s.rel := rfl
@[simp] theorem emit_port (s : State) (o : Out) : (emit s o).port = s.port := rfl
@[simp] theorem emit_peer (s : State) (o : Out) : (emit s o).peer = s.peer := rfl
@[simp] theorem emit_dev (s : State) (o : Out) : (emit s o).dev = s.dev := rfl
@[simp] theorem emit_clk (s : State) (o : Out) : (emit s o).clk = s.clk := rfl
@[simp] theorem emit_hen (s : State) (o : Out) : (emit s o).hen = s.hen := rfl
@[simp] theorem emit_reg (s : State) (o : Out) : (emit s o).reg = s.reg := rfl
@[simp] theorem emit_evt (s : State) (o : Out) : (emit s o).evt = s.evt := rfl
@[simp] theorem emit_obs (s : State) (o : Out) : (emit s o).obs = s.obs := rfl
@[simp] theorem emit_now (s : State) (o : Out) : (emit s o).now = s.now := rfl
@[simp] theorem emit_freeCount (s : State) (o : Out) : (emit s o).freeCount = s.freeCount := rfl
@[simp] theorem emit_pending (s : State) (o : Out) : (emit s o).pending = s.pending := rfl
-- takeFree
@[simp] theorem takeFree_region (s : State) : (takeFree s).region = s.region := rfl
@[simp] theorem takeFree_cache (s : State) : (takeFree s).cache = s.cache := rfl
@[simp] theorem takeFree_snoop (s : State) : (takeFree s).snoop = s.snoop := rfl
@[simp] theorem takeFree_contract (s : State) : (takeFree s).contract = s.contract := rfl
@[simp] theorem takeFree_job (s : State) : (takeFree s).job = s.job := rfl
@[simp] theorem takeFree_rel (s : State) : (takeFree s).rel = s.rel := rfl
@[simp] theorem takeFree_port (s : State) : (takeFree s).port = s.port := rfl
@[simp] theorem takeFree_peer (s : State) : (takeFree s).peer = s.peer := rfl
@[simp] theorem takeFree_dev (s : State) : (takeFree s).dev = s.dev := rfl
@[simp] theorem takeFree_clk (s : State) : (takeFree s).clk = s.clk := rfl
@[simp] theorem takeFree_hen (s : State) : (takeFree s).hen = s.hen := rfl
@[simp] theorem takeFree_reg (s : State) : (takeFree s).reg = s.reg := rfl
@[simp] theorem takeFree_evt (s : State) : (takeFree s).evt = s.evt := rfl
@[simp] theorem takeFree_obs (s : State) : (takeFree s).obs = s.obs := rfl
@[simp] theorem takeFree_now (s : State) : (takeFree s).now = s.now := rfl
@[simp] theorem takeFree_out (s : State) : (takeFree s).out = s.out := rfl
@[simp] theorem takeFree_pending (s : State) : (takeFree s).pending = s.pending := rfl
-- setWin
@[simp] theorem setWin_cache (s : State) (w : WinId) (v : Win) : (setWin s w v).cache = s.cache := rfl
@[simp] theorem setWin_snoop (s : State) (w : WinId) (v : Win) : (setWin s w v).snoop = s.snoop := rfl
@[simp] theorem setWin_contract (s : State) (w : WinId) (v : Win) : (setWin s w v).contract = s.contract := rfl
@[simp] theorem setWin_job (s : State) (w : WinId) (v : Win) : (setWin s w v).job = s.job := rfl
@[simp] theorem setWin_rel (s : State) (w : WinId) (v : Win) : (setWin s w v).rel = s.rel := rfl
@[simp] theorem setWin_port (s : State) (w : WinId) (v : Win) : (setWin s w v).port = s.port := rfl
@[simp] theorem setWin_peer (s : State) (w : WinId) (v : Win) : (setWin s w v).peer = s.peer := rfl
@[simp] theorem setWin_dev (s : State) (w : WinId) (v : Win) : (setWin s w v).dev = s.dev := rfl
@[simp] theorem setWin_clk (s : State) (w : WinId) (v : Win) : (setWin s w v).clk = s.clk := rfl
@[simp] theorem setWin_hen (s : State) (w : WinId) (v : Win) : (setWin s w v).hen = s.hen := rfl
@[simp] theorem setWin_reg (s : State) (w : WinId) (v : Win) : (setWin s w v).reg = s.reg := rfl
@[simp] theorem setWin_evt (s : State) (w : WinId) (v : Win) : (setWin s w v).evt = s.evt := rfl
@[simp] theorem setWin_obs (s : State) (w : WinId) (v : Win) : (setWin s w v).obs = s.obs := rfl
@[simp] theorem setWin_now (s : State) (w : WinId) (v : Win) : (setWin s w v).now = s.now := rfl
@[simp] theorem setWin_freeCount (s : State) (w : WinId) (v : Win) : (setWin s w v).freeCount = s.freeCount := rfl
@[simp] theorem setWin_out (s : State) (w : WinId) (v : Win) : (setWin s w v).out = s.out := rfl
@[simp] theorem setWin_pending (s : State) (w : WinId) (v : Win) : (setWin s w v).pending = s.pending := rfl
-- setBench
@[simp] theorem setBench_region (s : State) (b : Bench) (v : BenchS) : (setBench s b v).region = s.region := rfl
@[simp] theorem setBench_snoop (s : State) (b : Bench) (v : BenchS) : (setBench s b v).snoop = s.snoop := rfl
@[simp] theorem setBench_contract (s : State) (b : Bench) (v : BenchS) : (setBench s b v).contract = s.contract := rfl
@[simp] theorem setBench_job (s : State) (b : Bench) (v : BenchS) : (setBench s b v).job = s.job := rfl
@[simp] theorem setBench_rel (s : State) (b : Bench) (v : BenchS) : (setBench s b v).rel = s.rel := rfl
@[simp] theorem setBench_port (s : State) (b : Bench) (v : BenchS) : (setBench s b v).port = s.port := rfl
@[simp] theorem setBench_peer (s : State) (b : Bench) (v : BenchS) : (setBench s b v).peer = s.peer := rfl
@[simp] theorem setBench_dev (s : State) (b : Bench) (v : BenchS) : (setBench s b v).dev = s.dev := rfl
@[simp] theorem setBench_clk (s : State) (b : Bench) (v : BenchS) : (setBench s b v).clk = s.clk := rfl
@[simp] theorem setBench_hen (s : State) (b : Bench) (v : BenchS) : (setBench s b v).hen = s.hen := rfl
@[simp] theorem setBench_reg (s : State) (b : Bench) (v : BenchS) : (setBench s b v).reg = s.reg := rfl
@[simp] theorem setBench_evt (s : State) (b : Bench) (v : BenchS) : (setBench s b v).evt = s.evt := rfl
@[simp] theorem setBench_obs (s : State) (b : Bench) (v : BenchS) : (setBench s b v).obs = s.obs := rfl
@[simp] theorem setBench_now (s : State) (b : Bench) (v : BenchS) : (setBench s b v).now = s.now := rfl
@[simp] theorem setBench_freeCount (s : State) (b : Bench) (v : BenchS) : (setBench s b v).freeCount = s.freeCount := rfl
@[simp] theorem setBench_out (s : State) (b : Bench) (v : BenchS) : (setBench s b v).out = s.out := rfl
@[simp] theorem setBench_pending (s : State) (b : Bench) (v : BenchS) : (setBench s b v).pending = s.pending := rfl
-- setLink
@[simp] theorem setLink_region (s : State) (p : Nat) (v : LinkS) : (setLink s p v).region = s.region := rfl
@[simp] theorem setLink_cache (s : State) (p : Nat) (v : LinkS) : (setLink s p v).cache = s.cache := rfl
@[simp] theorem setLink_snoop (s : State) (p : Nat) (v : LinkS) : (setLink s p v).snoop = s.snoop := rfl
@[simp] theorem setLink_contract (s : State) (p : Nat) (v : LinkS) : (setLink s p v).contract = s.contract := rfl
@[simp] theorem setLink_job (s : State) (p : Nat) (v : LinkS) : (setLink s p v).job = s.job := rfl
@[simp] theorem setLink_rel (s : State) (p : Nat) (v : LinkS) : (setLink s p v).rel = s.rel := rfl
@[simp] theorem setLink_peer (s : State) (p : Nat) (v : LinkS) : (setLink s p v).peer = s.peer := rfl
@[simp] theorem setLink_dev (s : State) (p : Nat) (v : LinkS) : (setLink s p v).dev = s.dev := rfl
@[simp] theorem setLink_clk (s : State) (p : Nat) (v : LinkS) : (setLink s p v).clk = s.clk := rfl
@[simp] theorem setLink_hen (s : State) (p : Nat) (v : LinkS) : (setLink s p v).hen = s.hen := rfl
@[simp] theorem setLink_reg (s : State) (p : Nat) (v : LinkS) : (setLink s p v).reg = s.reg := rfl
@[simp] theorem setLink_evt (s : State) (p : Nat) (v : LinkS) : (setLink s p v).evt = s.evt := rfl
@[simp] theorem setLink_obs (s : State) (p : Nat) (v : LinkS) : (setLink s p v).obs = s.obs := rfl
@[simp] theorem setLink_now (s : State) (p : Nat) (v : LinkS) : (setLink s p v).now = s.now := rfl
@[simp] theorem setLink_freeCount (s : State) (p : Nat) (v : LinkS) : (setLink s p v).freeCount = s.freeCount := rfl
@[simp] theorem setLink_out (s : State) (p : Nat) (v : LinkS) : (setLink s p v).out = s.out := rfl
@[simp] theorem setLink_pending (s : State) (p : Nat) (v : LinkS) : (setLink s p v).pending = s.pending := rfl
-- setHlink
@[simp] theorem setHlink_region (s : State) (l : HLink) (v : HLinkS) : (setHlink s l v).region = s.region := rfl
@[simp] theorem setHlink_cache (s : State) (l : HLink) (v : HLinkS) : (setHlink s l v).cache = s.cache := rfl
@[simp] theorem setHlink_snoop (s : State) (l : HLink) (v : HLinkS) : (setHlink s l v).snoop = s.snoop := rfl
@[simp] theorem setHlink_contract (s : State) (l : HLink) (v : HLinkS) : (setHlink s l v).contract = s.contract := rfl
@[simp] theorem setHlink_job (s : State) (l : HLink) (v : HLinkS) : (setHlink s l v).job = s.job := rfl
@[simp] theorem setHlink_rel (s : State) (l : HLink) (v : HLinkS) : (setHlink s l v).rel = s.rel := rfl
@[simp] theorem setHlink_peer (s : State) (l : HLink) (v : HLinkS) : (setHlink s l v).peer = s.peer := rfl
@[simp] theorem setHlink_dev (s : State) (l : HLink) (v : HLinkS) : (setHlink s l v).dev = s.dev := rfl
@[simp] theorem setHlink_clk (s : State) (l : HLink) (v : HLinkS) : (setHlink s l v).clk = s.clk := rfl
@[simp] theorem setHlink_hen (s : State) (l : HLink) (v : HLinkS) : (setHlink s l v).hen = s.hen := rfl
@[simp] theorem setHlink_reg (s : State) (l : HLink) (v : HLinkS) : (setHlink s l v).reg = s.reg := rfl
@[simp] theorem setHlink_evt (s : State) (l : HLink) (v : HLinkS) : (setHlink s l v).evt = s.evt := rfl
@[simp] theorem setHlink_obs (s : State) (l : HLink) (v : HLinkS) : (setHlink s l v).obs = s.obs := rfl
@[simp] theorem setHlink_now (s : State) (l : HLink) (v : HLinkS) : (setHlink s l v).now = s.now := rfl
@[simp] theorem setHlink_freeCount (s : State) (l : HLink) (v : HLinkS) : (setHlink s l v).freeCount = s.freeCount := rfl
@[simp] theorem setHlink_out (s : State) (l : HLink) (v : HLinkS) : (setHlink s l v).out = s.out := rfl
@[simp] theorem setHlink_pending (s : State) (l : HLink) (v : HLinkS) : (setHlink s l v).pending = s.pending := rfl
-- setXlink
@[simp] theorem setXlink_region (s : State) (x : XLink) (v : XLinkS) : (setXlink s x v).region = s.region := rfl
@[simp] theorem setXlink_cache (s : State) (x : XLink) (v : XLinkS) : (setXlink s x v).cache = s.cache := rfl
@[simp] theorem setXlink_snoop (s : State) (x : XLink) (v : XLinkS) : (setXlink s x v).snoop = s.snoop := rfl
@[simp] theorem setXlink_contract (s : State) (x : XLink) (v : XLinkS) : (setXlink s x v).contract = s.contract := rfl
@[simp] theorem setXlink_job (s : State) (x : XLink) (v : XLinkS) : (setXlink s x v).job = s.job := rfl
@[simp] theorem setXlink_rel (s : State) (x : XLink) (v : XLinkS) : (setXlink s x v).rel = s.rel := rfl
@[simp] theorem setXlink_peer (s : State) (x : XLink) (v : XLinkS) : (setXlink s x v).peer = s.peer := rfl
@[simp] theorem setXlink_dev (s : State) (x : XLink) (v : XLinkS) : (setXlink s x v).dev = s.dev := rfl
@[simp] theorem setXlink_clk (s : State) (x : XLink) (v : XLinkS) : (setXlink s x v).clk = s.clk := rfl
@[simp] theorem setXlink_hen (s : State) (x : XLink) (v : XLinkS) : (setXlink s x v).hen = s.hen := rfl
@[simp] theorem setXlink_reg (s : State) (x : XLink) (v : XLinkS) : (setXlink s x v).reg = s.reg := rfl
@[simp] theorem setXlink_evt (s : State) (x : XLink) (v : XLinkS) : (setXlink s x v).evt = s.evt := rfl
@[simp] theorem setXlink_obs (s : State) (x : XLink) (v : XLinkS) : (setXlink s x v).obs = s.obs := rfl
@[simp] theorem setXlink_now (s : State) (x : XLink) (v : XLinkS) : (setXlink s x v).now = s.now := rfl
@[simp] theorem setXlink_freeCount (s : State) (x : XLink) (v : XLinkS) : (setXlink s x v).freeCount = s.freeCount := rfl
@[simp] theorem setXlink_out (s : State) (x : XLink) (v : XLinkS) : (setXlink s x v).out = s.out := rfl
@[simp] theorem setXlink_pending (s : State) (x : XLink) (v : XLinkS) : (setXlink s x v).pending = s.pending := rfl
-- setFn
@[simp] theorem setFn_region (s : State) (l : HLink) (m : BitVec 2) (v : FnS) : (setFn s l m v).region = s.region := rfl
@[simp] theorem setFn_cache (s : State) (l : HLink) (m : BitVec 2) (v : FnS) : (setFn s l m v).cache = s.cache := rfl
@[simp] theorem setFn_snoop (s : State) (l : HLink) (m : BitVec 2) (v : FnS) : (setFn s l m v).snoop = s.snoop := rfl
@[simp] theorem setFn_contract (s : State) (l : HLink) (m : BitVec 2) (v : FnS) : (setFn s l m v).contract = s.contract := rfl
@[simp] theorem setFn_job (s : State) (l : HLink) (m : BitVec 2) (v : FnS) : (setFn s l m v).job = s.job := rfl
@[simp] theorem setFn_rel (s : State) (l : HLink) (m : BitVec 2) (v : FnS) : (setFn s l m v).rel = s.rel := rfl
@[simp] theorem setFn_peer (s : State) (l : HLink) (m : BitVec 2) (v : FnS) : (setFn s l m v).peer = s.peer := rfl
@[simp] theorem setFn_dev (s : State) (l : HLink) (m : BitVec 2) (v : FnS) : (setFn s l m v).dev = s.dev := rfl
@[simp] theorem setFn_clk (s : State) (l : HLink) (m : BitVec 2) (v : FnS) : (setFn s l m v).clk = s.clk := rfl
@[simp] theorem setFn_hen (s : State) (l : HLink) (m : BitVec 2) (v : FnS) : (setFn s l m v).hen = s.hen := rfl
@[simp] theorem setFn_reg (s : State) (l : HLink) (m : BitVec 2) (v : FnS) : (setFn s l m v).reg = s.reg := rfl
@[simp] theorem setFn_evt (s : State) (l : HLink) (m : BitVec 2) (v : FnS) : (setFn s l m v).evt = s.evt := rfl
@[simp] theorem setFn_obs (s : State) (l : HLink) (m : BitVec 2) (v : FnS) : (setFn s l m v).obs = s.obs := rfl
@[simp] theorem setFn_now (s : State) (l : HLink) (m : BitVec 2) (v : FnS) : (setFn s l m v).now = s.now := rfl
@[simp] theorem setFn_freeCount (s : State) (l : HLink) (m : BitVec 2) (v : FnS) : (setFn s l m v).freeCount = s.freeCount := rfl
@[simp] theorem setFn_out (s : State) (l : HLink) (m : BitVec 2) (v : FnS) : (setFn s l m v).out = s.out := rfl
@[simp] theorem setFn_pending (s : State) (l : HLink) (m : BitVec 2) (v : FnS) : (setFn s l m v).pending = s.pending := rfl
-- setPlink
@[simp] theorem setPlink_region (s : State) (l : Nat) (v : PLinkS) : (setPlink s l v).region = s.region := rfl
@[simp] theorem setPlink_cache (s : State) (l : Nat) (v : PLinkS) : (setPlink s l v).cache = s.cache := rfl
@[simp] theorem setPlink_snoop (s : State) (l : Nat) (v : PLinkS) : (setPlink s l v).snoop = s.snoop := rfl
@[simp] theorem setPlink_contract (s : State) (l : Nat) (v : PLinkS) : (setPlink s l v).contract = s.contract := rfl
@[simp] theorem setPlink_job (s : State) (l : Nat) (v : PLinkS) : (setPlink s l v).job = s.job := rfl
@[simp] theorem setPlink_rel (s : State) (l : Nat) (v : PLinkS) : (setPlink s l v).rel = s.rel := rfl
@[simp] theorem setPlink_port (s : State) (l : Nat) (v : PLinkS) : (setPlink s l v).port = s.port := rfl
@[simp] theorem setPlink_dev (s : State) (l : Nat) (v : PLinkS) : (setPlink s l v).dev = s.dev := rfl
@[simp] theorem setPlink_clk (s : State) (l : Nat) (v : PLinkS) : (setPlink s l v).clk = s.clk := rfl
@[simp] theorem setPlink_hen (s : State) (l : Nat) (v : PLinkS) : (setPlink s l v).hen = s.hen := rfl
@[simp] theorem setPlink_reg (s : State) (l : Nat) (v : PLinkS) : (setPlink s l v).reg = s.reg := rfl
@[simp] theorem setPlink_evt (s : State) (l : Nat) (v : PLinkS) : (setPlink s l v).evt = s.evt := rfl
@[simp] theorem setPlink_obs (s : State) (l : Nat) (v : PLinkS) : (setPlink s l v).obs = s.obs := rfl
@[simp] theorem setPlink_now (s : State) (l : Nat) (v : PLinkS) : (setPlink s l v).now = s.now := rfl
@[simp] theorem setPlink_freeCount (s : State) (l : Nat) (v : PLinkS) : (setPlink s l v).freeCount = s.freeCount := rfl
@[simp] theorem setPlink_out (s : State) (l : Nat) (v : PLinkS) : (setPlink s l v).out = s.out := rfl
@[simp] theorem setPlink_pending (s : State) (l : Nat) (v : PLinkS) : (setPlink s l v).pending = s.pending := rfl
-- setQueue
@[simp] theorem setQueue_region (s : State) (q : QueueId) (v : QueueS) : (setQueue s q v).region = s.region := rfl
@[simp] theorem setQueue_cache (s : State) (q : QueueId) (v : QueueS) : (setQueue s q v).cache = s.cache := rfl
@[simp] theorem setQueue_snoop (s : State) (q : QueueId) (v : QueueS) : (setQueue s q v).snoop = s.snoop := rfl
@[simp] theorem setQueue_contract (s : State) (q : QueueId) (v : QueueS) : (setQueue s q v).contract = s.contract := rfl
@[simp] theorem setQueue_rel (s : State) (q : QueueId) (v : QueueS) : (setQueue s q v).rel = s.rel := rfl
@[simp] theorem setQueue_port (s : State) (q : QueueId) (v : QueueS) : (setQueue s q v).port = s.port := rfl
@[simp] theorem setQueue_peer (s : State) (q : QueueId) (v : QueueS) : (setQueue s q v).peer = s.peer := rfl
@[simp] theorem setQueue_dev (s : State) (q : QueueId) (v : QueueS) : (setQueue s q v).dev = s.dev := rfl
@[simp] theorem setQueue_clk (s : State) (q : QueueId) (v : QueueS) : (setQueue s q v).clk = s.clk := rfl
@[simp] theorem setQueue_hen (s : State) (q : QueueId) (v : QueueS) : (setQueue s q v).hen = s.hen := rfl
@[simp] theorem setQueue_reg (s : State) (q : QueueId) (v : QueueS) : (setQueue s q v).reg = s.reg := rfl
@[simp] theorem setQueue_evt (s : State) (q : QueueId) (v : QueueS) : (setQueue s q v).evt = s.evt := rfl
@[simp] theorem setQueue_obs (s : State) (q : QueueId) (v : QueueS) : (setQueue s q v).obs = s.obs := rfl
@[simp] theorem setQueue_now (s : State) (q : QueueId) (v : QueueS) : (setQueue s q v).now = s.now := rfl
@[simp] theorem setQueue_freeCount (s : State) (q : QueueId) (v : QueueS) : (setQueue s q v).freeCount = s.freeCount := rfl
@[simp] theorem setQueue_out (s : State) (q : QueueId) (v : QueueS) : (setQueue s q v).out = s.out := rfl
@[simp] theorem setQueue_pending (s : State) (q : QueueId) (v : QueueS) : (setQueue s q v).pending = s.pending := rfl
-- setContract
@[simp] theorem setContract_region (s : State) (i : CIdx) (v : ContractS) : (setContract s i v).region = s.region := rfl
@[simp] theorem setContract_cache (s : State) (i : CIdx) (v : ContractS) : (setContract s i v).cache = s.cache := rfl
@[simp] theorem setContract_snoop (s : State) (i : CIdx) (v : ContractS) : (setContract s i v).snoop = s.snoop := rfl
@[simp] theorem setContract_job (s : State) (i : CIdx) (v : ContractS) : (setContract s i v).job = s.job := rfl
@[simp] theorem setContract_rel (s : State) (i : CIdx) (v : ContractS) : (setContract s i v).rel = s.rel := rfl
@[simp] theorem setContract_port (s : State) (i : CIdx) (v : ContractS) : (setContract s i v).port = s.port := rfl
@[simp] theorem setContract_peer (s : State) (i : CIdx) (v : ContractS) : (setContract s i v).peer = s.peer := rfl
@[simp] theorem setContract_dev (s : State) (i : CIdx) (v : ContractS) : (setContract s i v).dev = s.dev := rfl
@[simp] theorem setContract_clk (s : State) (i : CIdx) (v : ContractS) : (setContract s i v).clk = s.clk := rfl
@[simp] theorem setContract_hen (s : State) (i : CIdx) (v : ContractS) : (setContract s i v).hen = s.hen := rfl
@[simp] theorem setContract_reg (s : State) (i : CIdx) (v : ContractS) : (setContract s i v).reg = s.reg := rfl
@[simp] theorem setContract_evt (s : State) (i : CIdx) (v : ContractS) : (setContract s i v).evt = s.evt := rfl
@[simp] theorem setContract_obs (s : State) (i : CIdx) (v : ContractS) : (setContract s i v).obs = s.obs := rfl
@[simp] theorem setContract_now (s : State) (i : CIdx) (v : ContractS) : (setContract s i v).now = s.now := rfl
@[simp] theorem setContract_freeCount (s : State) (i : CIdx) (v : ContractS) : (setContract s i v).freeCount = s.freeCount := rfl
@[simp] theorem setContract_out (s : State) (i : CIdx) (v : ContractS) : (setContract s i v).out = s.out := rfl
@[simp] theorem setContract_pending (s : State) (i : CIdx) (v : ContractS) : (setContract s i v).pending = s.pending := rfl
-- raise
@[simp] theorem raise_region (s : State) (e i : Nat) (f : Fields) : (raise s e i f).region = s.region := rfl
@[simp] theorem raise_cache (s : State) (e i : Nat) (f : Fields) : (raise s e i f).cache = s.cache := rfl
@[simp] theorem raise_snoop (s : State) (e i : Nat) (f : Fields) : (raise s e i f).snoop = s.snoop := rfl
@[simp] theorem raise_contract (s : State) (e i : Nat) (f : Fields) : (raise s e i f).contract = s.contract := rfl
@[simp] theorem raise_job (s : State) (e i : Nat) (f : Fields) : (raise s e i f).job = s.job := rfl
@[simp] theorem raise_rel (s : State) (e i : Nat) (f : Fields) : (raise s e i f).rel = s.rel := rfl
@[simp] theorem raise_port (s : State) (e i : Nat) (f : Fields) : (raise s e i f).port = s.port := rfl
@[simp] theorem raise_peer (s : State) (e i : Nat) (f : Fields) : (raise s e i f).peer = s.peer := rfl
@[simp] theorem raise_dev (s : State) (e i : Nat) (f : Fields) : (raise s e i f).dev = s.dev := rfl
@[simp] theorem raise_clk (s : State) (e i : Nat) (f : Fields) : (raise s e i f).clk = s.clk := rfl
@[simp] theorem raise_hen (s : State) (e i : Nat) (f : Fields) : (raise s e i f).hen = s.hen := rfl
@[simp] theorem raise_reg (s : State) (e i : Nat) (f : Fields) : (raise s e i f).reg = s.reg := rfl
@[simp] theorem raise_obs (s : State) (e i : Nat) (f : Fields) : (raise s e i f).obs = s.obs := rfl
@[simp] theorem raise_now (s : State) (e i : Nat) (f : Fields) : (raise s e i f).now = s.now := rfl
@[simp] theorem raise_freeCount (s : State) (e i : Nat) (f : Fields) : (raise s e i f).freeCount = s.freeCount := rfl
@[simp] theorem raise_out (s : State) (e i : Nat) (f : Fields) : (raise s e i f).out = s.out := rfl
@[simp] theorem raise_pending (s : State) (e i : Nat) (f : Fields) : (raise s e i f).pending = s.pending := rfl
-- capChange
@[simp] theorem capChange_region (s : State) (c : PassCause) : (capChange s c).region = s.region := rfl
@[simp] theorem capChange_cache (s : State) (c : PassCause) : (capChange s c).cache = s.cache := rfl
@[simp] theorem capChange_snoop (s : State) (c : PassCause) : (capChange s c).snoop = s.snoop := rfl
@[simp] theorem capChange_job (s : State) (c : PassCause) : (capChange s c).job = s.job := rfl
@[simp] theorem capChange_rel (s : State) (c : PassCause) : (capChange s c).rel = s.rel := rfl
@[simp] theorem capChange_port (s : State) (c : PassCause) : (capChange s c).port = s.port := rfl
@[simp] theorem capChange_peer (s : State) (c : PassCause) : (capChange s c).peer = s.peer := rfl
@[simp] theorem capChange_dev (s : State) (c : PassCause) : (capChange s c).dev = s.dev := rfl
@[simp] theorem capChange_clk (s : State) (c : PassCause) : (capChange s c).clk = s.clk := rfl
@[simp] theorem capChange_hen (s : State) (c : PassCause) : (capChange s c).hen = s.hen := rfl
@[simp] theorem capChange_reg (s : State) (c : PassCause) : (capChange s c).reg = s.reg := rfl
@[simp] theorem capChange_evt (s : State) (c : PassCause) : (capChange s c).evt = s.evt := rfl
@[simp] theorem capChange_obs (s : State) (c : PassCause) : (capChange s c).obs = s.obs := rfl
@[simp] theorem capChange_now (s : State) (c : PassCause) : (capChange s c).now = s.now := rfl
@[simp] theorem capChange_freeCount (s : State) (c : PassCause) : (capChange s c).freeCount = s.freeCount := rfl
@[simp] theorem capChange_out (s : State) (c : PassCause) : (capChange s c).out = s.out := rfl
@[simp] theorem capChange_pending (s : State) (c : PassCause) : (capChange s c).pending = s.pending := rfl
-- setReqs
@[simp] theorem setReqs_region (s : State) (l : List Req) : (setReqs s l).region = s.region := rfl
@[simp] theorem setReqs_snoop (s : State) (l : List Req) : (setReqs s l).snoop = s.snoop := rfl
@[simp] theorem setReqs_contract (s : State) (l : List Req) : (setReqs s l).contract = s.contract := rfl
@[simp] theorem setReqs_job (s : State) (l : List Req) : (setReqs s l).job = s.job := rfl
@[simp] theorem setReqs_rel (s : State) (l : List Req) : (setReqs s l).rel = s.rel := rfl
@[simp] theorem setReqs_port (s : State) (l : List Req) : (setReqs s l).port = s.port := rfl
@[simp] theorem setReqs_peer (s : State) (l : List Req) : (setReqs s l).peer = s.peer := rfl
@[simp] theorem setReqs_dev (s : State) (l : List Req) : (setReqs s l).dev = s.dev := rfl
@[simp] theorem setReqs_clk (s : State) (l : List Req) : (setReqs s l).clk = s.clk := rfl
@[simp] theorem setReqs_hen (s : State) (l : List Req) : (setReqs s l).hen = s.hen := rfl
@[simp] theorem setReqs_reg (s : State) (l : List Req) : (setReqs s l).reg = s.reg := rfl
@[simp] theorem setReqs_evt (s : State) (l : List Req) : (setReqs s l).evt = s.evt := rfl
@[simp] theorem setReqs_obs (s : State) (l : List Req) : (setReqs s l).obs = s.obs := rfl
@[simp] theorem setReqs_now (s : State) (l : List Req) : (setReqs s l).now = s.now := rfl
@[simp] theorem setReqs_freeCount (s : State) (l : List Req) : (setReqs s l).freeCount = s.freeCount := rfl
@[simp] theorem setReqs_out (s : State) (l : List Req) : (setReqs s l).out = s.out := rfl
@[simp] theorem setReqs_pending (s : State) (l : List Req) : (setReqs s l).pending = s.pending := rfl
-- status
@[simp] theorem status_region (s : State) (a : Accessor) (e : DStatus) (v : List Byte) : (status s a e v).region = s.region := rfl
@[simp] theorem status_cache (s : State) (a : Accessor) (e : DStatus) (v : List Byte) : (status s a e v).cache = s.cache := rfl
@[simp] theorem status_snoop (s : State) (a : Accessor) (e : DStatus) (v : List Byte) : (status s a e v).snoop = s.snoop := rfl
@[simp] theorem status_contract (s : State) (a : Accessor) (e : DStatus) (v : List Byte) : (status s a e v).contract = s.contract := rfl
@[simp] theorem status_job (s : State) (a : Accessor) (e : DStatus) (v : List Byte) : (status s a e v).job = s.job := rfl
@[simp] theorem status_rel (s : State) (a : Accessor) (e : DStatus) (v : List Byte) : (status s a e v).rel = s.rel := rfl
@[simp] theorem status_port (s : State) (a : Accessor) (e : DStatus) (v : List Byte) : (status s a e v).port = s.port := rfl
@[simp] theorem status_peer (s : State) (a : Accessor) (e : DStatus) (v : List Byte) : (status s a e v).peer = s.peer := rfl
@[simp] theorem status_dev (s : State) (a : Accessor) (e : DStatus) (v : List Byte) : (status s a e v).dev = s.dev := rfl
@[simp] theorem status_clk (s : State) (a : Accessor) (e : DStatus) (v : List Byte) : (status s a e v).clk = s.clk := rfl
@[simp] theorem status_hen (s : State) (a : Accessor) (e : DStatus) (v : List Byte) : (status s a e v).hen = s.hen := rfl
@[simp] theorem status_reg (s : State) (a : Accessor) (e : DStatus) (v : List Byte) : (status s a e v).reg = s.reg := rfl
@[simp] theorem status_evt (s : State) (a : Accessor) (e : DStatus) (v : List Byte) : (status s a e v).evt = s.evt := rfl
@[simp] theorem status_obs (s : State) (a : Accessor) (e : DStatus) (v : List Byte) : (status s a e v).obs = s.obs := rfl
@[simp] theorem status_now (s : State) (a : Accessor) (e : DStatus) (v : List Byte) : (status s a e v).now = s.now := rfl
@[simp] theorem status_freeCount (s : State) (a : Accessor) (e : DStatus) (v : List Byte) : (status s a e v).freeCount = s.freeCount := rfl
@[simp] theorem status_pending (s : State) (a : Accessor) (e : DStatus) (v : List Byte) : (status s a e v).pending = s.pending := rfl
-- modReq
@[simp] theorem modReq_region (s : State) (id : Nat) (f : Req → Req) : (modReq s id f).region = s.region := rfl
@[simp] theorem modReq_snoop (s : State) (id : Nat) (f : Req → Req) : (modReq s id f).snoop = s.snoop := rfl
@[simp] theorem modReq_contract (s : State) (id : Nat) (f : Req → Req) : (modReq s id f).contract = s.contract := rfl
@[simp] theorem modReq_job (s : State) (id : Nat) (f : Req → Req) : (modReq s id f).job = s.job := rfl
@[simp] theorem modReq_rel (s : State) (id : Nat) (f : Req → Req) : (modReq s id f).rel = s.rel := rfl
@[simp] theorem modReq_port (s : State) (id : Nat) (f : Req → Req) : (modReq s id f).port = s.port := rfl
@[simp] theorem modReq_peer (s : State) (id : Nat) (f : Req → Req) : (modReq s id f).peer = s.peer := rfl
@[simp] theorem modReq_dev (s : State) (id : Nat) (f : Req → Req) : (modReq s id f).dev = s.dev := rfl
@[simp] theorem modReq_clk (s : State) (id : Nat) (f : Req → Req) : (modReq s id f).clk = s.clk := rfl
@[simp] theorem modReq_hen (s : State) (id : Nat) (f : Req → Req) : (modReq s id f).hen = s.hen := rfl
@[simp] theorem modReq_reg (s : State) (id : Nat) (f : Req → Req) : (modReq s id f).reg = s.reg := rfl
@[simp] theorem modReq_evt (s : State) (id : Nat) (f : Req → Req) : (modReq s id f).evt = s.evt := rfl
@[simp] theorem modReq_obs (s : State) (id : Nat) (f : Req → Req) : (modReq s id f).obs = s.obs := rfl
@[simp] theorem modReq_now (s : State) (id : Nat) (f : Req → Req) : (modReq s id f).now = s.now := rfl
@[simp] theorem modReq_freeCount (s : State) (id : Nat) (f : Req → Req) : (modReq s id f).freeCount = s.freeCount := rfl
@[simp] theorem modReq_out (s : State) (id : Nat) (f : Req → Req) : (modReq s id f).out = s.out := rfl
@[simp] theorem modReq_pending (s : State) (id : Nat) (f : Req → Req) : (modReq s id f).pending = s.pending := rfl
-- modJob
@[simp] theorem modJob_region (s : State) (q : QueueId) (j : JobSeq) (f : Job → Job) : (modJob s q j f).region = s.region := rfl
@[simp] theorem modJob_cache (s : State) (q : QueueId) (j : JobSeq) (f : Job → Job) : (modJob s q j f).cache = s.cache := rfl
@[simp] theorem modJob_snoop (s : State) (q : QueueId) (j : JobSeq) (f : Job → Job) : (modJob s q j f).snoop = s.snoop := rfl
@[simp] theorem modJob_contract (s : State) (q : QueueId) (j : JobSeq) (f : Job → Job) : (modJob s q j f).contract = s.contract := rfl
@[simp] theorem modJob_rel (s : State) (q : QueueId) (j : JobSeq) (f : Job → Job) : (modJob s q j f).rel = s.rel := rfl
@[simp] theorem modJob_port (s : State) (q : QueueId) (j : JobSeq) (f : Job → Job) : (modJob s q j f).port = s.port := rfl
@[simp] theorem modJob_peer (s : State) (q : QueueId) (j : JobSeq) (f : Job → Job) : (modJob s q j f).peer = s.peer := rfl
@[simp] theorem modJob_dev (s : State) (q : QueueId) (j : JobSeq) (f : Job → Job) : (modJob s q j f).dev = s.dev := rfl
@[simp] theorem modJob_clk (s : State) (q : QueueId) (j : JobSeq) (f : Job → Job) : (modJob s q j f).clk = s.clk := rfl
@[simp] theorem modJob_hen (s : State) (q : QueueId) (j : JobSeq) (f : Job → Job) : (modJob s q j f).hen = s.hen := rfl
@[simp] theorem modJob_reg (s : State) (q : QueueId) (j : JobSeq) (f : Job → Job) : (modJob s q j f).reg = s.reg := rfl
@[simp] theorem modJob_evt (s : State) (q : QueueId) (j : JobSeq) (f : Job → Job) : (modJob s q j f).evt = s.evt := rfl
@[simp] theorem modJob_obs (s : State) (q : QueueId) (j : JobSeq) (f : Job → Job) : (modJob s q j f).obs = s.obs := rfl
@[simp] theorem modJob_now (s : State) (q : QueueId) (j : JobSeq) (f : Job → Job) : (modJob s q j f).now = s.now := rfl
@[simp] theorem modJob_freeCount (s : State) (q : QueueId) (j : JobSeq) (f : Job → Job) : (modJob s q j f).freeCount = s.freeCount := rfl
@[simp] theorem modJob_out (s : State) (q : QueueId) (j : JobSeq) (f : Job → Job) : (modJob s q j f).out = s.out := rfl
@[simp] theorem modJob_pending (s : State) (q : QueueId) (j : JobSeq) (f : Job → Job) : (modJob s q j f).pending = s.pending := rfl
-- modBench
@[simp] theorem modBench_region (s : State) (b : Bench) (f : BenchS → BenchS) : (modBench s b f).region = s.region := rfl
@[simp] theorem modBench_snoop (s : State) (b : Bench) (f : BenchS → BenchS) : (modBench s b f).snoop = s.snoop := rfl
@[simp] theorem modBench_contract (s : State) (b : Bench) (f : BenchS → BenchS) : (modBench s b f).contract = s.contract := rfl
@[simp] theorem modBench_job (s : State) (b : Bench) (f : BenchS → BenchS) : (modBench s b f).job = s.job := rfl
@[simp] theorem modBench_rel (s : State) (b : Bench) (f : BenchS → BenchS) : (modBench s b f).rel = s.rel := rfl
@[simp] theorem modBench_port (s : State) (b : Bench) (f : BenchS → BenchS) : (modBench s b f).port = s.port := rfl
@[simp] theorem modBench_peer (s : State) (b : Bench) (f : BenchS → BenchS) : (modBench s b f).peer = s.peer := rfl
@[simp] theorem modBench_dev (s : State) (b : Bench) (f : BenchS → BenchS) : (modBench s b f).dev = s.dev := rfl
@[simp] theorem modBench_clk (s : State) (b : Bench) (f : BenchS → BenchS) : (modBench s b f).clk = s.clk := rfl
@[simp] theorem modBench_hen (s : State) (b : Bench) (f : BenchS → BenchS) : (modBench s b f).hen = s.hen := rfl
@[simp] theorem modBench_reg (s : State) (b : Bench) (f : BenchS → BenchS) : (modBench s b f).reg = s.reg := rfl
@[simp] theorem modBench_evt (s : State) (b : Bench) (f : BenchS → BenchS) : (modBench s b f).evt = s.evt := rfl
@[simp] theorem modBench_obs (s : State) (b : Bench) (f : BenchS → BenchS) : (modBench s b f).obs = s.obs := rfl
@[simp] theorem modBench_now (s : State) (b : Bench) (f : BenchS → BenchS) : (modBench s b f).now = s.now := rfl
@[simp] theorem modBench_freeCount (s : State) (b : Bench) (f : BenchS → BenchS) : (modBench s b f).freeCount = s.freeCount := rfl
@[simp] theorem modBench_out (s : State) (b : Bench) (f : BenchS → BenchS) : (modBench s b f).out = s.out := rfl
@[simp] theorem modBench_pending (s : State) (b : Bench) (f : BenchS → BenchS) : (modBench s b f).pending = s.pending := rfl
-- modRun
@[simp] theorem modRun_region (s : State) (b : Bench) (f : Run → Run) : (modRun s b f).region = s.region := rfl
@[simp] theorem modRun_snoop (s : State) (b : Bench) (f : Run → Run) : (modRun s b f).snoop = s.snoop := rfl
@[simp] theorem modRun_contract (s : State) (b : Bench) (f : Run → Run) : (modRun s b f).contract = s.contract := rfl
@[simp] theorem modRun_job (s : State) (b : Bench) (f : Run → Run) : (modRun s b f).job = s.job := rfl
@[simp] theorem modRun_rel (s : State) (b : Bench) (f : Run → Run) : (modRun s b f).rel = s.rel := rfl
@[simp] theorem modRun_port (s : State) (b : Bench) (f : Run → Run) : (modRun s b f).port = s.port := rfl
@[simp] theorem modRun_peer (s : State) (b : Bench) (f : Run → Run) : (modRun s b f).peer = s.peer := rfl
@[simp] theorem modRun_dev (s : State) (b : Bench) (f : Run → Run) : (modRun s b f).dev = s.dev := rfl
@[simp] theorem modRun_clk (s : State) (b : Bench) (f : Run → Run) : (modRun s b f).clk = s.clk := rfl
@[simp] theorem modRun_hen (s : State) (b : Bench) (f : Run → Run) : (modRun s b f).hen = s.hen := rfl
@[simp] theorem modRun_reg (s : State) (b : Bench) (f : Run → Run) : (modRun s b f).reg = s.reg := rfl
@[simp] theorem modRun_evt (s : State) (b : Bench) (f : Run → Run) : (modRun s b f).evt = s.evt := rfl
@[simp] theorem modRun_obs (s : State) (b : Bench) (f : Run → Run) : (modRun s b f).obs = s.obs := rfl
@[simp] theorem modRun_now (s : State) (b : Bench) (f : Run → Run) : (modRun s b f).now = s.now := rfl
@[simp] theorem modRun_freeCount (s : State) (b : Bench) (f : Run → Run) : (modRun s b f).freeCount = s.freeCount := rfl
@[simp] theorem modRun_out (s : State) (b : Bench) (f : Run → Run) : (modRun s b f).out = s.out := rfl
@[simp] theorem modRun_pending (s : State) (b : Bench) (f : Run → Run) : (modRun s b f).pending = s.pending := rfl
-- setEngine
@[simp] theorem setEngine_region (s : State) (e : Nat) (v : EngineS) : (setEngine s e v).region = s.region := rfl
@[simp] theorem setEngine_cache (s : State) (e : Nat) (v : EngineS) : (setEngine s e v).cache = s.cache := rfl
@[simp] theorem setEngine_snoop (s : State) (e : Nat) (v : EngineS) : (setEngine s e v).snoop = s.snoop := rfl
@[simp] theorem setEngine_contract (s : State) (e : Nat) (v : EngineS) : (setEngine s e v).contract = s.contract := rfl
@[simp] theorem setEngine_rel (s : State) (e : Nat) (v : EngineS) : (setEngine s e v).rel = s.rel := rfl
@[simp] theorem setEngine_port (s : State) (e : Nat) (v : EngineS) : (setEngine s e v).port = s.port := rfl
@[simp] theorem setEngine_peer (s : State) (e : Nat) (v : EngineS) : (setEngine s e v).peer = s.peer := rfl
@[simp] theorem setEngine_dev (s : State) (e : Nat) (v : EngineS) : (setEngine s e v).dev = s.dev := rfl
@[simp] theorem setEngine_clk (s : State) (e : Nat) (v : EngineS) : (setEngine s e v).clk = s.clk := rfl
@[simp] theorem setEngine_hen (s : State) (e : Nat) (v : EngineS) : (setEngine s e v).hen = s.hen := rfl
@[simp] theorem setEngine_reg (s : State) (e : Nat) (v : EngineS) : (setEngine s e v).reg = s.reg := rfl
@[simp] theorem setEngine_evt (s : State) (e : Nat) (v : EngineS) : (setEngine s e v).evt = s.evt := rfl
@[simp] theorem setEngine_obs (s : State) (e : Nat) (v : EngineS) : (setEngine s e v).obs = s.obs := rfl
@[simp] theorem setEngine_now (s : State) (e : Nat) (v : EngineS) : (setEngine s e v).now = s.now := rfl
@[simp] theorem setEngine_freeCount (s : State) (e : Nat) (v : EngineS) : (setEngine s e v).freeCount = s.freeCount := rfl
@[simp] theorem setEngine_out (s : State) (e : Nat) (v : EngineS) : (setEngine s e v).out = s.out := rfl
@[simp] theorem setEngine_pending (s : State) (e : Nat) (v : EngineS) : (setEngine s e v).pending = s.pending := rfl
-- setFlip
@[simp] theorem setFlip_region (s : State) (st : Nat) (f : HbcFlip) : (setFlip s st f).region = s.region := rfl
@[simp] theorem setFlip_cache (s : State) (st : Nat) (f : HbcFlip) : (setFlip s st f).cache = s.cache := rfl
@[simp] theorem setFlip_snoop (s : State) (st : Nat) (f : HbcFlip) : (setFlip s st f).snoop = s.snoop := rfl
@[simp] theorem setFlip_contract (s : State) (st : Nat) (f : HbcFlip) : (setFlip s st f).contract = s.contract := rfl
@[simp] theorem setFlip_job (s : State) (st : Nat) (f : HbcFlip) : (setFlip s st f).job = s.job := rfl
@[simp] theorem setFlip_port (s : State) (st : Nat) (f : HbcFlip) : (setFlip s st f).port = s.port := rfl
@[simp] theorem setFlip_peer (s : State) (st : Nat) (f : HbcFlip) : (setFlip s st f).peer = s.peer := rfl
@[simp] theorem setFlip_dev (s : State) (st : Nat) (f : HbcFlip) : (setFlip s st f).dev = s.dev := rfl
@[simp] theorem setFlip_clk (s : State) (st : Nat) (f : HbcFlip) : (setFlip s st f).clk = s.clk := rfl
@[simp] theorem setFlip_hen (s : State) (st : Nat) (f : HbcFlip) : (setFlip s st f).hen = s.hen := rfl
@[simp] theorem setFlip_reg (s : State) (st : Nat) (f : HbcFlip) : (setFlip s st f).reg = s.reg := rfl
@[simp] theorem setFlip_evt (s : State) (st : Nat) (f : HbcFlip) : (setFlip s st f).evt = s.evt := rfl
@[simp] theorem setFlip_obs (s : State) (st : Nat) (f : HbcFlip) : (setFlip s st f).obs = s.obs := rfl
@[simp] theorem setFlip_now (s : State) (st : Nat) (f : HbcFlip) : (setFlip s st f).now = s.now := rfl
@[simp] theorem setFlip_freeCount (s : State) (st : Nat) (f : HbcFlip) : (setFlip s st f).freeCount = s.freeCount := rfl
@[simp] theorem setFlip_out (s : State) (st : Nat) (f : HbcFlip) : (setFlip s st f).out = s.out := rfl
@[simp] theorem setFlip_pending (s : State) (st : Nat) (f : HbcFlip) : (setFlip s st f).pending = s.pending := rfl
-- setShares
@[simp] theorem setShares_region (s : State) (l : List Share) : (setShares s l).region = s.region := rfl
@[simp] theorem setShares_cache (s : State) (l : List Share) : (setShares s l).cache = s.cache := rfl
@[simp] theorem setShares_snoop (s : State) (l : List Share) : (setShares s l).snoop = s.snoop := rfl
@[simp] theorem setShares_job (s : State) (l : List Share) : (setShares s l).job = s.job := rfl
@[simp] theorem setShares_rel (s : State) (l : List Share) : (setShares s l).rel = s.rel := rfl
@[simp] theorem setShares_port (s : State) (l : List Share) : (setShares s l).port = s.port := rfl
@[simp] theorem setShares_peer (s : State) (l : List Share) : (setShares s l).peer = s.peer := rfl
@[simp] theorem setShares_dev (s : State) (l : List Share) : (setShares s l).dev = s.dev := rfl
@[simp] theorem setShares_clk (s : State) (l : List Share) : (setShares s l).clk = s.clk := rfl
@[simp] theorem setShares_hen (s : State) (l : List Share) : (setShares s l).hen = s.hen := rfl
@[simp] theorem setShares_reg (s : State) (l : List Share) : (setShares s l).reg = s.reg := rfl
@[simp] theorem setShares_evt (s : State) (l : List Share) : (setShares s l).evt = s.evt := rfl
@[simp] theorem setShares_obs (s : State) (l : List Share) : (setShares s l).obs = s.obs := rfl
@[simp] theorem setShares_now (s : State) (l : List Share) : (setShares s l).now = s.now := rfl
@[simp] theorem setShares_freeCount (s : State) (l : List Share) : (setShares s l).freeCount = s.freeCount := rfl
@[simp] theorem setShares_out (s : State) (l : List Share) : (setShares s l).out = s.out := rfl
@[simp] theorem setShares_pending (s : State) (l : List Share) : (setShares s l).pending = s.pending := rfl
-- setCnt
@[simp] theorem setCnt_region (s : State) (k : Nat) (c : Counter) : (setCnt s k c).region = s.region := rfl
@[simp] theorem setCnt_cache (s : State) (k : Nat) (c : Counter) : (setCnt s k c).cache = s.cache := rfl
@[simp] theorem setCnt_snoop (s : State) (k : Nat) (c : Counter) : (setCnt s k c).snoop = s.snoop := rfl
@[simp] theorem setCnt_contract (s : State) (k : Nat) (c : Counter) : (setCnt s k c).contract = s.contract := rfl
@[simp] theorem setCnt_job (s : State) (k : Nat) (c : Counter) : (setCnt s k c).job = s.job := rfl
@[simp] theorem setCnt_rel (s : State) (k : Nat) (c : Counter) : (setCnt s k c).rel = s.rel := rfl
@[simp] theorem setCnt_port (s : State) (k : Nat) (c : Counter) : (setCnt s k c).port = s.port := rfl
@[simp] theorem setCnt_peer (s : State) (k : Nat) (c : Counter) : (setCnt s k c).peer = s.peer := rfl
@[simp] theorem setCnt_dev (s : State) (k : Nat) (c : Counter) : (setCnt s k c).dev = s.dev := rfl
@[simp] theorem setCnt_clk (s : State) (k : Nat) (c : Counter) : (setCnt s k c).clk = s.clk := rfl
@[simp] theorem setCnt_hen (s : State) (k : Nat) (c : Counter) : (setCnt s k c).hen = s.hen := rfl
@[simp] theorem setCnt_reg (s : State) (k : Nat) (c : Counter) : (setCnt s k c).reg = s.reg := rfl
@[simp] theorem setCnt_evt (s : State) (k : Nat) (c : Counter) : (setCnt s k c).evt = s.evt := rfl
@[simp] theorem setCnt_now (s : State) (k : Nat) (c : Counter) : (setCnt s k c).now = s.now := rfl
@[simp] theorem setCnt_freeCount (s : State) (k : Nat) (c : Counter) : (setCnt s k c).freeCount = s.freeCount := rfl
@[simp] theorem setCnt_out (s : State) (k : Nat) (c : Counter) : (setCnt s k c).out = s.out := rfl
@[simp] theorem setCnt_pending (s : State) (k : Nat) (c : Counter) : (setCnt s k c).pending = s.pending := rfl
-- setSeam
@[simp] theorem setSeam_region (s : State) (m : SeamS) : (setSeam s m).region = s.region := rfl
@[simp] theorem setSeam_cache (s : State) (m : SeamS) : (setSeam s m).cache = s.cache := rfl
@[simp] theorem setSeam_snoop (s : State) (m : SeamS) : (setSeam s m).snoop = s.snoop := rfl
@[simp] theorem setSeam_contract (s : State) (m : SeamS) : (setSeam s m).contract = s.contract := rfl
@[simp] theorem setSeam_job (s : State) (m : SeamS) : (setSeam s m).job = s.job := rfl
@[simp] theorem setSeam_rel (s : State) (m : SeamS) : (setSeam s m).rel = s.rel := rfl
@[simp] theorem setSeam_port (s : State) (m : SeamS) : (setSeam s m).port = s.port := rfl
@[simp] theorem setSeam_peer (s : State) (m : SeamS) : (setSeam s m).peer = s.peer := rfl
@[simp] theorem setSeam_dev (s : State) (m : SeamS) : (setSeam s m).dev = s.dev := rfl
@[simp] theorem setSeam_clk (s : State) (m : SeamS) : (setSeam s m).clk = s.clk := rfl
@[simp] theorem setSeam_hen (s : State) (m : SeamS) : (setSeam s m).hen = s.hen := rfl
@[simp] theorem setSeam_reg (s : State) (m : SeamS) : (setSeam s m).reg = s.reg := rfl
@[simp] theorem setSeam_evt (s : State) (m : SeamS) : (setSeam s m).evt = s.evt := rfl
@[simp] theorem setSeam_now (s : State) (m : SeamS) : (setSeam s m).now = s.now := rfl
@[simp] theorem setSeam_freeCount (s : State) (m : SeamS) : (setSeam s m).freeCount = s.freeCount := rfl
@[simp] theorem setSeam_out (s : State) (m : SeamS) : (setSeam s m).out = s.out := rfl
@[simp] theorem setSeam_pending (s : State) (m : SeamS) : (setSeam s m).pending = s.pending := rfl
-- setSlot
@[simp] theorem setSlot_region (s : State) (b : Bool) (v : FwSlot) : (setSlot s b v).region = s.region := rfl
@[simp] theorem setSlot_cache (s : State) (b : Bool) (v : FwSlot) : (setSlot s b v).cache = s.cache := rfl
@[simp] theorem setSlot_snoop (s : State) (b : Bool) (v : FwSlot) : (setSlot s b v).snoop = s.snoop := rfl
@[simp] theorem setSlot_contract (s : State) (b : Bool) (v : FwSlot) : (setSlot s b v).contract = s.contract := rfl
@[simp] theorem setSlot_job (s : State) (b : Bool) (v : FwSlot) : (setSlot s b v).job = s.job := rfl
@[simp] theorem setSlot_rel (s : State) (b : Bool) (v : FwSlot) : (setSlot s b v).rel = s.rel := rfl
@[simp] theorem setSlot_port (s : State) (b : Bool) (v : FwSlot) : (setSlot s b v).port = s.port := rfl
@[simp] theorem setSlot_peer (s : State) (b : Bool) (v : FwSlot) : (setSlot s b v).peer = s.peer := rfl
@[simp] theorem setSlot_clk (s : State) (b : Bool) (v : FwSlot) : (setSlot s b v).clk = s.clk := rfl
@[simp] theorem setSlot_hen (s : State) (b : Bool) (v : FwSlot) : (setSlot s b v).hen = s.hen := rfl
@[simp] theorem setSlot_reg (s : State) (b : Bool) (v : FwSlot) : (setSlot s b v).reg = s.reg := rfl
@[simp] theorem setSlot_evt (s : State) (b : Bool) (v : FwSlot) : (setSlot s b v).evt = s.evt := rfl
@[simp] theorem setSlot_obs (s : State) (b : Bool) (v : FwSlot) : (setSlot s b v).obs = s.obs := rfl
@[simp] theorem setSlot_now (s : State) (b : Bool) (v : FwSlot) : (setSlot s b v).now = s.now := rfl
@[simp] theorem setSlot_freeCount (s : State) (b : Bool) (v : FwSlot) : (setSlot s b v).freeCount = s.freeCount := rfl
@[simp] theorem setSlot_out (s : State) (b : Bool) (v : FwSlot) : (setSlot s b v).out = s.out := rfl
@[simp] theorem setSlot_pending (s : State) (b : Bool) (v : FwSlot) : (setSlot s b v).pending = s.pending := rfl
-- setImg
@[simp] theorem setImg_region (s : State) (b : Bool) (v : Image) : (setImg s b v).region = s.region := rfl
@[simp] theorem setImg_cache (s : State) (b : Bool) (v : Image) : (setImg s b v).cache = s.cache := rfl
@[simp] theorem setImg_snoop (s : State) (b : Bool) (v : Image) : (setImg s b v).snoop = s.snoop := rfl
@[simp] theorem setImg_contract (s : State) (b : Bool) (v : Image) : (setImg s b v).contract = s.contract := rfl
@[simp] theorem setImg_job (s : State) (b : Bool) (v : Image) : (setImg s b v).job = s.job := rfl
@[simp] theorem setImg_rel (s : State) (b : Bool) (v : Image) : (setImg s b v).rel = s.rel := rfl
@[simp] theorem setImg_port (s : State) (b : Bool) (v : Image) : (setImg s b v).port = s.port := rfl
@[simp] theorem setImg_peer (s : State) (b : Bool) (v : Image) : (setImg s b v).peer = s.peer := rfl
@[simp] theorem setImg_clk (s : State) (b : Bool) (v : Image) : (setImg s b v).clk = s.clk := rfl
@[simp] theorem setImg_hen (s : State) (b : Bool) (v : Image) : (setImg s b v).hen = s.hen := rfl
@[simp] theorem setImg_reg (s : State) (b : Bool) (v : Image) : (setImg s b v).reg = s.reg := rfl
@[simp] theorem setImg_evt (s : State) (b : Bool) (v : Image) : (setImg s b v).evt = s.evt := rfl
@[simp] theorem setImg_obs (s : State) (b : Bool) (v : Image) : (setImg s b v).obs = s.obs := rfl
@[simp] theorem setImg_now (s : State) (b : Bool) (v : Image) : (setImg s b v).now = s.now := rfl
@[simp] theorem setImg_freeCount (s : State) (b : Bool) (v : Image) : (setImg s b v).freeCount = s.freeCount := rfl
@[simp] theorem setImg_out (s : State) (b : Bool) (v : Image) : (setImg s b v).out = s.out := rfl
@[simp] theorem setImg_pending (s : State) (b : Bool) (v : Image) : (setImg s b v).pending = s.pending := rfl
-- setHome
@[simp] theorem setHome_cache (s : State) (r : Nat) (h : HomeRange) : (setHome s r h).cache = s.cache := rfl
@[simp] theorem setHome_snoop (s : State) (r : Nat) (h : HomeRange) : (setHome s r h).snoop = s.snoop := rfl
@[simp] theorem setHome_contract (s : State) (r : Nat) (h : HomeRange) : (setHome s r h).contract = s.contract := rfl
@[simp] theorem setHome_job (s : State) (r : Nat) (h : HomeRange) : (setHome s r h).job = s.job := rfl
@[simp] theorem setHome_rel (s : State) (r : Nat) (h : HomeRange) : (setHome s r h).rel = s.rel := rfl
@[simp] theorem setHome_port (s : State) (r : Nat) (h : HomeRange) : (setHome s r h).port = s.port := rfl
@[simp] theorem setHome_peer (s : State) (r : Nat) (h : HomeRange) : (setHome s r h).peer = s.peer := rfl
@[simp] theorem setHome_dev (s : State) (r : Nat) (h : HomeRange) : (setHome s r h).dev = s.dev := rfl
@[simp] theorem setHome_clk (s : State) (r : Nat) (h : HomeRange) : (setHome s r h).clk = s.clk := rfl
@[simp] theorem setHome_hen (s : State) (r : Nat) (h : HomeRange) : (setHome s r h).hen = s.hen := rfl
@[simp] theorem setHome_reg (s : State) (r : Nat) (h : HomeRange) : (setHome s r h).reg = s.reg := rfl
@[simp] theorem setHome_evt (s : State) (r : Nat) (h : HomeRange) : (setHome s r h).evt = s.evt := rfl
@[simp] theorem setHome_obs (s : State) (r : Nat) (h : HomeRange) : (setHome s r h).obs = s.obs := rfl
@[simp] theorem setHome_now (s : State) (r : Nat) (h : HomeRange) : (setHome s r h).now = s.now := rfl
@[simp] theorem setHome_freeCount (s : State) (r : Nat) (h : HomeRange) : (setHome s r h).freeCount = s.freeCount := rfl
@[simp] theorem setHome_out (s : State) (r : Nat) (h : HomeRange) : (setHome s r h).out = s.out := rfl
@[simp] theorem setHome_pending (s : State) (r : Nat) (h : HomeRange) : (setHome s r h).pending = s.pending := rfl
-- loseUnlock
@[simp] theorem loseUnlock_region (s : State) (l : HLink) : (loseUnlock s l).region = s.region := rfl
@[simp] theorem loseUnlock_cache (s : State) (l : HLink) : (loseUnlock s l).cache = s.cache := rfl
@[simp] theorem loseUnlock_snoop (s : State) (l : HLink) : (loseUnlock s l).snoop = s.snoop := rfl
@[simp] theorem loseUnlock_contract (s : State) (l : HLink) : (loseUnlock s l).contract = s.contract := rfl
@[simp] theorem loseUnlock_job (s : State) (l : HLink) : (loseUnlock s l).job = s.job := rfl
@[simp] theorem loseUnlock_rel (s : State) (l : HLink) : (loseUnlock s l).rel = s.rel := rfl
@[simp] theorem loseUnlock_port (s : State) (l : HLink) : (loseUnlock s l).port = s.port := rfl
@[simp] theorem loseUnlock_peer (s : State) (l : HLink) : (loseUnlock s l).peer = s.peer := rfl
@[simp] theorem loseUnlock_dev (s : State) (l : HLink) : (loseUnlock s l).dev = s.dev := rfl
@[simp] theorem loseUnlock_clk (s : State) (l : HLink) : (loseUnlock s l).clk = s.clk := rfl
@[simp] theorem loseUnlock_hen (s : State) (l : HLink) : (loseUnlock s l).hen = s.hen := rfl
@[simp] theorem loseUnlock_evt (s : State) (l : HLink) : (loseUnlock s l).evt = s.evt := rfl
@[simp] theorem loseUnlock_obs (s : State) (l : HLink) : (loseUnlock s l).obs = s.obs := rfl
@[simp] theorem loseUnlock_now (s : State) (l : HLink) : (loseUnlock s l).now = s.now := rfl
@[simp] theorem loseUnlock_freeCount (s : State) (l : HLink) : (loseUnlock s l).freeCount = s.freeCount := rfl
@[simp] theorem loseUnlock_out (s : State) (l : HLink) : (loseUnlock s l).out = s.out := rfl
@[simp] theorem loseUnlock_pending (s : State) (l : HLink) : (loseUnlock s l).pending = s.pending := rfl
-- raiseIn
@[simp] theorem raiseIn_cache (s : State) (i : Byte) (l : List Raise) : (raiseIn s i l).cache = s.cache := rfl
@[simp] theorem raiseIn_snoop (s : State) (i : Byte) (l : List Raise) : (raiseIn s i l).snoop = s.snoop := rfl
@[simp] theorem raiseIn_contract (s : State) (i : Byte) (l : List Raise) : (raiseIn s i l).contract = s.contract := rfl
@[simp] theorem raiseIn_job (s : State) (i : Byte) (l : List Raise) : (raiseIn s i l).job = s.job := rfl
@[simp] theorem raiseIn_rel (s : State) (i : Byte) (l : List Raise) : (raiseIn s i l).rel = s.rel := rfl
@[simp] theorem raiseIn_port (s : State) (i : Byte) (l : List Raise) : (raiseIn s i l).port = s.port := rfl
@[simp] theorem raiseIn_peer (s : State) (i : Byte) (l : List Raise) : (raiseIn s i l).peer = s.peer := rfl
@[simp] theorem raiseIn_dev (s : State) (i : Byte) (l : List Raise) : (raiseIn s i l).dev = s.dev := rfl
@[simp] theorem raiseIn_clk (s : State) (i : Byte) (l : List Raise) : (raiseIn s i l).clk = s.clk := rfl
@[simp] theorem raiseIn_hen (s : State) (i : Byte) (l : List Raise) : (raiseIn s i l).hen = s.hen := rfl
@[simp] theorem raiseIn_reg (s : State) (i : Byte) (l : List Raise) : (raiseIn s i l).reg = s.reg := rfl
@[simp] theorem raiseIn_obs (s : State) (i : Byte) (l : List Raise) : (raiseIn s i l).obs = s.obs := rfl
@[simp] theorem raiseIn_now (s : State) (i : Byte) (l : List Raise) : (raiseIn s i l).now = s.now := rfl
@[simp] theorem raiseIn_freeCount (s : State) (i : Byte) (l : List Raise) : (raiseIn s i l).freeCount = s.freeCount := rfl
@[simp] theorem raiseIn_out (s : State) (i : Byte) (l : List Raise) : (raiseIn s i l).out = s.out := rfl
@[simp] theorem raiseIn_pending (s : State) (i : Byte) (l : List Raise) : (raiseIn s i l).pending = s.pending := rfl

@[simp] theorem setFlip_array (s : State) (st : Nat) (f : HbcFlip) : (setFlip s st f).rel.array = s.rel.array := rfl
@[simp] theorem setEngine_jobs (s : State) (e : Nat) (v : EngineS) : (setEngine s e v).job.jobs = s.job.jobs := rfl
@[simp] theorem modJob_weights (s : State) (q : QueueId) (j : JobSeq) (f : Job → Job) :
    (modJob s q j f).job.weights = s.job.weights := rfl
@[simp] theorem modJob_conts (s : State) (q : QueueId) (j : JobSeq) (f : Job → Job) :
    (modJob s q j f).job.conts = s.job.conts := rfl
@[simp] theorem setQueue_weights (s : State) (q : QueueId) (v : QueueS) : (setQueue s q v).job.weights = s.job.weights := rfl
@[simp] theorem setQueue_jobs (s : State) (q : QueueId) (v : QueueS) : (setQueue s q v).job.jobs = s.job.jobs := rfl
@[simp] theorem setBench_reqs (s : State) (b : Bench) (v : BenchS) : (setBench s b v).cache.reqs = s.cache.reqs := rfl
@[simp] theorem setReqs_bench (s : State) (l : List Req) : (setReqs s l).cache.bench = s.cache.bench := rfl
@[simp] theorem benchOf_setReqs (s : State) (l : List Req) (b : Bench) : benchOf (setReqs s l) b = benchOf s b := rfl
@[simp] theorem setSeam_seam (s : State) (m : SeamS) : (setSeam s m).obs.seam = m := rfl
@[simp] theorem setSeam_cnt (s : State) (m : SeamS) : (setSeam s m).obs.cnt = s.obs.cnt := rfl
@[simp] theorem setCnt_seam (s : State) (k : Nat) (c : Counter) : (setCnt s k c).obs.seam = s.obs.seam := rfl
@[simp] theorem setShares_shares (s : State) (l : List Share) : (setShares s l).contract.shares = l := rfl
@[simp] theorem setShares_table (s : State) (l : List Share) : (setShares s l).contract.table = s.contract.table := rfl
@[simp] theorem raiseIn_raises (s : State) (i : Byte) (l : List Raise) : (raiseIn s i l).evt.raises = l := rfl
@[simp] theorem raiseIn_ring (s : State) (i : Byte) (l : List Raise) : (raiseIn s i l).evt.ring = s.evt.ring := rfl
@[simp] theorem raiseIn_win (s : State) (i : Byte) (l : List Raise) : (raiseIn s i l).region.win = s.region.win := rfl

-- dropMailbox
@[simp] theorem dropMailbox_region (s : State) (l : HLink) (m : BitVec 2) : (dropMailbox s l m).region = s.region := rfl
@[simp] theorem dropMailbox_snoop (s : State) (l : HLink) (m : BitVec 2) : (dropMailbox s l m).snoop = s.snoop := rfl
@[simp] theorem dropMailbox_contract (s : State) (l : HLink) (m : BitVec 2) : (dropMailbox s l m).contract = s.contract := rfl
@[simp] theorem dropMailbox_job (s : State) (l : HLink) (m : BitVec 2) : (dropMailbox s l m).job = s.job := rfl
@[simp] theorem dropMailbox_rel (s : State) (l : HLink) (m : BitVec 2) : (dropMailbox s l m).rel = s.rel := rfl
@[simp] theorem dropMailbox_port (s : State) (l : HLink) (m : BitVec 2) : (dropMailbox s l m).port = s.port := rfl
@[simp] theorem dropMailbox_dev (s : State) (l : HLink) (m : BitVec 2) : (dropMailbox s l m).dev = s.dev := rfl
@[simp] theorem dropMailbox_clk (s : State) (l : HLink) (m : BitVec 2) : (dropMailbox s l m).clk = s.clk := rfl
@[simp] theorem dropMailbox_reg (s : State) (l : HLink) (m : BitVec 2) : (dropMailbox s l m).reg = s.reg := rfl
@[simp] theorem dropMailbox_evt (s : State) (l : HLink) (m : BitVec 2) : (dropMailbox s l m).evt = s.evt := rfl
@[simp] theorem dropMailbox_obs (s : State) (l : HLink) (m : BitVec 2) : (dropMailbox s l m).obs = s.obs := rfl
@[simp] theorem dropMailbox_now (s : State) (l : HLink) (m : BitVec 2) : (dropMailbox s l m).now = s.now := rfl
@[simp] theorem dropMailbox_freeCount (s : State) (l : HLink) (m : BitVec 2) : (dropMailbox s l m).freeCount = s.freeCount := rfl
@[simp] theorem dropMailbox_out (s : State) (l : HLink) (m : BitVec 2) : (dropMailbox s l m).out = s.out := rfl
@[simp] theorem dropMailbox_pending (s : State) (l : HLink) (m : BitVec 2) : (dropMailbox s l m).pending = s.pending := rfl

@[simp] theorem emit_out (s : State) (o : Out) : (emit s o).out = o :: s.out := rfl
@[simp] theorem status_out (s : State) (a : Accessor) (e : DStatus) (v : List Byte) : (status s a e v).out = .status a e v :: s.out := rfl
@[simp] theorem takeFree_freeCount (s : State) : (takeFree s).freeCount = s.freeCount + 1 := rfl
@[simp] theorem capChange_passes (s : State) (c : PassCause) : (capChange s c).contract.passes = s.contract.passes ++ [c] := rfl
@[simp] theorem setReqs_reqs (s : State) (l : List Req) : (setReqs s l).cache.reqs = l := rfl

/-- A raise is the last of those on their way. -/
theorem raise_raises (s : State) (e i : Nat) (f : Fields) : (raise s e i f).evt.raises = s.evt.raises ++
    [⟨BitVec.ofNat 11 e, BitVec.ofNat 8 i, islandTime s i, encFields f⟩] := rfl

-- reads of what was written
theorem winOf_setWin_ne (s : State) (w x : WinId) (v : Win) (h : x ≠ w) : winOf (setWin s w v) x = winOf s x := by
  simp only [winOf, setWin]
  exact tget_tput_ne _ _ _ _ _ (fun e => h (BitVec.eq_of_toNat_eq e))

theorem winOf_setWin (s : State) (w : WinId) (v : Win) (h : twf Win.init s.region.win = true) :
    winOf (setWin s w v) w = v := tget_tput_self _ _ _ _ h

theorem benchOf_setBench_ne (s : State) (b c : Bench) (v : BenchS) (h : c ≠ b) :
    benchOf (setBench s b v) c = benchOf s c := by
  simp only [benchOf, setBench]
  exact tget_tput_ne _ _ _ _ _ (fun e => h (BitVec.eq_of_toNat_eq e))

theorem benchOf_setBench (s : State) (b : Bench) (v : BenchS) (h : twf BenchS.init s.cache.bench = true) :
    benchOf (setBench s b v) b = v := tget_tput_self _ _ _ _ h

theorem linkOf_setLink_ne (s : State) (p q : Nat) (v : LinkS) (h : q ≠ p) : linkOf (setLink s p v) q = linkOf s q :=
  tget_tput_ne _ _ _ _ _ h

theorem linkOf_setLink (s : State) (p : Nat) (v : LinkS) (h : twf LinkS.init s.port.link = true) :
    linkOf (setLink s p v) p = v := tget_tput_self _ _ _ _ h

theorem queueOf_setQueue_ne (s : State) (q x : QueueId) (v : QueueS) (h : x ≠ q) :
    queueOf (setQueue s q v) x = queueOf s x := by
  simp only [queueOf, setQueue]
  exact tget_tput_ne _ _ _ _ _ (fun e => h (BitVec.eq_of_toNat_eq e))

theorem queueOf_setQueue (s : State) (q : QueueId) (v : QueueS) (h : twf QueueS.init s.job.queues = true) :
    queueOf (setQueue s q v) q = v := tget_tput_self _ _ _ _ h

theorem contractOf_setContract_ne (s : State) (i k : CIdx) (v : ContractS) (h : k ≠ i) :
    contractOf (setContract s i v) k = contractOf s k := by
  simp only [contractOf, setContract]
  exact tget_tput_ne _ _ _ _ _ (fun e => h (BitVec.eq_of_toNat_eq e))

theorem contractOf_setContract (s : State) (i : CIdx) (v : ContractS) (h : twf ContractS.init s.contract.table = true) :
    contractOf (setContract s i v) i = v := tget_tput_self _ _ _ _ h

-- the common form of a meaning

theorem act_alive (s : State) (f : State → State) (h : alive s = true) :
    act s f = .next { f s with pending := s.pending, now := s.now } := by simp [act, h]

theorem act_dead (s : State) (f : State → State) (h : alive s = false) : act s f = .next s := by simp [act, h]

theorem actIf_true (s : State) (f : State → State) : actIf true s f = act s f := rfl

/-- Everything a meaning of the common form can answer. -/
theorem act_cases (s t : State) (f : State → State) (h : act s f = .next t) :
    (alive s = true ∧ t = { f s with pending := s.pending, now := s.now }) ∨ (alive s = false ∧ t = s) := by
  cases ha : alive s with
  | true => left; simp only [act, ha, if_true] at h; exact ⟨rfl, (Host.Outcome.next.inj h).symm⟩
  | false => right; simp [act, ha] at h; exact ⟨rfl, h.symm⟩

theorem actTime_cases (s t : State) (f : State → State) (h : actTime s f = .next t) :
    (alive s = true ∧ t = keepTime s (f s)) ∨ (alive s = false ∧ t = s) := by
  cases ha : alive s with
  | true => left; simp only [actTime, ha, if_true] at h; exact ⟨rfl, (Host.Outcome.next.inj h).symm⟩
  | false => right; simp [actTime, ha] at h; exact ⟨rfl, h.symm⟩

end Sys2Proof.Machine
end

