-- ==== Sys2Proof/Laws/Front.lean ====
section
/-!
SUPPORT. What the front of the dictionary engine does with a write that passes its checks, and what counting changes.
-/

namespace Sys2Proof.Machine

theorem passes_served (s : State) (acc : Accessor) (g : Gate) (h : passes s acc g = true) :
    served s (normAcc acc) g = true := by
  simp only [passes, Bool.and_eq_true] at h
  exact h.1

theorem passes_gate (s : State) (acc : Accessor) (g : Gate) (h : passes s acc g = true) :
    gateCheck (entered s acc) (normAcc acc) g (armedBy s acc) = none := by
  simp only [passes, Bool.and_eq_true, Option.isNone_iff_eq_none] at h
  exact h.2

/-- A write that passes: its object's own checks and effect in the state entered, then its status. -/
theorem front_passes (s : State) (acc : Accessor) (g : Gate) (note : DStatus → State → State) (f : State → Ans)
    (h : passes s acc g = true) :
    front s acc g note f = replied acc (f (entered s acc)).2.1 (f (entered s acc)).2.2
      (note (f (entered s acc)).2.1 (f (entered s acc)).1) := by
  have h1 := passes_served s acc g h
  have h2 := passes_gate s acc g h
  simp only [entered, armedBy] at h2
  simp only [front, h1, h2, replied, entered]
  rfl

theorem frontLate_passes (s : State) (acc : Accessor) (g : Gate) (f : State → State × Option (DStatus × Nat))
    (h : passes s acc g = true) :
    frontLate s acc g f = (match f (entered s acc) with
      | (t, some (e, aux)) => replied acc e aux t
      | (t, none) => t) := by
  have h1 := passes_served s acc g h
  have h2 := passes_gate s acc g h
  simp only [entered, armedBy] at h2
  simp only [frontLate, h1, h2, replied, entered]
  rfl

theorem frontMark_passes (s : State) (acc : Accessor) (g : Gate) (note : DStatus → State → State)
    (f : State → State × Option (DStatus × Nat)) (h : passes s acc g = true) :
    frontMark s acc g note f = (match f (entered s acc) with
      | (t, some (e, aux)) => replied acc e aux (note e t)
      | (t, none) => t) := by
  have h1 := passes_served s acc g h
  have h2 := passes_gate s acc g h
  simp only [entered, armedBy] at h2
  simp only [frontMark, h1, h2, replied, entered]
  rfl

theorem frontWl_passes (s : State) (acc : Accessor) (g : Gate) (note : DStatus → State → State) (changed : State → Bool)
    (f : Bool → State → Ans) (h : passesWl s acc g = true) :
    frontWl s acc g note changed f = replied acc (f true (entered s acc)).2.1 (f true (entered s acc)).2.2
      (note (f true (entered s acc)).2.1 (f true (entered s acc)).1) := by
  simp only [passesWl, Bool.and_eq_true] at h
  have h1 := passes_served s acc _ h.1
  have h2 := passes_gate s acc _ h.1
  have h3 := h.2
  simp only [entered, armedBy, wlGate] at h1 h2 h3
  rw [h3] at h2
  simp only [frontWl, h1, h2, h3, replied, entered, Bool.not_true, Bool.and_false, Bool.false_and,
    Bool.false_eq_true, if_false]

-- ===== counting changes the counters of observation only =====

theorem countKey_frame (s : State) (bench : Option Bench) (key n code q : Nat) :
    countKey s bench key n code q = { s with obs := (countKey s bench key n code q).obs } := by
  by_cases h : selMatches (tget Counter0 s.obs.cnt key).sel code q = true <;> simp [countKey, h]

theorem countMany_frame (bench : Option Bench) (base code q : Nat) (l : List Nat) (s : State) :
    countMany s bench base code q l = { s with obs := (countMany s bench base code q l).obs } := by
  induction l generalizing s with
  | nil => rfl
  | cons n t ih =>
    simp only [countMany]
    rw [ih, countKey_frame]

theorem countDev_frame (s : State) (code q : Nat) :
    countDev s code q = { s with obs := (countDev s code q).obs } := by
  unfold countDev; split
  · rfl
  · exact countMany_frame _ _ _ _ _ _

theorem countBench_frame (s : State) (b : Bench) (code q : Nat) :
    countBench s b code q = { s with obs := (countBench s b code q).obs } := by
  unfold countBench; split
  · rfl
  · exact countMany_frame _ _ _ _ _ _

@[simp] theorem countDev_region (s : State) (c q : Nat) : (countDev s c q).region = s.region := by rw [countDev_frame]
@[simp] theorem countDev_cache (s : State) (c q : Nat) : (countDev s c q).cache = s.cache := by rw [countDev_frame]
@[simp] theorem countDev_snoop (s : State) (c q : Nat) : (countDev s c q).snoop = s.snoop := by rw [countDev_frame]
@[simp] theorem countDev_contract (s : State) (c q : Nat) : (countDev s c q).contract = s.contract := by rw [countDev_frame]
@[simp] theorem countDev_job (s : State) (c q : Nat) : (countDev s c q).job = s.job := by rw [countDev_frame]
@[simp] theorem countDev_rel (s : State) (c q : Nat) : (countDev s c q).rel = s.rel := by rw [countDev_frame]
@[simp] theorem countDev_port (s : State) (c q : Nat) : (countDev s c q).port = s.port := by rw [countDev_frame]
@[simp] theorem countDev_peer (s : State) (c q : Nat) : (countDev s c q).peer = s.peer := by rw [countDev_frame]
@[simp] theorem countDev_dev (s : State) (c q : Nat) : (countDev s c q).dev = s.dev := by rw [countDev_frame]
@[simp] theorem countDev_clk (s : State) (c q : Nat) : (countDev s c q).clk = s.clk := by rw [countDev_frame]
@[simp] theorem countDev_hen (s : State) (c q : Nat) : (countDev s c q).hen = s.hen := by rw [countDev_frame]
@[simp] theorem countDev_reg (s : State) (c q : Nat) : (countDev s c q).reg = s.reg := by rw [countDev_frame]
@[simp] theorem countDev_evt (s : State) (c q : Nat) : (countDev s c q).evt = s.evt := by rw [countDev_frame]
@[simp] theorem countDev_now (s : State) (c q : Nat) : (countDev s c q).now = s.now := by rw [countDev_frame]
@[simp] theorem countDev_freeCount (s : State) (c q : Nat) : (countDev s c q).freeCount = s.freeCount := by rw [countDev_frame]
@[simp] theorem countDev_out (s : State) (c q : Nat) : (countDev s c q).out = s.out := by rw [countDev_frame]
@[simp] theorem countDev_pending (s : State) (c q : Nat) : (countDev s c q).pending = s.pending := by rw [countDev_frame]
@[simp] theorem countBench_region (s : State) (b : Bench) (c q : Nat) : (countBench s b c q).region = s.region := by rw [countBench_frame]
@[simp] theorem countBench_cache (s : State) (b : Bench) (c q : Nat) : (countBench s b c q).cache = s.cache := by rw [countBench_frame]
@[simp] theorem countBench_snoop (s : State) (b : Bench) (c q : Nat) : (countBench s b c q).snoop = s.snoop := by rw [countBench_frame]
@[simp] theorem countBench_contract (s : State) (b : Bench) (c q : Nat) : (countBench s b c q).contract = s.contract := by rw [countBench_frame]
@[simp] theorem countBench_job (s : State) (b : Bench) (c q : Nat) : (countBench s b c q).job = s.job := by rw [countBench_frame]
@[simp] theorem countBench_rel (s : State) (b : Bench) (c q : Nat) : (countBench s b c q).rel = s.rel := by rw [countBench_frame]
@[simp] theorem countBench_port (s : State) (b : Bench) (c q : Nat) : (countBench s b c q).port = s.port := by rw [countBench_frame]
@[simp] theorem countBench_peer (s : State) (b : Bench) (c q : Nat) : (countBench s b c q).peer = s.peer := by rw [countBench_frame]
@[simp] theorem countBench_dev (s : State) (b : Bench) (c q : Nat) : (countBench s b c q).dev = s.dev := by rw [countBench_frame]
@[simp] theorem countBench_clk (s : State) (b : Bench) (c q : Nat) : (countBench s b c q).clk = s.clk := by rw [countBench_frame]
@[simp] theorem countBench_hen (s : State) (b : Bench) (c q : Nat) : (countBench s b c q).hen = s.hen := by rw [countBench_frame]
@[simp] theorem countBench_reg (s : State) (b : Bench) (c q : Nat) : (countBench s b c q).reg = s.reg := by rw [countBench_frame]
@[simp] theorem countBench_evt (s : State) (b : Bench) (c q : Nat) : (countBench s b c q).evt = s.evt := by rw [countBench_frame]
@[simp] theorem countBench_now (s : State) (b : Bench) (c q : Nat) : (countBench s b c q).now = s.now := by rw [countBench_frame]
@[simp] theorem countBench_freeCount (s : State) (b : Bench) (c q : Nat) : (countBench s b c q).freeCount = s.freeCount := by rw [countBench_frame]
@[simp] theorem countBench_out (s : State) (b : Bench) (c q : Nat) : (countBench s b c q).out = s.out := by rw [countBench_frame]
@[simp] theorem countBench_pending (s : State) (b : Bench) (c q : Nat) : (countBench s b c q).pending = s.pending := by rw [countBench_frame]

/-- Entering counts an operation and takes an unlock: nothing but those counts and the unlocks changes. -/
@[simp] theorem entered_region (s : State) (acc : Accessor) : (entered s acc).region = s.region := by
  simp only [entered, takeUnlock]; split <;> simp [opCount]
@[simp] theorem entered_cache (s : State) (acc : Accessor) : (entered s acc).cache = s.cache := by
  simp only [entered, takeUnlock]; split <;> simp [opCount]
@[simp] theorem entered_snoop (s : State) (acc : Accessor) : (entered s acc).snoop = s.snoop := by
  simp only [entered, takeUnlock]; split <;> simp [opCount]
@[simp] theorem entered_contract (s : State) (acc : Accessor) : (entered s acc).contract = s.contract := by
  simp only [entered, takeUnlock]; split <;> simp [opCount]
@[simp] theorem entered_job (s : State) (acc : Accessor) : (entered s acc).job = s.job := by
  simp only [entered, takeUnlock]; split <;> simp [opCount]
@[simp] theorem entered_rel (s : State) (acc : Accessor) : (entered s acc).rel = s.rel := by
  simp only [entered, takeUnlock]; split <;> simp [opCount]
@[simp] theorem entered_port (s : State) (acc : Accessor) : (entered s acc).port = s.port := by
  simp only [entered, takeUnlock]; split <;> simp [opCount]
@[simp] theorem entered_peer (s : State) (acc : Accessor) : (entered s acc).peer = s.peer := by
  simp only [entered, takeUnlock]; split <;> simp [opCount]
@[simp] theorem entered_dev (s : State) (acc : Accessor) : (entered s acc).dev = s.dev := by
  simp only [entered, takeUnlock]; split <;> simp [opCount]
@[simp] theorem entered_clk (s : State) (acc : Accessor) : (entered s acc).clk = s.clk := by
  simp only [entered, takeUnlock]; split <;> simp [opCount]
@[simp] theorem entered_evt (s : State) (acc : Accessor) : (entered s acc).evt = s.evt := by
  simp only [entered, takeUnlock]; split <;> simp [opCount]
@[simp] theorem entered_now (s : State) (acc : Accessor) : (entered s acc).now = s.now := by
  simp only [entered, takeUnlock]; split <;> simp [opCount]
@[simp] theorem entered_freeCount (s : State) (acc : Accessor) : (entered s acc).freeCount = s.freeCount := by
  simp only [entered, takeUnlock]; split <;> simp [opCount]
@[simp] theorem entered_out (s : State) (acc : Accessor) : (entered s acc).out = s.out := by
  simp only [entered, takeUnlock]; split <;> simp [opCount]
@[simp] theorem entered_pending (s : State) (acc : Accessor) : (entered s acc).pending = s.pending := by
  simp only [entered, takeUnlock]; split <;> simp [opCount]

/-- Entering takes the accessor's unlock and leaves the rest of the engine. -/
@[simp] theorem entered_queue (s : State) (acc : Accessor) : (entered s acc).hen.queue = s.hen.queue := by
  simp only [entered, takeUnlock]; split <;> simp [opCount]
@[simp] theorem entered_lock (s : State) (acc : Accessor) : (entered s acc).hen.lock = s.hen.lock := by
  simp only [entered, takeUnlock]; split <;> simp [opCount]
@[simp] theorem entered_sessions (s : State) (acc : Accessor) : (entered s acc).hen.sessions = s.hen.sessions := by
  simp only [entered, takeUnlock]; split <;> simp [opCount]
@[simp] theorem entered_staging (s : State) (acc : Accessor) : (entered s acc).hen.staging = s.hen.staging := by
  simp only [entered, takeUnlock]; split <;> simp [opCount]
@[simp] theorem entered_stagingOwner (s : State) (acc : Accessor) :
    (entered s acc).hen.stagingOwner = s.hen.stagingOwner := by
  simp only [entered, takeUnlock]; split <;> simp [opCount]
@[simp] theorem entered_install (s : State) (acc : Accessor) : (entered s acc).hen.install = s.hen.install := by
  simp only [entered, takeUnlock]; split <;> simp [opCount]

theorem countMany_seam (bench : Option Bench) (base code q : Nat) (l : List Nat) (s : State) :
    (countMany s bench base code q l).obs.seam = s.obs.seam := by
  induction l generalizing s with
  | nil => rfl
  | cons n t ih =>
    simp only [countMany]
    rw [ih]
    by_cases h : selMatches (tget Counter0 s.obs.cnt (base + n)).sel code q = true <;> simp [countKey, h]

/-- Counting and entering leave Seam alone. -/
@[simp] theorem countDev_seam (s : State) (c q : Nat) : (countDev s c q).obs.seam = s.obs.seam := by
  unfold countDev; split
  · rfl
  · exact countMany_seam _ _ _ _ _ _
@[simp] theorem entered_seam (s : State) (acc : Accessor) : (entered s acc).obs.seam = s.obs.seam := by
  simp only [entered, takeUnlock]; split <;> simp [opCount]

end Sys2Proof.Machine
end

