-- ==== Sys2Proof/Laws/Frames.lean ====
section
/-!
SUPPORT. What the turn of a frame does: it is operated on in the state frameState names, sent again, answered RANGE, or it waits.
-/

namespace Sys2Proof.Machine

theorem runFrame_runs (s : State) (acc : Accessor) (g : Frame) (hk : keptFor s acc g = none) (hb : badFrame s g = false) :
    runFrame s acc g = (if takesUnlock g.op then operate (takeUnlock (opCount s) acc).1 acc g (takeUnlock (opCount s) acc).2
      else operate (opCount s) acc g false) := by
  have hb' : badFrame (opCount s) g = false := by simpa [badFrame, recovery, opCount] using hb
  simp only [runFrame, hk, hb']
  rfl

@[simp] theorem keptFor_unqueued (s : State) (acc a : Accessor) (f g : Frame) (op : Byte) :
    keptFor (unqueued s acc f op) a g = keptFor s a g := by unfold unqueued; split <;> rfl

@[simp] theorem badFrame_unqueued (s : State) (acc : Accessor) (f g : Frame) (op : Byte) :
    badFrame (unqueued s acc f op) g = badFrame s g := by unfold unqueued; split <;> rfl

/-- A frame that has its turn runs in the state it has left the queue in. -/
theorem doFrame_turn (s : State) (acc : Accessor) (f : Frame) (op : Byte) (hr : reaches s (normAcc acc).transport = true)
    (ht : itsTurn s acc f op = true) :
    doFrame s acc f op = runFrame (unqueued s acc f op) (normAcc acc) (opFrame f op) := by
  simp only [doFrame, hr, Bool.not_true, Bool.false_eq_true, if_false]
  cases hl : s.hen.queue with
  | nil =>
    have hc : s.hen.cycle.contains ⟨normAcc acc, { f with op := op }⟩ = false := by
      simpa [itsTurn, hl, opFrame] using ht
    have hu : unqueued s acc f op = s := by simp [unqueued, hl]
    simp only [hc, hu, Bool.false_eq_true, if_false]; rfl
  | cons a l =>
    by_cases ha : a = ⟨normAcc acc, { f with op := op }⟩
    · have hu : unqueued s acc f op = { s with hen := { s.hen with queue := l } } := by
        unfold unqueued; simp [hl, opFrame, ha]
      simp only [ha, if_true, hu]; rfl
    · have hu : unqueued s acc f op = s := by unfold unqueued; simp [hl, opFrame, ha]
      have hc : (s.hen.cycle ++ l).contains ⟨normAcc acc, { f with op := op }⟩ = false := by
        have hb : (({ acc := normAcc acc, f := { f with op := op } } : InFrame) == a) = false := by
          simpa using fun h => ha h.symm
        simp only [itsTurn, hl, opFrame, List.head?_cons, Bool.or_eq_true, beq_iff_eq, Option.some.injEq, ha, false_or,
          Bool.not_eq_true', List.contains_append, List.contains_cons, hb, Bool.false_or] at ht
        simpa using ht
      simp only [ha, hc, hu, Bool.false_eq_true, if_false]; rfl

/-- A frame that waits, or whose transport is not served, is not run. -/
theorem doFrame_waits (s : State) (acc : Accessor) (f : Frame) (op : Byte)
    (h : reaches s (normAcc acc).transport = false ∨ itsTurn s acc f op = false) : doFrame s acc f op = s := by
  rcases h with h | h
  · simp [doFrame, h]
  · simp only [itsTurn, opFrame, Bool.or_eq_false_iff, Bool.not_eq_false', beq_eq_false_iff_ne, ne_eq] at h
    obtain ⟨h1, h2⟩ := h
    cases hr : reaches s (normAcc acc).transport
    · simp [doFrame, hr]
    · unfold doFrame
      simp only [hr]
      cases hl : s.hen.queue with
      | nil => simp_all
      | cons a l =>
        have ha : ¬ a = ⟨normAcc acc, { f with op := op }⟩ := by simpa [hl] using h1
        have hb : (({ acc := normAcc acc, f := { f with op := op } } : InFrame) == a) = false := by
          simpa using fun h => ha h.symm
        have hc : (s.hen.cycle ++ l).contains ⟨normAcc acc, { f with op := op }⟩ = true := by
          simpa only [hl, List.contains_append, List.contains_cons, hb, Bool.false_or] using h2
        simp only [Bool.not_true, Bool.false_eq_true, if_false]
        rw [if_neg ha, if_pos hc]

theorem doFrame_runs (s : State) (acc : Accessor) (f : Frame) (op : Byte) (h : FrameRuns s acc f op) :
    doFrame s acc f op = operate (frameState s acc f op).1 (normAcc acc) (opFrame f op) (frameState s acc f op).2 := by
  obtain ⟨⟨_, hr, ht⟩, hk, hb⟩ := h
  rw [doFrame_turn s acc f op hr ht, runFrame_runs _ _ _ (by simpa using hk) (by simpa using hb)]
  unfold frameState
  have e : (opFrame f op).op = op := rfl
  rw [e]; split <;> rfl

end Sys2Proof.Machine
end

