-- ==== Sys2Proof/Laws/Log.lean ====
section
/-!
SUPPORT. What the error log, its interrupts and a fold over emitted signals change: nothing but ports, events, the log's own
fields and `out`.
-/

namespace Sys2Proof.Machine

/-- `t` is `s` but for ports and `out`. -/
def PortOut (s t : State) : Prop := t = { s with port := t.port, out := t.out }

theorem PortOut.refl (s : State) : PortOut s s := rfl
theorem PortOut.trans {s t u : State} (h : PortOut s t) (k : PortOut t u) : PortOut s u := by
  unfold PortOut at *; rw [k, h]

theorem foldl_portOut {α : Type} (f : State → α → State) (h : ∀ s a, PortOut s (f s a)) (l : List α) (s : State) :
    PortOut s (l.foldl f s) := by
  induction l generalizing s with
  | nil => exact .refl s
  | cons a l ih => exact (h s a).trans (ih _)

theorem emit_portOut (s : State) (o : Out) : PortOut s (emit s o) := rfl
theorem setFn_portOut (s : State) (l : HLink) (m : BitVec 2) (v : FnS) : PortOut s (setFn s l m v) := rfl

theorem msix_portOut (s : State) (l : HLink) (m : BitVec 2) (vec : Nat) : PortOut s (msix s l m vec) := by
  unfold msix; dsimp only; split
  · exact .refl s
  · split
    · exact emit_portOut _ _
    · split
      · exact .refl s
      · exact setFn_portOut _ _ _ _

theorem logIrq_portOut (s : State) (l : HLink) (m : BitVec 2) (k : Nat) : PortOut s (logIrq s l m k) := by
  unfold logIrq; dsimp only; split
  · exact msix_portOut _ _ _ _
  · exact .refl s

theorem mirrorLog_portOut (s : State) (r : LogRec) : PortOut s (mirrorLog s r) := by
  unfold mirrorLog
  extract_lets k
  clear_value k
  apply foldl_portOut
  intro s a; dsimp only; split
  · exact setFn_portOut _ _ _ _
  · split
    · exact (setFn_portOut _ _ _ _).trans (logIrq_portOut _ _ _ _)
    · exact setFn_portOut _ _ _ _

/-- Writing a record changes the log, the functions' logs, the events raised and `out` only. -/
theorem logWrite_frame (s : State) (r : LogRec) : ∃ l n x d p e o, logWrite s r =
    { s with rel := { s.rel with log := l, logNext := n, logLost := x, fatalDue := d }, port := p, evt := e, out := o } := by
  unfold logWrite; dsimp only
  have h := fun s r => mirrorLog_portOut s r
  unfold PortOut at h
  split
  · rw [h]; exact ⟨_, _, _, _, _, _, _, rfl⟩
  · rw [h]; exact ⟨_, _, _, _, _, _, _, rfl⟩

theorem logWrite_eq (s : State) (r : LogRec) : logWrite s r = { s with
    rel := { s.rel with
      log := (logWrite s r).rel.log, logNext := (logWrite s r).rel.logNext, logLost := (logWrite s r).rel.logLost
      fatalDue := (logWrite s r).rel.fatalDue }
    port := (logWrite s r).port, evt := (logWrite s r).evt, out := (logWrite s r).out } := by
  obtain ⟨l, n, x, d, p, e, o, h⟩ := logWrite_frame s r; rw [h]

theorem logRec_frame (s : State) (r : LogRec) : ∃ l n x d a b c p e o, logRec s r =
    { s with
      rel := { s.rel with log := l, logNext := n, logLost := x, fatalDue := d, logSec := a, logCount := b, logTally := c }
      port := p, evt := e, out := o } := by
  unfold logRec; split
  · rw [logWrite_eq]; exact ⟨_, _, _, _, _, _, _, _, _, _, rfl⟩
  · extract_lets sec cnt n tk t
    clear_value t n cnt
    split
    · rw [logWrite_eq]; exact ⟨_, _, _, _, _, _, _, _, _, _, rfl⟩
    · exact ⟨_, _, _, _, _, _, _, _, _, _, rfl⟩

theorem logRec_rel (s : State) (r : LogRec) : ∃ l n x d a b c, (logRec s r).rel =
    { s.rel with log := l, logNext := n, logLost := x, fatalDue := d, logSec := a, logCount := b, logTally := c } := by
  obtain ⟨l, n, x, d, a, b, c, p, e, o, h⟩ := logRec_frame s r
  exact ⟨l, n, x, d, a, b, c, by rw [h]⟩
@[simp] theorem logRec_dev (s : State) (r : LogRec) : (logRec s r).dev = s.dev := by
  obtain ⟨l, n, x, d, a, b, c, p, e, o, h⟩ := logRec_frame s r; rw [h]
@[simp] theorem logRec_region (s : State) (r : LogRec) : (logRec s r).region = s.region := by
  obtain ⟨l, n, x, d, a, b, c, p, e, o, h⟩ := logRec_frame s r; rw [h]
@[simp] theorem logRec_cache (s : State) (r : LogRec) : (logRec s r).cache = s.cache := by
  obtain ⟨l, n, x, d, a, b, c, p, e, o, h⟩ := logRec_frame s r; rw [h]
@[simp] theorem logRec_now (s : State) (r : LogRec) : (logRec s r).now = s.now := by
  obtain ⟨l, n, x, d, a, b, c, p, e, o, h⟩ := logRec_frame s r; rw [h]
@[simp] theorem logRec_pending (s : State) (r : LogRec) : (logRec s r).pending = s.pending := by
  obtain ⟨l, n, x, d, a, b, c, p, e, o, h⟩ := logRec_frame s r; rw [h]

/-- Clearing reservations changes the benches, the counts of lost ones and observation only. -/
theorem clearResv_frame (s : State) (cause : Nat) (p : Resv → Bool) (b : Nat) : ∃ bs ls ob, clearResv s cause p b =
    { s with cache := { s.cache with bench := bs }, job := { s.job with lost := ls }, obs := ob } := by
  unfold clearResv; dsimp only; split
  · exact ⟨_, _, _, rfl⟩
  · rw [countBench_frame]; exact ⟨_, _, _, rfl⟩

theorem foldl_clearResv_frame (cause : Nat) (p : Resv → Bool) (l : Tab BenchS) (s : State) : ∃ bs ls ob,
    l.foldl (fun s x => clearResv s cause p x.1) s =
    { s with cache := { s.cache with bench := bs }, job := { s.job with lost := ls }, obs := ob } := by
  induction l generalizing s with
  | nil => exact ⟨_, _, _, rfl⟩
  | cons a l ih =>
    obtain ⟨b1, l1, o1, h1⟩ := clearResv_frame s cause p a.1
    obtain ⟨b2, l2, o2, h2⟩ := ih (clearResv s cause p a.1)
    exact ⟨b2, l2, o2, by rw [List.foldl_cons, h2, h1]⟩

end Sys2Proof.Machine
end

