-- ==== Sys2Proof/Laws/Turns.lean ====
section
/-!
SUPPORT. What waits for its turn and what runs at once: a mailbox command (R318), a write of 0x50:0030 (R391), a CTL message for a
held port (R15); what the count
of a peer message changes; and what an idle nanosecond leaves.
-/

namespace Sys2Proof.Machine

theorem mboxEnter_busy (s : State) (l : HLink) (m : BitVec 2) (c : MboxCmd) (h : mboxBusy s l = true) :
    mboxEnter s l m c = { s with hen := { s.hen with mwait := s.hen.mwait ++ [⟨l, m, c⟩] } } := by simp [mboxEnter, h]

theorem mboxEnter_free (s : State) (l : HLink) (m : BitVec 2) (c : MboxCmd) (h : mboxBusy s l = false) :
    mboxEnter s l m c = mboxRun s l m c := by simp [mboxEnter, h]

/-- With no command waiting an idle nanosecond starts none. -/
theorem mboxPump_nil (s : State) (h : s.hen.mwait = []) : mboxPump s = s := by simp [mboxPump, h, takeFirst]

theorem remapWrite_held (s : State) (w : Accessor × Option Frame) (st cw : Nat)
    (h : remapHeld s st = true ∨ s.rel.remapAsks ≠ []) :
    remapWrite s w st cw = ({ s with rel := { s.rel with remapAsks := s.rel.remapAsks ++ [⟨st, cw, w⟩] } }, none) := by
  have hc : (remapHeld s st || !s.rel.remapAsks.isEmpty) = true := by
    rcases h with h | h
    · simp [h]
    · simp [h]
  simp only [remapWrite, hc, if_true]

theorem remapWrite_free (s : State) (w : Accessor × Option Frame) (st cw : Nat) (h : remapHeld s st = false)
    (ha : s.rel.remapAsks = []) :
    remapWrite s w st cw = ((remapNow s st cw).1, some ((remapNow s st cw).2.1, (remapNow s st cw).2.2)) := by
  simp [remapWrite, h, ha]

/-- A CTL message leaves at once on a link whose port takes transfers. -/
theorem ctlOut_free (s : State) (l p : Nat) (op : Byte) (body : List (BitVec 64)) (hp : (leadsOf s .peer l).head? = some p)
    (h : portHeld s p = false) : ctlOut s l op body = ctlEmit s l op body := by simp [ctlOut, hp, h]

/-- It waits, behind those that wait, while the port is held and it is no urgent CONTAIN. -/
theorem ctlOut_held (s : State) (l p : Nat) (op : Byte) (body : List (BitVec 64)) (hp : (leadsOf s .peer l).head? = some p)
    (h : portHeld s p = true) (hu : op ≠ 0x10) :
    ctlOut s l op body = setPlink s l { plinkOf s l with held := (plinkOf s l).held ++ [(op, body)] } := by
  simp only [ctlOut, hp, h, decide_eq_false hu, Bool.not_true, Bool.false_and, Bool.false_eq_true, if_false]

-- ===== peer messages are counted =====

theorem countSent_frame (s : State) (d : DevId) (c : Nat) : countSent s d c = { s with
    obs := (countSent s d c).obs, peer := { s.peer with sentBy := tinc s.peer.sentBy (d.toNat * 5 + c) } } := by
  unfold countSent; exact countDev_frame _ _ _

theorem countRecv_frame (s : State) (d : DevId) (c : Nat) : countRecv s d c = { s with
    obs := (countRecv s d c).obs, peer := { s.peer with recvBy := tinc s.peer.recvBy (d.toNat * 5 + c) } } := by
  unfold countRecv; exact countDev_frame _ _ _

/-- The counts of messages received and the event counters are all that an arrival changes. -/
theorem ctlIn_frame (s : State) (d : DevId) : ctlIn s d = { s with
    obs := (ctlIn s d).obs, peer := { s.peer with recvBy := (ctlIn s d).peer.recvBy } } := by
  unfold ctlIn; split
  · rfl
  · rw [countRecv_frame]

theorem ctlNear_frame (s : State) (l : Nat) : ctlNear s l = { s with
    obs := (ctlNear s l).obs, peer := { s.peer with recvBy := (ctlNear s l).peer.recvBy } } := by
  unfold ctlNear; split
  · exact ctlIn_frame _ _
  · rfl

@[simp] theorem ctlIn_now (s : State) (d : DevId) : (ctlIn s d).now = s.now := by rw [ctlIn_frame]
@[simp] theorem ctlIn_pending (s : State) (d : DevId) : (ctlIn s d).pending = s.pending := by rw [ctlIn_frame]
@[simp] theorem ctlIn_alive (s : State) (d : DevId) : alive (ctlIn s d) = alive s := by rw [ctlIn_frame]; rfl
@[simp] theorem ctlIn_devId (s : State) (d : DevId) : devId (ctlIn s d) = devId s := by rw [ctlIn_frame]; rfl
@[simp] theorem ctlNear_now (s : State) (l : Nat) : (ctlNear s l).now = s.now := by rw [ctlNear_frame]
@[simp] theorem ctlNear_pending (s : State) (l : Nat) : (ctlNear s l).pending = s.pending := by rw [ctlNear_frame]
@[simp] theorem ctlNear_alive (s : State) (l : Nat) : alive (ctlNear s l) = alive s := by rw [ctlNear_frame]; rfl

-- ===== an idle nanosecond =====

theorem addItems_frame (s : State) (b : Bench) (i n : Nat) : addItems s b i n = { s with obs := (addItems s b i n).obs } := by
  simp only [addItems]; split <;> rfl

theorem countItems_frame (s : State) (b : Bench) (code q n : Nat) :
    countItems s b code q n = { s with obs := (countItems s b code q n).obs } := by
  have fold : ∀ (l : List Nat) (s : State), let f := l.foldl (fun s i =>
      if selMatches (cntOf s (b.toNat * 9 + i)).sel code q then addItems s b i n else s) s
      f = { s with obs := f.obs } := by
    intro l
    induction l with
    | nil => intro s; rfl
    | cons i l ih =>
      intro s
      simp only [List.foldl_cons]; split
      · rw [ih, addItems_frame]
      · exact ih s
  unfold countItems; split
  · rfl
  · exact fold _ s

/-- The occupancy counters are all that they change. -/
theorem occupancy_frame (s t : State) : occupancy s t = { t with obs := (occupancy s t).obs } := by
  unfold occupancy
  generalize t.obs.cnt.filter _ = l
  induction l generalizing t with
  | nil => rfl
  | cons p l ih => simp only [List.foldl_cons]; rw [ih, addItems_frame]

theorem occupancy_none (s t : State) (h : ∀ p ∈ t.obs.cnt, selMatches p.2.sel 0x010 0 = false) : occupancy s t = t := by
  have hf : t.obs.cnt.filter (fun p => p.1 < 2304 && p.1 % 9 < 8 && selMatches p.2.sel 0x010 0) = [] := by
    rw [List.filter_eq_nil_iff]; intro p hp; simp [h p hp]
  unfold occupancy; rw [hf]; rfl

theorem tick_now (s : State) (h : s.dev.powered = true) : (tick s).now = s.now + 1 := by
  have ho : (occupancy s { s with now := s.now + 1 }).now = s.now + 1 := by rw [occupancy_frame]
  simp only [tick, h, Bool.not_true, Bool.false_eq_true, if_false]
  split <;> exact ho

end Sys2Proof.Machine
end

