-- ==== Sys2Proof/Tests/Slice0.lean ====
section
/-!
SUPPORT. Small tests of the model, and for every statement a concrete state and operands that meet its hypotheses.
-/

namespace Sys2Proof.Tests

open Sys2Proof.Machine

-- ===== small states =====

/-- The local console, and the mailbox of host link 0. -/
def con : Accessor := ⟨.console, 0, 0⟩
def mail : Accessor := ⟨.mailbox, 0, 0⟩

def wWin : Win := { Win.init with r := true, w := true, u := true, enable := true, state := .enabled, segshift := 30, retained := some ⟨0, 0, 0, 0, 0⟩ }
def wLink : LinkS := { LinkS.init with state := .l0, width := 16, speed := 64 }
def wHost : HLinkS := ⟨false, false, 0, .ash, false, [(0, ⟨0, 0x40000000, 0, 1, 0, true, false⟩)]⟩

/-- A standalone device in MEMORY_ACTIVE: window 0 over granule 0, host link 0 on port 0, expander link 0 READY on port 4,
the unlocks of the console and the mailbox armed. -/
def wS : State := { State.reset with
  dev := { DevS.init ⟨0, 0, false⟩ with stage := .memoryActive, running := some false }
  hen := { HenS.init with armed := [(con, 5000), (mail, 5000)] }
  region := { RegionS.init with hr := [(0, ⟨0, 0, 0, 1, 0⟩)], win := [(0, wWin)] }
  port := { PortS.init with
    quad := [(0, 12), (1, 20)], link := [(0, wLink), (4, wLink)], host := [(0, wHost)]
    xl := [(0, { XLinkS.init with state := .ready, capacity := 1 })] }
  now := 1000 }

/-- The same in another stage. -/
def inStage (st : Stage) : State := { wS with dev := { wS.dev with stage := st } }

/-- A board of two devices, this one device 0 and the leader: peer link 0 on port 8 reaches device 1. -/
def wB : State := { wS with
  dev := { wS.dev with straps := ⟨0, 1, false⟩ }
  port := { wS.port with quad := [(0, 12), (1, 20), (2, 28)], link := [(0, wLink), (4, wLink), (8, wLink)] }
  peer := { PeerS.init with
    dmap := 0xFFFFFF00, link := [(0, { PLinkS.init with peer := some 1, peerLink := 3, checked := true })]
    form := .active, members := 3, ready := 3, leader := some 0, routes := [(1, .direct)], hops := 0
    recvBy := [(9, 1)] } }
/-- Before the one CTL message that has arrived was counted. -/
def uncount (s : State) : State := { s with peer := { s.peer with recvBy := [] } }

/-- A response at the egress of host link 0. -/
def wRsp : Resp :=
  { id := 0, req := none, link := 0, member := 0, tag := 5, kind := .cmp .cmp, data := 0, poison := false, hs := 0, sa := 0x40,
    devload := 0, cls := .ash, cidx := none, tin := 0, waited := 0, hit := true, home := 0, fault := false, partner := false,
    coherence := false, rqc := false, xl := 0, snooped := 0, deadline := none, inFlit := true, left := false, queued := 0, rsq := none }

/-- The same state with no window. -/
def noWin (s : State) : State := { s with region := { s.region with win := [] } }

/-- Two devices: granules 4 to 7 are interleaved over devices 1 and 0, from device granule 2. -/
def wHome : State := { wB with
  region := { wB.region with hr := [(0, ⟨4, 7, 2, 2, 1⟩)] } }

/-- A READ frame of Table 13-7 with its checksum. -/
def wHead12 : List Byte := [0xA7, 0x10, 0, 0, 1, 0, 12, 0, 1, 1, 0x70, 0, 1, 0, 0, 0, 0, 0, 0, 0]
def wFrame : List Byte := wHead12 ++ b4 (crc32c wHead12).toNat

-- ===== well-formedness: a term that each check refuses =====

theorem test_wf_register : (Instr.winGeometryWrite con 0 3 0).wellFormed = false := by decide
theorem test_wf_slot : (Instr.wbufDrainTimeout 0 48).wellFormed = false := by decide
theorem test_wf_peer_link : (Instr.peerLinkDown 14).wellFormed = false := by decide
theorem test_wf_island : (Instr.pllLockLoss 168).wellFormed = false := by decide
theorem test_wf_counter : (Instr.selectorWrite con (some 3) 8 0).wellFormed = false := by decide
theorem test_wf_reading : (Instr.sensorRead (List.replicate 43 0)).wellFormed = false := by decide
theorem test_wf_rails : (Instr.railMonitor (List.replicate 8 0) []).wellFormed = false := by decide
theorem test_wf_accepts : (Instr.selectorWrite con none 15 0).wellFormed = true ∧ (Instr.pllLockLoss 167).wellFormed = true := by
  decide

theorem test_decode_none : decodeTableWord 16 0x1234 = none := rfl
theorem test_no_word_changes_the_queue : (State.reset.withFetchWord 16 0x1234) = State.reset := rfl

-- ===== the queue, the reset, refusals =====

def wOff : State := { State.reset with dev := { DevS.init ⟨0, 0, false⟩ with powered := false, stage := .power } }

theorem witness_StepRunsTheFrontCommand :
    (State.reset.pending = [] ∧ State.reset.dev.powered = true ∧ State.reset.hen.mwait = [] ∧
      (∀ p ∈ State.reset.obs.cnt, selMatches p.2.sel 0x010 0 = false)) ∧ (wOff.pending = [] ∧ wOff.dev.powered = false) := by decide

theorem witness_WellFormedCommandsCompleteOthersAreRefused :
    (Instr.voteSweep.wellFormed = true) ∧ ((Instr.pllLockLoss 168).wellFormed = false) ∧
    (alive wOff = false ∧ Instr.voteSweep.wellFormed = true ∧ (∀ straps, Instr.voteSweep ≠ .powerOnReset straps) ∧
      Instr.voteSweep ≠ .powerDown) :=
  ⟨rfl, rfl, rfl, rfl, fun _ => nofun, nofun⟩

theorem witness_QueueAndTimeAfterEveryStep :
    (∃ t, exec .voteSweep State.reset = .next t) ∧ mayReset .voteSweep = false := ⟨⟨_, rfl⟩, rfl⟩

theorem witness_WhatAWholeDeviceResetKeeps : wS.dev.stage ≠ .containment ∧ ResetKind.warm ≠ .cold ∧ ResetKind.cold = .cold := by
  decide

/-- The configuration lock is set, and the unlocks have run out. -/
def wLocked : State := { wS with hen := { wS.hen with lock := true, armed := [] } }

theorem witness_RefusedWritesHaveNoEffect :
    (alive wLocked = true ∧ wLocked.hen.lock = true ∧ classOfAcc (normAcc mail) = .s ∧
      served wLocked (normAcc mail) critGate = true) ∧
    (alive wLocked = true ∧ (normAcc mail).transport ≠ .bar0 ∧ engineUp wLocked = true ∧ recovery wLocked = false ∧
      armedBy wLocked mail = false) ∧
    (armedBy wLocked con = false ∧ (normAcc con).transport ≠ .bar0 ∧ classOfAcc (normAcc con) ≠ .s) ∧
    (alive wS = true ∧ passes wS con fuseGate = true ∧ (0x4F425345 : BitVec 32) ≠ 0x4F425346) ∧
    (alive wS = true ∧ regOk 2 = true ∧ passes { wS with cache := { wS.cache with mOp := some (.range .clean 0 0) } } con
      (mGate 0x18) = true ∧ ({ wS with cache := { wS.cache with mOp := some (.range .clean 0 0) } }).cache.mOp.isSome = true) := by
  decide

-- ===== addresses =====

/-- The worked address of R59: device-local address 0x246_9678_9ABC is in bench 204, local set 0x6065, tag 0x48, sector 42. -/
theorem test_set_hash : (benchOfDla 0x24696789ABC).toNat = 204 ∧ (lsOfDla 0x24696789ABC).toNat = 0x6065 ∧
    (tagOfDla 0x24696789ABC).toNat = 0x48 ∧ secOfDla 0x24696789ABC = 42 ∧ (lineKey 0x24696789ABC).toNat = 0x6065122A := by decide

theorem witness_SetHashAndLineKey : (0x24696789 : Nat) = (0x24696789ABC : DLA).toNat / 2 ^ 12 ∧ (0x48 : Nat) = 0x24696789 / 2 ^ 23 ∧
    (0x696789 : Nat) = 0x24696789 % 2 ^ 23 ∧ (0x6065C9 : Nat) = 0x696789 ^^^ (0x48 * 2 ^ 13) ^^^ (0x48 * 2 ^ 3) ∧
    (4 : Nat) = ((0x6065122A / 2 ^ 11) ^^^ (0x6065122A / 2 ^ 14) ^^^ (0x6065122A / 2 ^ 17)) % 8 := by decide

theorem witness_HomeOfAnAddress :
    (tget HomeRange.init wHome.region.hr 0 = ⟨4, 7, 2, 2, 1⟩ ∧ (0x1C0000040 : SA).toNat / 2 ^ 30 = 7 ∧ (4 : Nat) ≤ 7 ∧
      7 - 4 = 3 ∧ homeOf wHome 0x1C0000040 = some (0, 0xC0000040)) ∧
    ((0x200000000 : SA).toNat / 2 ^ 30 = 8 ∧ (∀ q < 8, (tget HomeRange.init wHome.region.hr q).ways = 0 ∨
      8 < (tget HomeRange.init wHome.region.hr q).base.toNat ∨ (tget HomeRange.init wHome.region.hr q).limit.toNat < 8)) := by
  decide

theorem witness_HomeMapIsInverted : homeMapValid wHome = true ∧ homeOf wHome 0x1C0000040 = some (devId wHome, 0xC0000040) := by
  decide


-- ===== the read-only object and the action; window 0 =====

/-- A request frame of the console. -/
def frm (op type group : Byte) (item : BitVec 16) (value : List Byte) : Frame :=
  { kind := 1, flags := 0, seq := 1, len := 12, op := op, type := type, group := group, item := item, index := 0, arg := 0,
    value := value, crc := 0, member := 0 }

theorem runs_con (f : Frame) (op : Byte) (h : badFrame wS (opFrame f op) = false) : FrameRuns wS con f op :=
  ⟨⟨rfl, rfl, rfl⟩, rfl, h⟩

theorem witness_ReadOnlyAndActionObjects :
    (FrameRuns wS con (frm 2 4 0 2 [0, 0, 0, 0]) 2 ∧ ∃ o, objAt (frameState wS con (frm 2 4 0 2 [0, 0, 0, 0]) 2).1 0 2 = some o ∧ o.len = 0 ∧
      ∀ cl, mayAccess o.access cl true = false) ∧
    (∃ o, ObjReady wS con (frm 1 3 0x10 0x40 []) 1 o ∧ o.action = true ∧ o.type ≠ 9) :=
  ⟨⟨runs_con _ _ (by decide), _, rfl, rfl, fun cl => by cases cl <;> rfl⟩,
    _, ⟨runs_con _ _ (by decide), rfl, by decide⟩, rfl, by decide⟩

/-- A request of host link 0 for line 0x40 of window 0 that stands in `ph`. -/
def wReq (ph : Phase) : Req := { formReq wS 7 (.memRd .i) (.host 0 0 5) .hostSocket 0 0x40 0x40 0 .ash none 0 0 0 false 0 0 with phase := ph }
def withReq (s : State) (ph : Phase) : State := { s with cache := { s.cache with reqs := [wReq ph], nextReq := 8 } }

/-- Window 0 traps; segment 0 is pending since time 0 in `wPend`. -/
def wTrap : State := setWin { withReq wS .trapped with region := { wS.region with markReqs := [⟨7, 0, 0, 0x40, 12, 0⟩], releases := [⟨0, 0, 0, none⟩] } }
  0 { wWin with trap := true }
def wPend : State := { setWin wTrap 0 { wWin with trap := true, pnd := 1 } with now := 10000000 }

theorem witness_MarkTrapCommandsComplete :
    (alive wTrap = true ∧ takeFirst (fun x => x.req == 7) wTrap.region.markReqs = some (⟨7, 0, 0, 0x40, 12, 0⟩, []) ∧
      markNext wTrap ⟨7, 0, 0, 0x40, 12, 0⟩ = true ∧
      (winOf wTrap 0).state = .enabled ∧ (winOf wTrap 0).trap = true ∧ (winOf wTrap 0).drt.getLsbD 0 = false ∧
      (winOf wTrap 0).pnd.getLsbD 0 = false) ∧
    ((reqOf wTrap 7).isSome = true ∧ (winOf (setWin wTrap 0 { wWin with trap := true, drt := 1 }) 0).drt.getLsbD 0 = true) ∧
    (alive wPend = true ∧ (winOf wPend 0).pnd.getLsbD 0 = true ∧ 10000000 ≤ since wPend (tget 0 (winOf wPend 0).pndAt 0)) ∧
    (takeFirst (fun y => y.bench == 0 && y.win == 0 && y.seg == 0) wTrap.region.releases = some (⟨0, 0, 0, none⟩, []) ∧
      releaseNext wTrap ⟨0, 0, 0, none⟩ = true) := by
  decide

def wMarked : State := setWin wTrap 0 { wWin with trap := true, drt := 1 }
theorem witness_MarkTrapCommandsComplete_marked :
    alive wMarked = true ∧ takeFirst (fun x => x.req == 7) wMarked.region.markReqs = some (⟨7, 0, 0, 0x40, 12, 0⟩, []) ∧
    markNext wMarked ⟨7, 0, 0, 0x40, 12, 0⟩ = true ∧ (reqOf wMarked 7).isSome = true ∧
    (winOf wMarked 0).drt.getLsbD 0 = true := by decide

theorem witness_ReleaseSegmentMarks : twf Win.init wS.region.win = true ∧ (63 : Nat) < 64 ∧ (63 : Nat) ≠ (0 : BitVec 6).toNat ∧
    (63 : WinId) ≠ 0 := by decide

/-- A write of segment 0 of window 0 that waits for memory. -/
def wOld : State := { wS with cache := { wS.cache with reqs := [{ wReq .wbuf with op := .memWr .i }], nextReq := 8 } }

theorem witness_WindowCommandWritesComplete :
    alive wS = true ∧ passes wS con (winGate 0 0x18 false) = true ∧ passes wS con (winGate 0 0x28 false) = true ∧
    passes wS con (winGate 0 0x20 false) = true ∧ olderMarks (entered wS con) 0 1 true = [] ∧ alive wOld = true ∧
    passes wOld con (winGate 0 0x28 false) = true ∧ passes wOld con (winGate 0 0x20 false) = true ∧
    olderMarks (entered wOld con) 0 1 true = [7] ∧ olderMarks (entered wOld con) 0 1 false = [7] := by decide

/-- Window 0 draining, and a window 1 that may be enabled once window 0 is disabled. -/
def wDrain : State := setWin wS 0 { wWin with state := .draining, enable := false }
def wDis : State := { wS with region := { wS.region with win := [] } }

theorem enable_ready : EnableReady (entered wDis con) 0 :=
  ⟨.inl rfl, .inl rfl, fun _ h => absurd h (List.not_mem_nil), by decide, by decide, by decide, .inl rfl,
    fun _ h => absurd h (List.not_mem_nil)⟩

/-- A flush drain of window 0 that has nothing left to do, and window 0 in target lost. -/
def wFlushed : State := setWin wS 0 { wWin with state := .draining, enable := false, flushNext := some 0 }
def wLostWin : State := setWin wS 0 { wWin with state := .targetLost, trap := true }

theorem witness_WindowEnableAndDrainComplete :
    (alive wDis = true ∧ passes wDis con (winGate 0 0 true) = true ∧ reachedReady wDis = true ∧
      (winOf wDis 0).state = .disabled) ∧
    (alive wS = true ∧ passes wS con (winGate 0 0 true) = true ∧ reachedReady wS = true ∧ (winOf wS 0).state = .enabled) ∧
    (alive wLostWin = true ∧ passes wLostWin con (winGate 0 0 true) = true ∧ reachedReady wLostWin = true ∧
      (winOf wLostWin 0).state = .targetLost) ∧
    (alive wDrain = true ∧ passes wDrain con (winGate 0 0 true) = true ∧ (winOf wDrain 0).state = .draining ∧
      (winOf wDrain 0).flushNext = none ∧ winBusy wDrain 0 = false) ∧
    (alive wFlushed = true ∧ (winOf wFlushed 0).state = .draining ∧ winBusy wFlushed 0 = false ∧
      flushLeft wFlushed (winOf wFlushed 0).geo = false) ∧
    ((2 : BitVec 2).toNat ≤ 2 ∧ passes wDis con (winGate 63 (4 + 4 * (2 : BitVec 2).toNat) true) = true ∧
      (winOf wDis 63).state = .disabled) ∧
    (passes wS con (winGate 0 (4 + 4 * (0 : BitVec 2).toNat) true) = true ∧ (winOf wS 0).state ≠ .disabled ∧
      geoWith (winOf wS 0).geo (0 : BitVec 2).toNat 0 = (winOf wS 0).geo ∧
      geoWith (winOf wS 0).geo (0 : BitVec 2).toNat 1 ≠ (winOf wS 0).geo) ∧
    (passes wDis con (winGate 63 16 true) = true ∧ (winOf wDis 63).state = .disabled) ∧
    (passes wS con (winGate 0 16 true) = true ∧ (0x80000C03 : BitVec 32).setWidth 2 ≠ (winOf wS 0).geo.policy ∧
      (0xC00 : BitVec 32).setWidth 2 = (winOf wS 0).geo.policy ∧ (0xC00 : BitVec 32).getLsbD 15 = false ∧
      (0x8D00 : BitVec 32).setWidth 2 = (winOf wS 0).geo.policy ∧ (0x8D00 : BitVec 32).getLsbD 15 = true ∧
      classOf (((0x8D00 : BitVec 32) >>> 8).setWidth 2) ≠ .ash) ∧
    ((winOf wLostWin 0).trap = true ∧ passes wLostWin con (winGate 0 16 true) = true) := by decide

-- ===== benches =====

/-- The request waits for a sector of its line, whose block is in way 3 with the sector valid. -/
def wSector : State := { withReq wS .sector with
  cache := { (withReq wS .sector).cache with
    tags := [(tagKey 0 0 3, ⟨0, 2, false, false, 0, .valid, 0⟩)], resident := [tagKey 0 0 3], setReads := [setKey 0 0] } }

theorem witness_HbmReadsReturnToTheirRequests :
    (alive wSector = true ∧ wSector.cache.setReads.contains (setKey 0 0) = true ∧
      (metaRead (unlockSet wSector 0 0) 0 0 0).2 = true) ∧
    (∃ r, reqOf wSector 7 = some r ∧ r.phase = .sector ∧ wayOfDla wSector r.dla = some 3 ∧
      (tagAt wSector (tagKey (benchOfDla r.dla) (lsOfDla r.dla) 3)).valid.getLsbD (secOfDla r.dla) = true) :=
  ⟨⟨by decide, by decide, by decide +kernel⟩, _, rfl, rfl, by decide +kernel, by decide +kernel⟩

/-- The block of the request has left the set, or is there without the sector. -/
theorem witness_HbmReadsReturnToTheirRequests_gone :
    alive (withReq wS .sector) = true ∧ ∃ r, reqOf (withReq wS .sector) 7 = some r ∧ r.phase = .sector ∧
      ∀ w, wayOfDla (withReq wS .sector) r.dla = some w →
        (tagAt (withReq wS .sector) (tagKey (benchOfDla r.dla) (lsOfDla r.dla) w)).valid.getLsbD (secOfDla r.dla) = false :=
  ⟨rfl, _, rfl, rfl, fun w h => by have e : wayOfDla (withReq wS .sector) 0x40 = none := by decide +kernel
                                   exact absurd (e.symm.trans h) nofun⟩

/-- A read (1) and a write (2) outstanding at expander link 0. -/
def wX : State := { wS with
  cache := { wS.cache with nextX := 3, xreqs :=
    [⟨1, 0, false, 0x40, 0x40, 0x40, 0, 0, false, 0, 0, .probe, true⟩,
     ⟨2, 0, true, 0x40, 0x40, 0x40, 0, BitVec.allOnes 64, false, 0, 0, .evict 0, true⟩] }
  now := 2000000 }

theorem witness_ExpanderAnswersReachTheirBench :
    alive wX = true ∧ (∃ r, xreqOf wX 0 1 = some r ∧ r.write = false ∧ wX.port.xTimeout.toNat * 1000 ≤ since wX r.issued ∧
      (xTimedOut wX 0 r).2 < wX.port.xLoss.toNat) ∧ (∃ r, xreqOf wX 0 2 = some r ∧ r.write = true) :=
  ⟨rfl, ⟨_, rfl, rfl, by decide, by decide⟩, _, rfl, rfl⟩

/-- The link has had one timeout fewer than make a loss in this second. -/
def wXLoss : State := setXlink wX 0 { XLinkS.init with state := .ready, capacity := 1, timeouts := PortS.init.xLoss.toNat - 1 }
theorem witness_ExpanderAnswersReachTheirBench_loss :
    alive wXLoss = true ∧ (∃ r, xreqOf wXLoss 0 1 = some r ∧ wXLoss.port.xTimeout.toNat * 1000 ≤ since wXLoss r.issued ∧
      wXLoss.port.xLoss.toNat ≤ (xTimedOut wXLoss 0 r).2) ∧
    (∃ r, xreqOf wX 0 2 = some r ∧ r.write = true ∧ wX.port.xTimeout.toNat * 1000 ≤ since wX r.issued ∧
      (xTimedOut wX 0 r).2 < wX.port.xLoss.toNat) :=
  ⟨rfl, ⟨_, rfl, by decide, by decide⟩, _, rfl, rfl, by decide, by decide⟩

/-- Write-buffer entries 0 (fresh) and 47 (done) of bench 0, and a request answered at link 0. -/
def wBuf : State := setBench { withReq wS .egress with port := { wS.port with resp := [{ wRsp with req := some 7, left := true }] } } 0 { BenchS.init with wbuf :=
  [⟨0, 0x40, 0x40, 0, 0, false, 0, .fresh, 0, 0, 0⟩, ⟨47, 0x80, 0x80, 0, 0, false, 0, .done, 0, 0, 0⟩] }
def wDirty : State := { wSector with cache := { wSector.cache with
  tags := [(tagKey 0 0 3, ⟨2, 2, false, false, 0, .valid, 0⟩)], sweepThreshold := 0 } }

theorem witness_WriteBufferAndTrackersComplete :
    (alive wBuf = true ∧ (0 : BitVec 6).toNat ≤ 47 ∧
      (∃ e, (wEntries wBuf 0).find? (fun e => e.slot == 0 && e.drain == .fresh) = some e ∧ 250 ≤ since wBuf e.alloc)) ∧
    ((47 : BitVec 6).toNat ≤ 47 ∧ (∃ e, (wEntries wBuf 0).find? (fun e => e.slot == 47 && e.drain == .done) = some e)) ∧
    (∃ r, reqOf wBuf 7 = some r ∧ r.phase = .egress ∧ responseGone wBuf r = true) ∧
    (alive wDirty = true ∧ presented wDirty = true ∧ wDirty.cache.sweepOn = true ∧ (benchOf wDirty 0).sweeping = false ∧
      wDirty.cache.sweepThreshold.toNat < dirtyBlocks wDirty 0 ∧ (benchOf wDirty 0).pending.length < 8) :=
  ⟨⟨rfl, by decide, _, rfl, by decide⟩, ⟨by decide, _, rfl⟩, ⟨_, rfl, rfl, by decide⟩, by decide⟩

def wMaint (op : Option MaintOp) (c : CState) : State := { wS with cache := { wS.cache with mOp := op, cstate := c } }
/-- The maintenance range is empty; the block MSW names is an orphan; the retired way list is full. -/
def wEmptyRange : State := { wS with cache := { wS.cache with mbase := 0x2000, mlim := 0x1000 } }
def wMswOrphan : State := { wS with cache := { wS.cache with tags := [(0, ⟨1, 1, false, false, 0, .orphan, 0⟩)] } }
def wListFull : State := { wS with cache := { wS.cache with retiredList := List.replicate 16384 0 } }

theorem witness_MaintenanceOperationsStart :
    (alive wS = true ∧ passes wS con (mGate 0) = true ∧ wS.cache.mOp = none ∧ wS.cache.mbase.toNat ≤ wS.cache.mlim.toNat) ∧
    (alive wEmptyRange = true ∧ passes wEmptyRange con (mGate 0) = true ∧ wEmptyRange.cache.mOp = none ∧
      wEmptyRange.cache.mlim.toNat < wEmptyRange.cache.mbase.toNat) ∧
    (alive (wMaint (some (.setWay .enable .ok)) .enabled) = true ∧
      passes (wMaint (some (.setWay .enable .ok)) .enabled) con (mGate 0) = true ∧
      passesWl (wMaint (some (.setWay .enable .ok)) .enabled) con (mGate 4) = true ∧
      (wMaint (some (.setWay .enable .ok)) .enabled).cache.mOp.isSome = true ∧
      passes (wMaint (some (.setWay .enable .ok)) .enabled) con (mGate 0x18) = true) ∧
    (passesWl wS con (mGate 4) = true ∧ (tagAt wS (mswKey wS)).state ≠ .orphan ∧ (tagAt wS (mswKey wS)).state ≠ .retired ∧
      wS.cache.retiredList.length < 16384) ∧
    (passesWl wMswOrphan con (mGate 4) = true ∧ wMswOrphan.cache.mOp = none ∧
      (tagAt wMswOrphan (mswKey wMswOrphan)).state = .orphan) ∧
    ((2 : BitVec 2).toNat ≤ 2 ∧ passes wS con (mGate 0x18) = true ∧ passes wS con (mGate 0x10) = true ∧
      passes wS con (mGate 0x08) = true) := by decide

theorem witness_MaintenanceOperationsStart_full :
    alive wListFull = true ∧ passesWl wListFull con (mGate 4) = true ∧ wListFull.cache.mOp = none ∧
    (tagAt wListFull (mswKey wListFull)).state ≠ .retired ∧ (tagAt wListFull (mswKey wListFull)).state ≠ .orphan ∧
    16384 ≤ wListFull.cache.retiredList.length :=
  ⟨rfl, rfl, rfl, by decide, by decide, by show 16384 ≤ (List.replicate 16384 _).length; exact Nat.le_of_eq List.length_replicate.symm⟩

/-- A set-and-way operation runs on way 0 of set 0 of bench 0, whose record is `v`. -/
def wSetWay (k : SwKind) (v : Option TagRec) : State := { wS with cache := { wS.cache with
  mOp := some (.setWay k .ok), tags := match v with
    | some v => [(0, v)]
    | none => [] } }
def swRead (s : State) : State := (recRead (setRead s (mswBench s) (mswSet s)).1 (mswBench s) (mswSet s) 0).1
def swReads (s : State) (st : BState) : Bool :=
  alive s && !setLocked s (mswBench s) (mswSet s) && (setRead s (mswBench s) (mswSet s)).2 &&
  (recRead (setRead s (mswBench s) (mswSet s)).1 (mswBench s) (mswSet s) (s.cache.msw.toNat % 16)).2 &&
  (tagAt (swRead s) (mswKey (swRead s))).state == st && (tagAt (swRead s) (mswKey (swRead s))).dirty == 0 &&
  !unwritable (swRead s) (mswKey (swRead s))
def tagIs (st : BState) : TagRec := { TagRec.init with state := st }

theorem witness_MaintenanceOperationsEnd :
    (alive (wMaint (some (.range .clean 0 7)) .enabled) = true ∧ presented (wMaint (some (.range .clean 0 7)) .enabled) = true ∧
      stepOut (wMaint (some (.range .clean 0 7)) .enabled) .range (maintPurpose .clean) = false ∧
      nextBlk (wMaint (some (.range .clean 0 7)) .enabled) (maintPurpose .clean) 0 7 = none) ∧
    (alive { wMaint (some (.range .clean 7 7)) .enabled with dev := (inStage .containment).dev } = true ∧
      presented { wMaint (some (.range .clean 7 7)) .enabled with dev := (inStage .containment).dev } = false ∧
      stepOut { wMaint (some (.range .clean 7 7)) .enabled with dev := (inStage .containment).dev } .range
        (maintPurpose .clean) = false ∧ 7 ≤ 7) ∧
    (swReads (wSetWay .enable none) .invalid = true ∧ swReads (wSetWay .enable (some (tagIs .retired))) .retired = true ∧
      swReads (wSetWay .disable (some (tagIs .retired))) .retired = true ∧
      swReads (wSetWay .cleanInvalidate (some (tagIs .orphan))) .orphan = true ∧
      swReads (wSetWay .disable none) .invalid = true ∧ swReads (wSetWay .disable (some (tagIs .valid))) .valid = true ∧
      swReads (wSetWay .cleanInvalidate none) .invalid = true ∧
      swReads (wSetWay .cleanInvalidate (some (tagIs .valid))) .valid = true) ∧
    (stepOut (wMaint none .cleaning) .range pCacheClean = false ∧
      nextBlk (wMaint none .cleaning) pCacheClean (wMaint none .cleaning).cache.passNext (2 ^ 33 - 1) = none) ∧
    (stepOut (wMaint none .invalidating) .range pInvalidateAll = false ∧
      nextBlk (wMaint none .invalidating) pInvalidateAll 0 (2 ^ 33 - 1) = none ∧
      stood (wMaint none .invalidating) (dropRecords (wMaint none .invalidating) (wMaint none .invalidating).cache.resident) = true) ∧
    (passesWl wS con (cacheGate 0) = true ∧ wS.cache.cstate = .enabled) ∧
    (passesWl (wMaint none .cleaning) con (cacheGate 0) = true ∧ (wMaint none .cleaning).cache.cstate = .cleaning) ∧
    (passesWl (wMaint none .bypass) con (cacheGate 0) = true ∧ (wMaint none .bypass).cache.cstate = .bypass ∧
      (wMaint none .bypass).cache.bypw = 0) ∧
    (passesWl { wMaint none .bypass with cache := { (wMaint none .bypass).cache with bypw := 1 } } con (cacheGate 0) = true) := by
  decide +kernel

-- ===== host requests and coherence =====

/-- A message of host link 0, member 0. -/
def wMsg : HostMsg := ⟨0, 0, 0x40, 5, false⟩

theorem ready (op : ReqOp) (hi : ingressFull wS 0 0 op = false) (h : rightsOk (winOf wS 0) .hostSocket op = true) :
    HostReady wS wMsg op 0x40 0x40 0 :=
  ⟨⟨rfl, rfl, by decide, by decide, by decide, by decide, hi⟩, by decide, by decide, h⟩
/-- Granule 0 of the board is at home at device 1. -/
def wFar : State := { wB with region := { wB.region with hr := [(0, ⟨0, 0, 0, 1, 1⟩)] } }
theorem far (op : ReqOp) (hi : ingressFull wFar 0 0 op = false) : HostFar wFar wMsg op 0x40 1 0x40 :=
  ⟨⟨rfl, rfl, by decide, by decide, by decide, by decide, hi⟩, by decide, by decide⟩

theorem witness_HostRequestsJoinTheirHomeBench :
    HostReady wS wMsg (.memRd .a) 0x40 0x40 0 ∧ HostReady wS wMsg .memRdData 0x40 0x40 0 ∧
    HostReady wS wMsg (.memInv .a) 0x40 0x40 0 ∧ MetaValue.a ≠ .s ∧ HostReady wS wMsg .memSpecRd 0x40 0x40 0 ∧
    HostReady wS wMsg .memClnEvct 0x40 0x40 0 ∧ HostReady wS wMsg (.memWr .a) 0x40 0x40 0 ∧ socketEntry wS 0 0x40 = none ∧
    HostReady wS wMsg (.memWrPtl .i) 0x40 0x40 0 ∧ (1 : BitVec 64) ≠ BitVec.allOnes 64 ∧
    HostFar wFar wMsg (.memRd .a) 0x40 1 0x40 ∧ HostFar wFar wMsg (.memWr .i) 0x40 1 0x40 ∧ socketEntry wFar 0 0x40 = none ∧
    memberUp wS wMsg.link wMsg.member = true :=
  ⟨ready _ rfl rfl, ready _ rfl rfl, ready _ rfl rfl, by decide, ready _ rfl rfl, ready _ rfl rfl, ready _ rfl rfl, rfl,
   ready _ rfl rfl, by decide, far _ rfl, far _ rfl, rfl, by decide⟩

/-- A back-invalidate of line 0x40 is outstanding at socket 0 through link 0. -/
def wSnoop : State := { withReq wS .snoop with snoop := { wS.snoop with
  snoops := [⟨3, 0x40, 0x40, 0, .inv, 0, 7, false, false, 0, 1, false⟩], nextSnoop := 4
  table := [⟨0, 0, 0x40, 0, 3, .inv, true⟩] } }

/-- The home no longer has that snoop; and one of device 1 is outstanding at socket 0. -/
def wSnoopLate : State := { wSnoop with snoop := { wSnoop.snoop with snoops := [] } }
def wSnoopFar : State := { wFar with snoop := { wFar.snoop with table := [⟨0, 0, 0x40, 1, 3, .inv, true⟩] } }

theorem witness_SnoopAnswersReachTheHome :
    (alive wSnoop = true ∧ presented wSnoop = true ∧ memberUp wSnoop 0 0 = true ∧ saOfMsg wSnoop wMsg = some 0x40 ∧
      ∃ e v, socketEntry wSnoop 0 0x40 = some e ∧ e.home = devId wSnoop ∧ snoopOf wSnoop (hlinkOf wSnoop 0).hsock e.tag = some v) ∧
    (∃ e, alive wSnoopLate = true ∧ presented wSnoopLate = true ∧ memberUp wSnoopLate 0 0 = true ∧
      saOfMsg wSnoopLate wMsg = some 0x40 ∧ socketEntry wSnoopLate 0 0x40 = some e ∧ e.home = devId wSnoopLate ∧
      snoopOf wSnoopLate (hlinkOf wSnoopLate 0).hsock e.tag = none) ∧
    (∃ e, alive wSnoopFar = true ∧ presented wSnoopFar = true ∧ memberUp wSnoopFar 0 0 = true ∧
      saOfMsg wSnoopFar wMsg = some 0x40 ∧ socketEntry wSnoopFar 0 0x40 = some e ∧ e.home ≠ devId wSnoopFar) ∧
    (∃ e, tableEntry (countFlit wSnoop 0) 0 0x40 = some e ∧
      e.home = devId (answered (tableFree (countFlit wSnoop 0) e) (hlinkOf wSnoop 0).hsock e.sa)) ∧
    (∃ e, tableEntry (countFlit wSnoopFar 0) 0 0x40 = some e ∧
      e.home ≠ devId (answered (tableFree (countFlit wSnoopFar 0) e) (hlinkOf wSnoopFar 0).hsock e.sa)) ∧
    tableEntry (countFlit wS 0) 0 0x40 = none ∧
    ((∃ e, tableEntry wSnoop 0 0x40 = some e ∧ e.home = devId wSnoop) ∧
      (∃ e, tableEntry wSnoopFar 0 0x40 = some e ∧ e.home ≠ devId wSnoopFar) ∧ tableEntry wS 0 0x40 = none ∧
      memberUp wS 0 0 = true) ∧
    (∃ v, wSnoop.snoop.snoops.find? (fun v => v.id == 3) = some v ∧ v.timeout.toNat * 1000 ≤ since wSnoop v.issued) :=
  ⟨⟨rfl, rfl, by decide, by decide, _, _, rfl, rfl, rfl⟩, ⟨_, rfl, rfl, by decide, by decide, rfl, rfl, rfl⟩,
    ⟨_, rfl, rfl, by decide, by decide, rfl, by decide⟩, ⟨_, rfl, rfl⟩, ⟨_, rfl, by decide⟩, rfl,
    ⟨⟨_, rfl, rfl⟩, ⟨_, rfl, by decide⟩, rfl, by decide⟩, _, rfl, by decide⟩

def wNc : NcReq := ⟨.userQueue, 3, 0, 0x40⟩
def wResp (r : Resp) : State := { wS with port := { wS.port with nextResp := 1, resp := [r] } }
def wEvict (n : BitVec 32) : State := { wS with snoop := { wS.snoop with evictThreshold := n, evictions := 6 } }

theorem nc_ready (op : ReqOp) (h : rightsOk (winOf wS 0) .userQueue op = true) : NcReady wS wNc op 0x40 0 :=
  ⟨rfl, rfl, by decide, by decide, h⟩

/-- The response may leave. -/
def leaves (r : Resp) : Bool :=
  alive (wResp r) && ((wResp r).port.resp.find? (fun x => x.id == 0) == some r) && memberPort (wResp r) r.link r.member == some 0 &&
  !r.left && mayLeave (wResp r) r && memberUp (wResp r) r.link r.member && sending (wResp r) 0 r && egressFirst (wResp r) 0 r

theorem witness_BenchWaitsAndResponsesComplete :
    (∃ r, reqOf (withReq wS .hold) 7 = some r ∧ r.phase = .hold ∧ held (withReq wS .hold) r.dla = false) ∧
    (∃ r, reqOf (withReq wS .line) 7 = some r ∧ r.phase = .line) ∧
    (alive (wEvict 5) = true ∧ (wEvict 5).snoop.evictThreshold.toNat < ((wEvict 5).snoop.evictions - (wEvict 5).snoop.evictMs).toNat ∧
      (wEvict 5).snoop.evictThreshold ≠ 0) ∧
    ((wEvict 0).snoop.evictThreshold = 0 ∧
      ((wEvict 6).snoop.evictions - (wEvict 6).snoop.evictMs).toNat ≤ (wEvict 6).snoop.evictThreshold.toNat) ∧
    NcReady wS wNc .ncRead 0x40 0 ∧ NcReady wS wNc .ncWrite 0x40 0 ∧ NcReady wS wNc .ncWritePtl 0x40 0 ∧
    (presented wFar = true ∧ homeOf wFar wNc.sa = some (1, 0x40) ∧ 1 ≠ devId wFar) ∧
    (∃ w, homeOf (setWin wS 0 { wWin with u := false }) wNc.sa = some (devId wS, 0x40) ∧
      windowAt (setWin wS 0 { wWin with u := false }) 0x40 = some w ∧
      rightsOk (winOf (setWin wS 0 { wWin with u := false }) w) wNc.rqk .ncRead = false) ∧
    (homeOf { wS with region := { wS.region with hr := [] } } wNc.sa = none ∧
      homeOf wDis wNc.sa = some (devId wDis, 0x40) ∧ windowAt wDis 0x40 = none) ∧
    (leaves wRsp = true ∧ wRsp.req = none ∧ leaves { wRsp with req := some 7 } = true ∧
      leaves { wRsp with kind := .conflictAck } = true) :=
  ⟨⟨_, rfl, rfl, by decide⟩, ⟨_, rfl, rfl⟩, by decide, by decide, nc_ready _ rfl, nc_ready _ rfl, nc_ready _ rfl, by decide,
    ⟨0, by decide⟩, by decide, by decide +kernel⟩

theorem witness_RefusedHostRequestLeavesTheMemory :
    alive wDis = true ∧ presented wDis = true ∧ memberPort wDis 0 0 = some 0 ∧ saOfMsg wDis wMsg = some 0x40 ∧
    ingressFull wDis 0 0 .memRdData = false ∧ ingressFull wDis 0 0 (.memWr .i) = false ∧
    homeOf wDis 0x40 = some (devId wDis, 0x40) ∧ socketEntry wDis 0 0x40 = none ∧ windowAt wDis 0x40 = none ∧
    windowAt (setWin wS 0 { wWin with w := false }) 0x40 = some 0 ∧
    rightsOk (winOf (setWin wS 0 { wWin with w := false }) 0) .hostSocket (.memWr .i) = false := by decide

/-- A running bucket of 100 tokens per microsecond and 8 tokens of burst. -/
def wBucket : ContractS := { ContractS.init with
  ctr := { Contract.init with rate := 100, burst := 8, state := 2 }, running := true }

theorem witness_TokenBucketsFillToTheirBurst : alive wS = true ∧ wBucket.running = true ∧ ContractS.init.running = false := by
  decide
/-- 100 tokens in a microsecond fill a bucket of 8 to its burst; in 60 ns they give 6. -/
theorem test_bucket : (bucketStep 1000 wBucket).rate16 = 8 * 65536 ∧ (bucketStep 60 wBucket).rate16 = 6 * 65536 := by decide

-- ===== contracts =====

/-- A Slate contract on window 0 of device 1, and a board whose window 0 and host link 0 are of class Slate. -/
def wCtr : Contract := { Contract.init with cls := .slate, homemask := 2, rate := 1, burst := 1 }
def wC : State := { setWin (setHlink wB 0 { wHost with cls := .slate }) 0 { wWin with cls := .slate } with
  contract := { ContractUnit.init with assay := [(0, ⟨1, 500, 500, 630, 14, 0, 500, 500, [], false, 0, 0⟩)] } }
/-- A share of device 1 at this home; entry 2 of this origin in a phase, with device 1 as its one home. -/
def wShare (st : ShState) : Share := ⟨1, 2, { wCtr with homemask := 1 }, .slate, st, 0, 0, [4, 5]⟩
def wShares (st : ShState) : State := { wC with contract := { wC.contract with shares := [wShare st] } }
def wEntry (ph : CPhase) (st : BitVec 2) : State :=
  { setContract wC 2 { ContractS.init with ctr := { wCtr with state := st }, phase := ph, started := 0 } with now := 1000000 }

/-- The states of these witnesses are what a counted message of device 1 leaves. -/
theorem witness_ContractMessagesCounted : wC = ctlIn (uncount wC) 1 ∧
    (∀ ph st, wEntry ph st = ctlIn (uncount (wEntry ph st)) 1) ∧ ∀ st, wShares st = ctlIn (uncount (wShares st)) 1 :=
  ⟨rfl, fun _ _ => rfl, fun _ => rfl⟩

theorem witness_AdmissionProposalsAndAnswers :
    (alive wC = true ∧ passes wC con plainGate = true ∧ presented wC = true ∧ wC.contract.waiting = [] ∧ admitting wC = false ∧
      originCheck wC wCtr = none ∧ noRoute wC wCtr = none ∧ freeEntry wC = some 0 ∧ covers wCtr (devId wC) = false) ∧
    (fromMember wC 1 = true ∧ (1 : DevId) ≠ devId wC ∧ shareOf wC 1 2 = none ∧
      (homePropose wC 1 2 { wCtr with homemask := 1 } .slate).2 = none) ∧
    (alive (wEntry .proposing 1) = true ∧ (contractOf (wEntry .proposing 1) 2).phase = .proposing ∧
      covers (contractOf (wEntry .proposing 1) 2).ctr 1 = true ∧ (contractOf (wEntry .proposing 1) 2).answered.getLsbD 1 = false ∧
      (contractOf (wEntry .proposing 1) 2).answered ||| bit 1 = (contractOf (wEntry .proposing 1) 2).ctr.homemask ∧
      1000000 ≤ since (wEntry .proposing 1) (contractOf (wEntry .proposing 1) 2).started) ∧
    (shareOf (wShares .tentative) 1 2 = some (wShare .tentative) ∧ (wShare .tentative).state = .tentative) ∧
    (shareOf (wShares .settingAside) 1 2 = some (wShare .settingAside) ∧ (wShare .settingAside).state = .settingAside ∧
      (wShare .settingAside).setAside.contains 4 = true ∧ overShared (wShares .settingAside) 4 = false ∧
      ((wShare .settingAside).setAside.filter (· != 4)).isEmpty = false) ∧
    ((contractOf (wEntry .committing 1) 2).phase = .committing ∧ covers (contractOf (wEntry .committing 1) 2).ctr 1 = true ∧
      (contractOf (wEntry .committing 1) 2).confirmed ||| bit 1 = (contractOf (wEntry .committing 1) 2).ctr.homemask) := by
  decide +kernel

/-- What the origin refuses; what one home has; what it and another have. -/
def wOwn : Contract := { wCtr with homemask := 1 }
def wBoth : Contract := { wCtr with homemask := 3 }
/-- No route to device 1; the share of a contract over device 1 and device 2; a share of one last bench. -/
def wNoWay : State := { wC with peer := { wC.peer with routes := [] } }
def wTwo (ph : CPhase) (st : BitVec 2) : State :=
  setContract wC 2 { ContractS.init with ctr := { wCtr with homemask := 6, state := st }, phase := ph }
def wLast : State := { wC with contract := { wC.contract with shares := [{ wShare .settingAside with setAside := [4] }] } }
def wOwned (st : BitVec 2) (ph : CPhase) : State :=
  setContract wC 2 { ContractS.init with ctr := { wOwn with state := st }, phase := ph }

theorem witness_AdmissionProposalsAndAnswers_origin :
    (passes wC con plainGate = true ∧ presented wC = true ∧ (originCheck (entered wC con) { wCtr with rate := 0 }).isSome = true) ∧
    (alive wNoWay = true ∧ passes wNoWay con plainGate = true ∧ presented wNoWay = true ∧ wNoWay.contract.waiting = [] ∧
      admitting wNoWay = false ∧ originCheck (entered wNoWay con) wCtr = none ∧
      noRoute (entered wNoWay con) wCtr = some 1) ∧
    (originCheck (entered wC con) wBoth = none ∧ noRoute (entered wC con) wBoth = none ∧
      freeEntry (entered wC con) = some 0 ∧ covers wBoth (devId wC) = true ∧
      homeCheck (proposed (entered wC con) (normAcc con) wBoth 0) (devId wC) wBoth (hlinkOf (entered wC con) wBoth.link).cls = none) ∧
    (originCheck (entered wC con) { wBoth with win := 1 } = none ∧ noRoute (entered wC con) { wBoth with win := 1 } = none ∧
      (homeCheck (proposed (entered wC con) (normAcc con) { wBoth with win := 1 } 0) (devId wC) { wBoth with win := 1 }
        (hlinkOf (entered wC con) wBoth.link).cls).isSome = true) := by
  decide +kernel

theorem witness_AdmissionProposalsAndAnswers_home :
    ((homeCheck wC 1 { wOwn with win := 1 } .slate).isSome = true ∧ shareOf wC 1 2 = none ∧ presented wC = true) ∧
    (presented { wC with dev := { wC.dev with stage := .localReady } } = false ∧
      fromMember { wC with dev := { wC.dev with stage := .localReady } } 1 = true ∧
      shareOf { wC with dev := { wC.dev with stage := .localReady } } 1 2 = none) ∧
    (alive (wTwo .proposing 1) = true ∧ (contractOf (wTwo .proposing 1) 2).phase = .proposing ∧
      covers (contractOf (wTwo .proposing 1) 2).ctr 1 = true ∧ (contractOf (wTwo .proposing 1) 2).answered.getLsbD 1 = false ∧
      (contractOf (wTwo .proposing 1) 2).answered ||| bit 1 ≠ (contractOf (wTwo .proposing 1) 2).ctr.homemask ∧ (13 : Byte) ≠ 0) ∧
    (alive wLast = true ∧ ∃ h, shareOf wLast 1 2 = some h ∧ h.state = .settingAside ∧ h.setAside.contains 4 = true ∧
      overShared wLast 4 = false ∧ h.setAside.filter (· != 4) = []) ∧
    ((contractOf (wTwo .committing 2) 2).phase = .committing ∧ covers (contractOf (wTwo .committing 2) 2).ctr 1 = true ∧
      (contractOf (wTwo .committing 2) 2).confirmed ||| bit 1 ≠ (contractOf (wTwo .committing 2) 2).ctr.homemask) ∧
    ((contractOf (wTwo .releasing 2) 2).phase = .releasing ∧ covers (contractOf (wTwo .releasing 2) 2).ctr 1 = true ∧
      (contractOf (wTwo .releasing 2) 2).confirmed ||| bit 1 ≠ (contractOf (wTwo .releasing 2) 2).ctr.homemask) ∧
    ((contractOf (wEntry .releasing 2) 2).phase = .releasing ∧ covers (contractOf (wEntry .releasing 2) 2).ctr 1 = true ∧
      (contractOf (wEntry .releasing 2) 2).confirmed ||| bit 1 = (contractOf (wEntry .releasing 2) 2).ctr.homemask) :=
  ⟨by decide +kernel, by decide, by decide, ⟨rfl, _, rfl, rfl, by decide +kernel⟩, by decide, by decide, by decide⟩

theorem witness_DeletionAndRevocationComplete_forms :
    (passes (wOwned 2 .idle) con plainGate = true ∧ (contractOf (wOwned 2 .idle) 2).ctr.state = 2 ∧
      (contractOf (wOwned 2 .idle) 2).phase ≠ .releasing ∧ homes (wOwned 2 .idle) (contractOf (wOwned 2 .idle) 2).ctr = []) ∧
    (passes (wEntry .idle 2) con plainGate = true ∧ (contractOf (wEntry .idle 2) 2).ctr.state = 2 ∧
      (contractOf (wEntry .idle 2) 2).phase ≠ .releasing ∧ homes (wEntry .idle 2) (contractOf (wEntry .idle 2) 2).ctr ≠ []) ∧
    (passes (wEntry .releasing 2) con plainGate = true ∧ (contractOf wC 9).ctr.state = 0 ∧
      (contractOf (wEntry .proposing 1) 2).ctr.state = 1 ∧ (contractOf (wEntry .releasing 2) 2).ctr.state = 2) := by decide

/-- A committed share: a clock cap of 600 MHz does not leave it room. -/
theorem witness_ClocksRailsAndSensorsComplete_full :
    alive (wShares .committed) = true ∧ passes (wShares .committed) con plainGate = true ∧ mhzOk (600 : BitVec 16).toNat = true ∧
    failing (entered (wShares .committed) con) (.thermal 0 ((600 : BitVec 16).setWidth 12)) ≠ none :=
  ⟨rfl, rfl, by decide, nofun⟩

def wPass : State := { wC with contract := { wC.contract with passes := [.benches, .param], lastStop := some 0 }, now := 10000 }

theorem witness_DeletionAndRevocationComplete :
    (alive (wEntry .idle 3) = true ∧ passes (wEntry .idle 3) con plainGate = true ∧ (contractOf (wEntry .idle 3) 2).ctr.state = 3) ∧
    ((1 : DevId) ≠ devId wC ∧ fromMember wC 1 = true) ∧
    ((contractOf (wEntry .releasing 2) 2).phase = .releasing ∧
      1000000 ≤ since (wEntry .releasing 2) (contractOf (wEntry .releasing 2) 2).started) ∧
    (50 ≤ (90 : BitVec 32).toNat ∧ (90 : BitVec 32).toNat ≤ 90 ∧ 500 ≤ (60000 : BitVec 32).toNat ∧ (60000 : BitVec 32).toNat ≤ 60000 ∧
      90 < (91 : BitVec 32).toNat) ∧
    wPass.contract.passes = .benches :: [.param] ∧
    covers (contractOf (wEntry .idle 2) 2).ctr 1 = true ∧
    (shareOf (wShares .revoking) 1 2 = some (wShare .revoking) ∧ (wShare .revoking).state = .revoking) ∧
    (wPass.contract.lastStop = some 0 ∧ 10000 ≤ since wPass 0) := by decide

/-- Expander link 0 in ASSAY, with a largest sample of 500 ns, and 17 exceedances in the present second. -/
def wAssay : State := { setXlink wS 0 { XLinkS.init with state := .assay, capacity := 1 } with
  contract := { ContractUnit.init with
    assay := [(0, ⟨0, 0, 0, 0, 0, 0, 0, 0, [300, 500], false, 5, 3⟩)], assaying := [(0, 1000000000)], excSec := [(0, 3, 17, 1200)] }
  now := 3000000000 }

theorem witness_AssaysRunAndDecide :
    (alive wS = true ∧ passes wS con plainGate = true ∧ presented wS = true ∧ (xlinkOf wS 0).state = .ready) ∧
    (alive wAssay = true ∧ wAssay.contract.assaying.find? (fun p => p.1 == 0) = some (0, 1000000000) ∧
      wAssay.contract.window.toNat * 1000000 ≤ since wAssay 1000000000 ∧ (assayOf wAssay 0).samples ≠ [] ∧
      (xlinkOf wAssay 0).state = .assay ∧ (assayOf wAssay 0).failed = false) ∧
    (tget ((0 : BitVec 64), 0, 0) wAssay.contract.excSec 0 = (BitVec.ofNat 64 (wAssay.now.toNat / 1000000000), 17, 1200) ∧
      wAssay.contract.disq.toNat < 17) := by decide
theorem witness_AssaysRunAndDecide_states :
    (∀ st ∈ [XState.ready, .qualified, .unqualified, .assay],
      alive (setXlink wS 0 { XLinkS.init with state := st, capacity := 1 }) = true ∧
      passes (setXlink wS 0 { XLinkS.init with state := st, capacity := 1 }) con plainGate = true ∧
      reachedReady (setXlink wS 0 { XLinkS.init with state := st, capacity := 1 }) = true ∧
      (xlinkOf (setXlink wS 0 { XLinkS.init with state := st, capacity := 1 }) 0).state = st) ∧
    (inStage .localReady).dev.stage = .localReady ∧ (xlinkOf (inStage .localReady) 0).state = .ready := by decide
/-- 500 ns and a margin of 25 %: 625 ns, rounded up to 630; Vermilion to Slate qualify. -/
theorem test_assay : (assayResult wAssay (assayOf wAssay 0)).a = 630 ∧ (assayResult wAssay (assayOf wAssay 0)).classes = 14 := by
  decide

-- ===== jobs =====

def wDesc (op : Byte) : Desc := ⟨op, 0, 0, 0, 0, 0, 0x40, 0x140, 64, 0, 0, 0⟩
/-- Queue 3 of host link 0, and job 1 of it. -/
def wQueue : QueueS := { QueueS.init with
  ctx := ⟨0, 16, 4, 4, false, 0, 0, 8, 0⟩, state := .active, sqTail := 2, sqTail2 := 2, epoch := 6 }
def wJob (op : Byte) : Job := ⟨3, 1, wDesc op, false, 0, 0, some 1, 0, 1, 1, [], [], [], [], 0, 0, false, false, false, false, false, false, [], false⟩
def wStep : StepRec := ⟨.job, 0, 3, 6, 1, 0, 64, 1, 0, 0⟩
def wRun : Run := ⟨wStep, some 1000, 0, [], 0, 0, 0, false, some 0, [], [], [], false, false, 0⟩
def wJ (op : Byte) : State := { setBench wS 0 { BenchS.init with running := some wRun } with
  job := { JobS.init with queues := [(3, wQueue)], jobs := [wJob op] } }

theorem step_ready (op : Byte) : StepReady (wJ op) 0 op (wJob op) wRun := by
  refine ⟨rfl, rfl, rfl, ?_, rfl, rfl, rfl, rfl⟩
  show pickSlot 0 0 none false _ true = .haul
  rfl

theorem witness_OpcodesOfRunningStepsOperate :
    StepReady (wJ opCopy) 0 opCopy (wJob opCopy) wRun ∧ StepReady (wJ opFill) 0 opFill (wJob opFill) wRun ∧
    StepReady (wJ opCheck) 0 opCheck (wJob opCheck) wRun ∧ StepReady (wJ opFlush) 0 opFlush (wJob opFlush) wRun ∧
    StepReady (wJ opPrefetch) 0 opPrefetch (wJob opPrefetch) wRun ∧ StepReady (wJ opAtomic) 0 opAtomic (wJob opAtomic) wRun ∧
    StepReady (wJ opReserve) 0 opReserve (wJob opReserve) wRun ∧ StepReady (wJ opCondstore) 0 opCondstore (wJob opCondstore) wRun ∧
    StepReady (wJ opMigrate) 0 opMigrate (wJob opMigrate) wRun :=
  ⟨step_ready _, step_ready _, step_ready _, step_ready _, step_ready _, step_ready _, step_ready _, step_ready _, step_ready _⟩

/-- The job has nothing released yet and slack to release with; the step waits at the head of the deque. -/
def wRel : State := { wS with
  cache := { wS.cache with bench := (List.range 256).map (fun b => (b, { BenchS.init with k := 600 })) }
  job := { JobS.init with queues := [(3, wQueue)], jobs := [{ wJob opFlush with cut := 0, open_ := 0 }] } }
def wHeadOf (op : Byte) (t : StepRec) (es : Tab EngineS) : State := { wS with
  cache := { wS.cache with bench := [(0, { BenchS.init with deque := [t, wStep], k := 600 })] }
  job := { JobS.init with queues := [(3, wQueue)], jobs := [wJob op], engines := es } }
def wHead : State := wHeadOf opFlush wStep []
def wBusy : EngineS := { EngineS.init with busy := some (1, 3, 1) }
def wOutE : EngineS := { EngineS.init with service := false }
def wDoneOf (parity : Bool) : State := setBench (wJ opFlush) 0 { BenchS.init with
  running := some { wRun with next := 64, done := 64, ops := 1, started := some 0, engine := none, parity := parity } }

theorem witness_HaulStepsRunAndEnd :
    (alive wRel = true ∧ presented wRel = true ∧ queueOrder wRel wRel.job.rrStep.toNat = 3 :: [] ∧
      tget 0 wRel.job.rrRound (3 : QueueId).toNat < weightOf wRel 3 ∧ queueReady wRel 3 = true ∧ (releaseOf wRel 3).2 = true) ∧
    (alive wHead = true ∧ presented wHead = true ∧ runOf wHead 0 = none ∧ (benchOf wHead 0).deque = wStep :: [wStep] ∧
      stale wHead wStep = false ∧ isCheck wHead wStep = false ∧ stale wHead { wStep with epoch := 5 } = true) ∧
    (stale (wHeadOf opCheck wStep []) wStep = false ∧ isCheck (wHeadOf opCheck wStep []) wStep = true ∧
      freeEngine (wHeadOf opCheck wStep []) ((0 : Bench).toNat / 16) = some 0) ∧
    (isCheck (wHeadOf opCheck wStep [(0, wBusy), (1, wOutE)]) wStep = true ∧
      anyEngine (wHeadOf opCheck wStep [(0, wBusy), (1, wOutE)]) ((0 : Bench).toNat / 16) = true ∧
      freeEngine (wHeadOf opCheck wStep [(0, wBusy), (1, wOutE)]) ((0 : Bench).toNat / 16) = none) ∧
    (isCheck (wHeadOf opCheck wStep [(0, wOutE), (1, wOutE)]) wStep = true ∧
      anyEngine (wHeadOf opCheck wStep [(0, wOutE), (1, wOutE)]) ((0 : Bench).toNat / 16) = false) ∧
    (∃ r, alive (wDoneOf false) = true ∧ runOf (wDoneOf false) 0 = some r ∧ runDone (wDoneOf false) 0 r = true ∧ r.parity = false ∧
      r.started = some 0 ∧ 2000 ≤ since { wDoneOf false with now := 2000 } 0) ∧
    (∃ r, runOf (wDoneOf true) 0 = some r ∧ runDone (wDoneOf true) 0 r = true ∧ r.parity = true ∧
      hasRoom (wDoneOf true) 0 .job = true) ∧
    ((6 : Byte) = (queueOf wHead 3).epoch ∧ (5 : Byte) ≠ (queueOf wHead 3).epoch) :=
  ⟨by decide +kernel, by decide, by decide, by decide, by decide, ⟨_, by decide, rfl, by decide, rfl, rfl, by decide⟩,
    ⟨_, rfl, by decide, rfl, by decide⟩, by decide⟩

/-- Bench 1 of cluster 0 is idle with slack, and bench 0 has two steps; a stolen record is on its way to bench 1. -/
def wSteal : State := setBench wHead 1 { BenchS.init with k := 600, retryAt := some 1000 }
def wArrive (t : StepRec) : State := setBench wHead 1 { BenchS.init with k := 600, incoming := [(t, false)] }
/-- Bench 16 of cluster 1 is idle; cluster 0 has published 20 steps, and cluster 1 may steal there or not. -/
def wFarSteal (l : List Nat) : State := { setBench wHead 16 { BenchS.init with k := 600 } with
  job := { wHead.job with published := [(0, 20)], stealing := l } }
/-- Cluster 1 has been drained, and some cluster loaded, for 2 us. -/
def wMature : State := { wHead with
  cache := { wHead.cache with bench := (List.range 16).map (fun i => (16 + i, { BenchS.init with retryAt := some 1 })) }
  job := { wHead.job with loadedSince := some 0, drainedSince := [(1, 1)] }, now := 2001 }

theorem witness_StealingCompletes :
    (alive wSteal = true ∧ presented wSteal = true ∧ idleBench wSteal 1 = true ∧ (benchOf wSteal 1).incoming = [] ∧
      longest wSteal ((1 : Bench).toNat / 16) = some 0) ∧
    (idleBench (wFarSteal [1]) 16 = true ∧ (benchOf (wFarSteal [1]) 16).incoming = [] ∧ longest (wFarSteal [1]) ((16 : Bench).toNat / 16) = none ∧
      (wFarSteal [1]).job.stealing.contains ((16 : Bench).toNat / 16) = true ∧
      (sourceOrder (wFarSteal [1]) ((16 : Bench).toNat / 16) 16).findSome? (longest (wFarSteal [1])) = some 0) ∧
    (idleBench (wFarSteal []) 16 = true ∧ longest (wFarSteal []) ((16 : Bench).toNat / 16) = none ∧
      (wFarSteal []).job.stealing.contains ((16 : Bench).toNat / 16) = false) ∧
    ((benchOf wSteal 1).retryAt = some 1000 ∧ (1000 : Time) ≤ wSteal.now) ∧
    (alive (wArrive wStep) = true ∧ (benchOf (wArrive wStep) 1).incoming = (wStep, false) :: [] ∧
      stale (wArrive wStep) wStep = false ∧ hasRoom (wArrive wStep) 1 wStep.kind = true ∧
      (benchOf (wArrive { wStep with epoch := 5 }) 1).incoming = ({ wStep with epoch := 5 }, false) :: [] ∧
      stale (wArrive { wStep with epoch := 5 }) { wStep with epoch := 5 } = true) ∧
    (alive wMature = true ∧ presented wMature = true ∧ wMature.job.loadedSince = some 0 ∧
      wMature.job.stealing.contains (1 : Cluster).toNat = false ∧
      tget 0 wMature.job.drainedSince (1 : Cluster).toNat ≠ BitVec.allOnes 64 ∧
      wMature.cache.imbalance.toNat ≤ since wMature (tget 0 wMature.job.drainedSince (1 : Cluster).toNat) ∧
      wMature.cache.imbalance.toNat ≤ since wMature 0) := by decide +kernel

/-- A Vermilion request that is ready at bench 0, with 100 ns left; an Ash request that is ready there. -/
def wUrgentReq : Req := { formReq wS 7 (.memRd .i) (.host 0 0 5) .hostSocket 0 0x40 0x40 0 .vermilion none 0 0 0 false 0 0 with
  deadline := some 1100, phase := .line, pool := some .vermilion }
def wUrgent : State := { wS with cache := { wS.cache with nextReq := 8, reqs := [wUrgentReq] } }
def wAshReady : State := { wS with cache := { wS.cache with
  nextReq := 8, reqs := [{ wUrgentReq with cls := .ash, deadline := none, pool := some .shared }] } }
/-- The same Ash request beside a Vermilion one of another line with 1 us left. -/
def wBothReady : State := { wS with cache := { wS.cache with
  nextReq := 9, reqs := [{ wUrgentReq with deadline := some (wS.now + 1000) },
    { wUrgentReq with id := 8, dla := 0x80, cls := .ash, deadline := none, pool := some .shared }] } }
/-- Device work waits at bench 0, whose next slot is slot 4; a bench whose cluster's clock is stopped for an update. -/
def wFloor : State := setBench wS 0 { BenchS.init with slot := 4, pending := [{ wStep with kind := .sweep }] }
def wClockOff : State := { wS with clk := { wS.clk with unlocked := [clusterIsland 0] } }
def pickAt (s : State) (b : Bench) : Pick :=
  pickSlot (benchOf s b).slot (benchOf s b).ashRun
    ((earliest s ((readyAt s b).filter (fun r => r.cls != .ash))).bind (timeLeft s))
    ((readyAt s b).filter (fun r => r.cls == .ash)).head?.isSome (deviceRuns s b || (floorStep s b).isSome)
    (benchOf s b).running.isSome

theorem witness_IssueSlotChoosesByClass :
    ((199 : Nat) < 200 ∧ 63 % 8 ≠ 0 ∧ 68 % 64 = 4 ∧ 64 % 64 ≠ 4 ∧ (2 : Nat) < 3 ∧ (3 : Nat) ≤ 3) ∧
    (alive wUrgent = true ∧ presented wUrgent = true ∧ benchHeld wUrgent 0 = false ∧ pickAt wUrgent 0 = .contracted ∧
      earliest wUrgent ((readyAt wUrgent 0).filter (fun r => r.cls != .ash)) = some wUrgentReq) ∧
    (benchHeld wAshReady 0 = false ∧ pickAt wAshReady 0 = .ash ∧
      (((readyAt wAshReady 0).filter (fun r => r.cls == .ash)).head?).isSome = true) ∧
    (benchHeld wBothReady 0 = false ∧ pickAt wBothReady 0 = .ash ∧
      (earliest wBothReady ((readyAt wBothReady 0).filter (fun r => r.cls != .ash))).isSome = true ∧
      (((readyAt wBothReady 0).filter (fun r => r.cls == .ash)).head?).isSome = true) ∧
    (benchHeld wFloor 0 = false ∧ pickAt wFloor 0 = .floorOp) ∧
    (benchHeld (wJ opFlush) 0 = false ∧ pickAt (wJ opFlush) 0 = .haul) ∧
    (benchHeld wS 0 = false ∧ pickAt wS 0 = .nothing) ∧
    (alive wClockOff = true ∧ benchHeld wClockOff 0 = true) := by decide +kernel

def wQ (v : QueueS) : State := { wS with job := { JobS.init with queues := [(3, v)] } }
/-- The queues below `n` are in use. -/
def wEvery (n : Nat) : State := { wS with job := { JobS.init with queues := (List.range n).map (fun q => (q, wQueue)) } }

theorem tget_same {α : Type} (d v : α) (l : List Nat) (n : Nat) (h : n ∈ l) : tget d (l.map (fun q => (q, v))) n = v := by
  induction l with
  | nil => cases h
  | cons k t ih =>
    simp only [List.map_cons, tget]
    split
    · rfl
    · rename_i hk; exact ih (by simpa [hk] using h)

theorem every_queue (n : Nat) (q : QueueId) (h : q.toNat < n) : queueOf (wEvery n) q = wQueue :=
  tget_same QueueS.init wQueue (List.range n) _ (List.mem_range.2 h)

theorem all_queues : freeQueue (wEvery 8192) = none := by
  rw [freeQueue, List.find?_eq_none]
  intro q hq
  rw [every_queue 8192 _ (BitVec.isLt _)]; decide

def wQRec : QueueRec := ⟨0, 16, 4, 16, true, 0, 0, 64, 0⟩

theorem witness_QueuesAreCreatedAndRung :
    (alive wS = true ∧ passes wS mail queueGate = true ∧ ctxOk wQRec = true ∧ hostUp wS wQRec.link = true ∧
      (wQRec.priv = true → classOfAcc mail = .s) ∧ freeQueue wS = some 0) ∧
    (alive (wEvery 8192) = true ∧ passes (wEvery 8192) mail queueGate = true ∧ hostUp (wEvery 8192) wQRec.link = true ∧ freeQueue (wEvery 8192) = none) ∧
    (passes wS con queueGate = true ∧ wQRec.priv = true ∧ classOfAcc con ≠ .s) ∧
    (ctxOk { wQRec with maxJobs := 0 } = false ∧ hostUp wS 1 = false) ∧
    (alive (wQ wQueue) = true ∧ passes (wQ wQueue) con queueGate = true ∧ (queueOf (wQ wQueue) 3).state ≠ .free ∧
      1 ≤ (64 : BitVec 32).toNat ∧ (64 : BitVec 32).toNat ≤ 64 ∧ (0 : BitVec 32).toNat < 1 ∧ 64 < (65 : BitVec 32).toNat) ∧
    ((queueOf (wQ wQueue) 3).state = .active ∧ (queueOf (wQ wQueue) 3).ctx.link = 0 ∧
      ptrsOk (queueOf (wQ wQueue) 3) = true ∧ (15 : BitVec 32).toNat % 65536 < sqSize (queueOf (wQ wQueue) 3) ∧
      sqAvail (queueOf (wQ wQueue) 3) (queueOf (wQ wQueue) 3).sqTail.toNat ≤ sqAvail (queueOf (wQ wQueue) 3) 15) ∧
    (sqSize wQueue ≤ (0xFFFF : BitVec 32).toNat % 65536 ∧ sqAvail wQueue 1 < sqAvail wQueue wQueue.sqTail.toNat) ∧
    ((0 : BitVec 32).toNat % 65536 < cqSize wQueue ∧
      (0 + cqSize wQueue - wQueue.cqHead.toNat % cqSize wQueue) % cqSize wQueue ≤ cqUsed wQueue wQueue.cqHead.toNat ∧
      cqSize wQueue ≤ (0xFFFF : BitVec 32).toNat % 65536 ∧
      cqUsed wQueue wQueue.cqHead.toNat < (1 + cqSize wQueue - wQueue.cqHead.toNat % cqSize wQueue) % cqSize wQueue) ∧
    (inertPage wS 7 3 = false ∧ (queueOf wS 3).state ≠ .active ∧ inertPage (wQ wQueue) 7 3 = true) :=
  ⟨by decide +kernel, ⟨rfl, rfl, rfl, all_queues⟩, by decide, by decide, by decide, by decide, by decide, by decide, by decide⟩

def wGot (b : Option JStatus) (l : Line) : Got := ⟨0, l, b⟩
def wFetched (b : Option JStatus) (l : Line) : State := wQ { wQueue with fetching := some (0, false, 0), fetched := some (wGot b l) }
/-- A NOP descriptor with the chain flag, whose next descriptor is at 0x40; opcode 11 is none. -/
def wChained : Line := (0x40 : Line) <<< 448 ||| 0x040000
def wFence : State := { wQ wQueue with job := { (wQ wQueue).job with jobs := [{ wJob opFence with cut := 1, open_ := 0 }] } }
def wOrphan : State := { wS with cache := { wS.cache with tags := [(tagKey 0 0 3, ⟨0, 2, false, false, 0, .orphan, 0⟩)] } }
def wLate : State := { wJ opCopy with now := 1000000 }
def wWriting : State := { wJ opCopy with job := { (wJ opCopy).job with jobs := [{ wJob opCopy with recording := true }] } }

theorem fetch_ready (b : Option JStatus) (l : Line) : alive (wFetched b l) = true ∧ ptrsOk (queueOf (wFetched b l) 3) = true ∧
    (queueOf (wFetched b l) 3).state = .active ∧ (queueOf (wFetched b l) 3).fetching = some (0, false, 0) ∧
    (queueOf (wFetched b l) 3).fetched = some (wGot b l) := ⟨rfl, rfl, rfl, rfl, rfl⟩

theorem witness_JobsAreFetchedAndComplete :
    (alive (wQ wQueue) = true ∧ presented (wQ wQueue) = true ∧
      (queueOrder (checkPointers (wQ wQueue)) (checkPointers (wQ wQueue)).job.rr.toNat).find?
        (mayFetch (checkPointers (wQ wQueue))) = some 3 ∧
      (queueOrder (checkPointers wS) (checkPointers wS).job.rr.toNat).find? (mayFetch (checkPointers wS)) = none) ∧
    ((wGot none 0).bad = none ∧ (descOf (wGot none 0).data).flags.getLsbD 2 = false ∧ badDesc (descOf 0x0B) 0x0B = true) ∧
    ((wGot none wChained).bad = none ∧ (descOf wChained).flags.getLsbD 2 = true ∧ badDesc (descOf wChained) wChained = false) ∧
    ((wGot (some .poisoned) 0).bad = some .poisoned ∧ (wGot (some .rights) 0).bad = some .rights ∧ JStatus.rights ≠ .poisoned) ∧
    (∃ x, alive wFence = true ∧ jobOf wFence 3 1 = some x ∧ x.d.opcode = opFence ∧ x.cut = 1 ∧ fenceHolds wFence x = true) ∧
    (alive wOrphan = true ∧ homeOf wOrphan 0x40 = some (devId wOrphan, 0x40) ∧ wayOfDla wOrphan 0x40 = some 3 ∧
      (tagAt wOrphan (tagKey (benchOfDla 0x40) (lsOfDla 0x40) 3)).state = .orphan) ∧
    (∃ x, jobOf { wFence with job := { wFence.job with jobs := [{ wJob opNop with open_ := 0, finished := true }] } } 3 1 = some x ∧
      jobOver { wFence with job := { wFence.job with jobs := [{ wJob opNop with open_ := 0, finished := true }] } } x = true) ∧
    (∃ x, alive wLate = true ∧ passes wLate con queueGate = true ∧ jobOf wLate 3 1 = some x ∧ x.limit = some 1 ∧
      1 * 1000000 ≤ since wLate x.tstart ∧ x.recording = false ∧ x.timedOut = false ∧ x.reset = false ∧ jobOver wLate x = false) ∧
    (jobOf wLate 3 2 = none ∧ passes wWriting con queueGate = true ∧ ∃ x, jobOf wWriting 3 1 = some x ∧ x.recording = true) :=
  ⟨by decide +kernel, by decide +kernel, by decide +kernel, by decide, ⟨_, rfl, rfl, rfl, rfl, by decide⟩, by decide,
    ⟨_, rfl, by decide⟩, ⟨_, rfl, by decide, rfl, rfl, by decide, rfl, rfl, rfl, by decide⟩, rfl, by decide, _, rfl, rfl⟩

theorem witness_QueuesAreResetAndEnginesServe :
    (alive (wQ wQueue) = true ∧ passes (wQ wQueue) con queueGate = true ∧ (queueOf (wQ wQueue) 3).state ≠ .free ∧
      (queueOf (wQ wQueue) 3).resetting = false ∧ (queueOf (wQ wQueue) 3).state = .active ∧ (queueOf (wQ wQueue) 4).state = .free) ∧
    (∀ d ∈ [false, true], alive (wQ { wQueue with resetting := true, destroying := d, state := .stopped }) = true ∧
      passes (wQ { wQueue with resetting := true, destroying := d, state := .stopped }) con queueGate = true ∧
      (queueOf (wQ { wQueue with resetting := true, destroying := d, state := .stopped }) 3).state = .stopped ∧
      (queueOf (wQ { wQueue with resetting := true, destroying := d, state := .stopped }) 3).resetting = true ∧
      resetReady (wQ { wQueue with resetting := true, destroying := d, state := .stopped }) 3 = true ∧
      (queueOf (wQ { wQueue with resetting := true, destroying := d, state := .stopped }) 3).destroying = d ∧
      (∀ x ∈ (wQ { wQueue with resetting := true, destroying := d, state := .stopped }).job.jobs, x.q ≠ 3)) ∧
    (passes (wQ { wQueue with state := .stopped, why := 1 }) con queueGate = true ∧
      (queueOf (wQ { wQueue with state := .stopped, why := 1 }) 3).state = .stopped ∧
      (queueOf (wQ { wQueue with state := .stopped, why := 1 }) 3).resetting = false ∧
      (queueOf (wQ { wQueue with state := .stopped, why := 1 }) 3).why ≠ 3 ∧
      (queueOf (wQ { wQueue with state := .stopped, why := 1 }) 3).why ≠ 4 ∧
      (queueOf (wQ { wQueue with state := .stopped, why := 3 }) 3).why = 3 ∧
      (queueOf (wQ { wQueue with state := .stopped, why := 4 }) 3).why = 4) ∧
    ((engineOf wS (31 : BitVec 5).toNat).service = true ∧ (engineOf wS (31 : BitVec 5).toNat).busy = none ∧
      passes wS con plainGate = true ∧
      (engineOf (wHeadOf opCheck wStep [(0, wBusy)]) (0 : BitVec 5).toNat).service = true ∧
      (engineOf (wHeadOf opCheck wStep [(0, wBusy)]) (0 : BitVec 5).toNat).busy = some (1, 3, 1)) := by decide

-- ===== the data array and containment =====

/-- Three seconds into a scrub pass of 24 hours: one set is due. -/
def wScrub : State := { wS with now := 3000000000 }

theorem witness_ScrubAndLogWritesComplete :
    (alive wScrub = true ∧ presented wScrub = true ∧ wScrub.rel.scrubOn = true ∧ (benchOf wScrub 255).scrubDone.toNat < 32768 ∧
      0 < scrubLag wScrub 255 ∧ scrubLag wScrub 255 ≤ 4096 ∧
      (benchOf wScrub 255).scrubNext = (benchOf wScrub 255).scrubDone.setWidth 15 ∧ (benchOf wScrub 255).pending.length < 8) ∧
    (alive wS = true ∧ passes wS con plainGate = true ∧ 1 ≤ (168 : BitVec 8).toNat ∧ (168 : BitVec 8).toNat ≤ 168) := by decide +kernel

theorem witness_FlipMasksArmAndDisarm :
    (alive wS = true ∧ passesWl wS con (flipGate 7 0) = true ∧ (((0x800 : BitVec 32) ||| 1) >>> 9).setWidth 3 ≤ (4 : BitVec 3) ∧
      (flipOf wS 7).arm = false ∧ (0x800 : BitVec 32).getLsbD 8 = false) ∧
    ((((0x801 : BitVec 32) &&& ~~~1) >>> 9).setWidth 3 ≤ (4 : BitVec 3) ∧ (0x801 : BitVec 32).getLsbD 8 = false) ∧
    (passesWl wS con (bflipGate 255 0) = true ∧ (((0x10000 : BitVec 32) ||| 1) >>> 16).setWidth 2 ≤ (1 : BitVec 2) ∧
      (benchOf wS 255).flipArm = false ∧ (0x10000 : BitVec 32).getLsbD 8 = false) ∧
    ((((0x10001 : BitVec 32) &&& ~~~1) >>> 16).setWidth 2 ≤ (1 : BitVec 2) ∧ (0x10001 : BitVec 32).getLsbD 8 = false) := by
  decide

/-- A remap of row 1 of stack 2 to spare row 66,048 runs; stack 3 retires; a change waits to be persisted. -/
def wRun2 : RemapRun := ⟨32, 66048, false, []⟩
def wRel2 : State := { wS with rel := { wS.rel with remapRun := [(2, wRun2)], retiring := [3], persistSince := some 0 } }

theorem witness_RemapsAndRetirementsComplete :
    (alive wS = true ∧ passes wS con plainGate = true ∧ (0x1FFFFF : BitVec 32).toNat < 2 ^ 31 ∧
      (remapStart (entered wS con) 0 (0x1FFFFF : BitVec 32).toNat false).2 = .ok ∧
      remapHeld wS (0 : Stack).toNat = false ∧ wS.rel.remapAsks = []) ∧
    (alive wRel2 = true ∧ wRel2.rel.remapRun.find? (fun p => p.1 == 2) = some (2, wRun2) ∧
      ((List.range 32).foldl (fun (a : State × Bool) col =>
          if a.2 then moveCw a.1 2 wRun2.cw.toNat wRun2.spare.toNat col else a)
        ({ wRel2 with rel := { wRel2.rel with
          remapRun := tput ⟨0, 0, false, []⟩ wRel2.rel.remapRun 2 ⟨0, 0, false, []⟩ } }, true)).2 = true) ∧
    (passes wS con guardGate = true ∧ stackKeys wS 5 (· == .orphan) = [] ∧ wS.rel.retired.getLsbD 5 = false ∧
      wS.rel.retiring.contains 5 = false) ∧
    (wRel2.rel.retiring.contains 3 = true ∧ stackKeys wRel2 3 (fun b => b == .valid || b == .orphan) = []) ∧
    (wRel2.rel.persistSince ≠ none ∧ wRel2.hen.commitRun = none ∧ engineUp wRel2 = true) := by decide +kernel

def wCont (p : ContPhase) : State := { inStage .containment with rel := { wS.rel with cphase := p }, now := 3000000000 }

theorem witness_ContainmentStepsComplete :
    (alive wS = true ∧ passes wS con containGate = true) ∧
    (alive wB = true ∧ wB.peer.members.getLsbD (1 : DevId).toNat = true ∧ 1 ≠ devId wB) ∧
    (alive (wCont .stop) = true ∧ (wCont .stop).dev.stage = .containment ∧ (wCont .stop).rel.cphase = .stop ∧
      600 ≤ since (wCont .stop) (wCont .stop).rel.entered) ∧
    ((wCont .writeBack).rel.cphase = .writeBack ∧ writtenBack (pump (wCont .writeBack)) = true ∧
      (wCont .writeBack).rel.wbLimit.toNat * 1000000 ≤ since (wCont .writeBack) (wCont .writeBack).rel.wbStart) ∧
    ((wCont .holding).rel.cphase = .holding ∧ (wCont .holding).rel.autoReset = true ∧ (wCont .holding).rel.holdEnd ≤ (wCont .holding).now ∧
      stillWarm (wCont .holding) = false) := by decide +kernel

/-- A bench 4,198 sets behind, one whose pass has ended a day ago, and one whose scrub is switched off. -/
def wLag : State := { wS with now := 10000000000000 + 1000000000000 }
def wLagRaised : State := { wLag with cache := { wLag.cache with bench := [(255, { BenchS.init with scrubRaised := true })] } }
def wPassDone : State := { wS with
  cache := { wS.cache with bench := [(255, { BenchS.init with scrubDone := 32768 })] }, now := 86400000000000 }
def wScrubOff : State := { wS with rel := { wS.rel with scrubOn := false } }

theorem witness_ScrubAndLogWritesComplete_forms :
    (alive wLag = true ∧ presented wLag = true ∧ wLag.rel.scrubOn = true ∧ (benchOf wLag 255).scrubDone.toNat ≠ 32768 ∧
      4096 < scrubLag wLag 255 ∧ (benchOf wLag 255).scrubRaised = false ∧ (benchOf wLagRaised 255).scrubRaised = true) ∧
    (scrubLag wS 255 = 0) ∧
    (alive wPassDone = true ∧ presented wPassDone = true ∧ (benchOf wPassDone 255).scrubDone.toNat = 32768 ∧
      scrubNs wPassDone ≤ since wPassDone (benchOf wPassDone 255).scrubStart ∧
      ∃ t, t = setBench wPassDone 255 { benchOf wPassDone 255 with
          scrubPass := (benchOf wPassDone 255).scrubPass + 1
          scrubStart := (benchOf wPassDone 255).scrubStart + BitVec.ofNat 64 (scrubNs wPassDone)
          scrubNext := 0, scrubDone := 0, scrubRaised := false } ∧ (benchOf t 255).scrubDone = 0) ∧
    (alive wScrubOff = true ∧ wScrubOff.rel.scrubOn = false ∧ 2 ≤ (2 : BitVec 8).toNat ∧ 168 < (169 : BitVec 8).toNat) :=
  ⟨by decide +kernel, by decide, ⟨rfl, rfl, rfl, by decide, _, rfl, by decide⟩, by decide⟩

/-- The block of stack 7 is armed on selection 1; bench 255's on target 0. -/
def wArmed : State := { wS with
  rel := { wS.rel with flip := [(7, { HbcFlip.init with arm := true, msel := 1 })] }
  cache := { wS.cache with bench := [(255, { BenchS.init with flipArm := true })] } }

theorem witness_FlipMasksArmAndDisarm_armed :
    (alive wArmed = true ∧ passesWl wArmed con (flipGate 7 0) = true ∧ (flipOf wArmed (7 : Stack).toNat).arm = true ∧
      (flipOf wArmed (7 : Stack).toNat).msel = (((0x200 : BitVec 32) ||| 1) >>> 9).setWidth 3 ∧
      (flipOf wArmed (7 : Stack).toNat).match_ = ((0x200 : BitVec 32) ||| 1).getLsbD 2 ∧
      (flipOf wArmed (7 : Stack).toNat).meta_ = ((0x200 : BitVec 32) ||| 1).getLsbD 1 ∧
      (flipOf wArmed (7 : Stack).toNat).msel ≠ (((0x400 : BitVec 32) ||| 1) >>> 9).setWidth 3) ∧
    ((flipOf wS (7 : Stack).toNat).arm = false ∧ (4 : BitVec 3) < (((0xA00 : BitVec 32) ||| 1) >>> 9).setWidth 3 ∧
      (4 : BitVec 3) < (((0xA01 : BitVec 32) &&& ~~~1) >>> 9).setWidth 3) ∧
    (passesWl wArmed con (bflipGate 255 0) = true ∧ (benchOf wArmed 255).flipArm = true) ∧
    ((benchOf wS 255).flipArm = false ∧ (1 : BitVec 2) < (((0x20000 : BitVec 32) ||| 1) >>> 16).setWidth 2 ∧
      (1 : BitVec 2) < (((0x20001 : BitVec 32) &&& ~~~1) >>> 16).setWidth 2) := by decide

/-- Stack 5 is retired; a set of stack 0 holds an orphan; the record that leaves with stack 3 has two flipped bits. -/
def wRetired : State := { wS with rel := { wS.rel with retired := 0x20 }, hen := { wS.hen with armed := [(con, 5000)] } }
def wOrphanStack : State := { wS with cache := { wS.cache with
  tags := [(tagKey 0 0 3, ⟨0, 2, false, false, 0, .orphan, 0⟩)], resident := [tagKey 0 0 3] } }

def wBadTag : State := { wRel2 with
  cache := { wS.cache with resident := [tagKey 96 0 0] }, rel := { wRel2.rel with tagErr := [(tagKey 96 0 0, 3)] } }

theorem witness_RemapsAndRetirementsComplete_forms :
    (alive wRel2 = true ∧ passes wRel2 con plainGate = true ∧ remapHeld wRel2 (2 : Stack).toNat = true) ∧
    ((0x7FFFFFFF : BitVec 32).toNat < 2 ^ 31 ∧
      ∃ t e, remapStart (entered wS con) (2 : Stack).toNat (0x7FFFFFFF : BitVec 32).toNat false = (t, e) ∧ e ≠ .ok) ∧
    (2 ^ 31 ≤ (0x80000000 : BitVec 32).toNat) ∧
    (passes wRetired con guardGate = true ∧ stackKeys wRetired 5 (· == .orphan) = [] ∧ wRetired.rel.retired.getLsbD (5 : Stack).toNat = true) ∧
    (alive wOrphanStack = true ∧ passes wOrphanStack con guardGate = true ∧
      stackKeys wOrphanStack 0 (· == .orphan) ≠ []) ∧
    (stood wRel2 (dropRecords wRel2 (wRel2.cache.resident.filter (fun k => stackOf (benchOfKey k) == 3))) = true) ∧
    (alive wBadTag = true ∧ wBadTag.rel.retiring.contains 3 = true ∧ stackKeys wBadTag 3 (fun b => b == .valid || b == .orphan) = [] ∧
      stood wBadTag (dropRecords wBadTag (wBadTag.cache.resident.filter (fun k => stackOf (benchOfKey k) == 3))) = false) ∧
    (wS.rel.retiring.contains 5 = false ∧ wS.rel.persistSince = none) :=
  ⟨by decide, ⟨by decide, _, _, rfl, by decide⟩, by decide, by decide, by decide, by decide, by decide, by decide⟩

/-- A sector waits in the eviction queue of bench 0 while the device writes back. -/
def wQueued : State := { wCont .writeBack with cache := { wS.cache with
  bench := [(0, { BenchS.init with evq := [⟨0x40, 0x40, 0, 0, 0, false⟩] })] } }

theorem witness_ContainmentStepsComplete_forms :
    ((6 : Byte) ≠ 7) ∧ (wB.peer.members.getLsbD (2 : DevId).toNat = false) ∧
    (alive (wCont .writeBack) = true ∧ (wCont .writeBack).dev.stage = .containment ∧ (wCont .writeBack).rel.cphase ≠ .stop ∧
      (wCont .writeBack).rel.cphase ≠ .holding) ∧
    (wQueued.rel.cphase = .writeBack ∧ writtenBack (pump wQueued) = false ∧
      since { wQueued with now := 0 } wQueued.rel.wbStart < wQueued.rel.wbLimit.toNat * 1000000) := by decide +kernel

theorem witness_EntryIntoContainmentRecordsItsCause : wS.dev.stage = .memoryActive := rfl

-- ===== ports, links and expanders =====

def wPortLink (v : LinkS) : State := { wS with port := { wS.port with link := [(0, v), (4, v)] }, now := 2000000000 }
def wExp (st : XState) : State := { wS with port := { wS.port with xl := [(0, { XLinkS.init with state := st, capacity := 1 })] }, now := 2000000000 }
def wDown : State := { wExp .lost with port := { (wExp .lost).port with link := [(0, { LinkS.init with state := .down }), (4, { LinkS.init with state := .down })] } }
def wPeerLink (v : LinkS) : State := { wB with port := { wB.port with link := [(8, v)] }, peer := { wB.peer with link := [] } }
def wRec : LinkS := { wLink with state := .recovery, ide := true }

theorem witness_PortConfigurationCompletes :
    (alive wS = true ∧ passes wS con critGate = true ∧ quadSetOk (tput 0 wS.port.quad (31 : Quad).toNat 44) = true ∧
      quadBusy wS (31 : Quad).toNat = false) ∧
    (((1 : BitVec 32) >>> 2).setWidth 4 = (hlinkOf wS 0).hsock) ∧
    (hostUp wS 7 = false) ∧
    ((membersOf wS 0).any (fun t => t.1 == (0 : BitVec 2).toNat) = true) ∧
    (memberPort wS 0 0 = some 0 ∧ (linkOf wS 0).state = .l0 ∧ memberUp wS 0 0 = true ∧ (hlinkOf wS 0).perst = false) ∧
    (memberUp (inStage .rom) 0 0 = true ∧ (inStage .rom).dev.stage = .rom) ∧
    (wS.dev.stage ≠ .rom ∧ wS.dev.stage ≠ .power ∧ (2 : BitVec 3).toNat ≤ 2) := by decide

/-- PERST# of host link 0 is asserted; its link is up for CXL.io only; the device is in FIRMWARE with no link up. -/
def wPerst : State := { wS with port := { wS.port with host := [(0, { wHost with perst := true })] } }
def wIoOnly : State := wPortLink { LinkS.init with state := .ioOnly }

theorem witness_PortConfigurationCompletes_forms :
    (quadBusy wS (0 : Quad).toNat = true ∧ quadSetOk (tput 0 wS.port.quad (0 : Quad).toNat 12) = true ∧
      quadSetOk (tput 0 wS.port.quad (31 : Quad).toNat 0xFFFFFFFF) = false) ∧
    (((0x3C : BitVec 32) >>> 2).setWidth 4 ≠ (hlinkOf wS 0).hsock ∧ hostUp wS 0 = true) ∧
    ((membersOf wS 0).any (fun t => t.1 == (3 : BitVec 2).toNat) = false) ∧
    (memberPort wDown 0 0 = some 0 ∧ (linkOf wDown 0).state ≠ .l0) ∧
    (alive wS = true ∧ memberPort wS 7 0 = none) ∧
    (memberPort wIoOnly 0 0 = some 0 ∧ (linkOf wIoOnly 0).state = .ioOnly ∧ (hlinkOf wIoOnly 0).perst = false) ∧
    (alive wDown = true ∧ memberUp wDown 0 0 = false ∧ (linkOf wDown 0).state ≠ .ioOnly ∧ memberPort wPerst 0 0 = some 0 ∧
      (hlinkOf wPerst 0).perst = true) := by decide

theorem witness_LinkTrainingAndLossComplete :
    (alive (wPortLink { wLink with state := .training }) = true ∧
      slotAt (wPortLink { wLink with state := .training }) (4 : Port).toNat = some (4, 4, ⟨0, .expander⟩) ∧
      (linkOf (wPortLink { wLink with state := .training }) (4 : Port).toNat).state = .training) ∧
    (slotAt wB 0 = some (0, 4, ⟨0, .host⟩) ∧ slotAt wB 4 = some (4, 4, ⟨0, .expander⟩) ∧ slotAt wB 8 = some (8, 4, ⟨0, .peer⟩) ∧
      portUp wB 0 = true ∧ portUp wB 4 = true ∧ portUp wB 8 = true) ∧
    (alive wB = true ∧ plinkOk 0 = true ∧ plPort wB (0 : PLink).toNat = some 8) ∧
    ((hlinkOf wS 0).perst = false ∧ portsLive wS = true) ∧
    (passes (noWin wB) con plainGate = true ∧ (leadsOf (noWin wB) .expander (0 : XLink).toNat).isEmpty = false ∧
      untargeted (noWin wB) 0 = true ∧ portUp (noWin wB) (xPort (noWin wB) 0) = true ∧
      (noWin wB).cache.xreqs.any (fun r => r.xl == 0) = false) ∧
    (passes (wPeerLink wLink) con plainGate = true ∧ plPort (wPeerLink wLink) 0 = some 8 ∧
      wouldSplit (entered (wPeerLink wLink) con) 0 = false ∧ portUp (wPeerLink wLink) 8 = true) ∧
    (plPort (wPeerLink { wLink with draining := true }) (0 : PLink).toNat = some 8 ∧
      (linkOf (wPeerLink { wLink with draining := true }) 8).draining = true) ∧
    (alive wDown = true ∧ passes wDown con plainGate = true ∧ portsLive wDown = true ∧ (hlinkOf wDown 0).perst = false ∧
      (leadsOf wDown .host (0 : HLink).toNat).any (trainable wDown) = true ∧
      (leadsOf wDown .expander (0 : XLink).toNat).isEmpty = false ∧ trainable wDown (xPort wDown 0) = true) ∧
    (passes (wPeerLink { wLink with state := .down }) con plainGate = true ∧ portsLive (wPeerLink { wLink with state := .down }) = true ∧
      plPort (wPeerLink { wLink with state := .down }) 0 = some 8 ∧ trainable (wPeerLink { wLink with state := .down }) 8 = true) := by
  decide

/-- Peer link 1 on port 12 reaches device 2: without peer link 0, device 1 is reached through it. -/
def wRing : State := { wB with
  port := { wB.port with quad := [(0, 12), (1, 20), (2, 28), (3, 60)], link := [(0, wLink), (4, wLink), (8, wLink), (12, wLink)] }
  peer := { wB.peer with link := [(0, { PLinkS.init with peer := some 1, checked := true }), (1, { PLinkS.init with peer := some 2, checked := true })] } }
def wOut : State := { noWin wB with cache := { wB.cache with xreqs := [⟨5, 0, false, 0x40, 0x40, 0x40, 0, 0, false, 0, 0, .probe, true⟩] } }

theorem witness_LinkTrainingAndLossComplete_forms :
    (slotAt wS (127 : Port).toNat = none ∧ (linkOf wS (4 : Port).toNat).state ≠ .training) ∧
    (slotAt wIoOnly 4 = some (4, 4, ⟨0, .expander⟩) ∧ (linkOf wIoOnly 4).state = .ioOnly) ∧
    (slotAt wDown 4 = some (4, 4, ⟨0, .expander⟩) ∧ portUp wDown 4 = false ∧ (linkOf wDown 4).state ≠ .ioOnly) ∧
    ((linkOf wB 8).draining = false ∧ plPort wS (0 : PLink).toNat = none) ∧
    ((hlinkOf wPerst 0).perst = true ∧ portsLive (inStage .power) = false) ∧
    (alive wB = true ∧ passes wB con plainGate = true ∧ 32 ≤ (32 : Byte).toNat ∧ leadsOf wB .host (7 : Byte).toNat = []) ∧
    ((0 : Byte).toNat < 32 ∧ leadsOf wB .host (0 : Byte).toNat ≠ [] ∧ (0 : Byte) = (0 : XLink).setWidth 8 ∧
      leadsOf wB .expander (0 : XLink).toNat ≠ [] ∧ untargeted wB 0 = false) ∧
    (untargeted wOut 0 = true ∧ xlUp wOut 0 = true ∧ wOut.cache.xreqs.any (fun r => r.xl == 0) = true) ∧
    (untargeted (noWin wB) 0 = true ∧ (noWin wB).cache.xreqs.any (fun r => r.xl == 0) = false ∧
      portUp (noWin wB) (xPort (noWin wB) 0) = true) ∧
    (untargeted (noWin wDown) 0 = true ∧ xlUp (noWin wDown) 0 = false ∧ portUp (noWin wDown) (xPort (noWin wDown) 0) = false) := by
  decide
theorem witness_LinkTrainingAndLossComplete_peer :
    (plPort wB (0 : Byte).toNat = some 8 ∧ wouldSplit (entered wB con) (0 : Byte).toNat = true) ∧
    (wouldSplit (entered (wPeerLink { wLink with state := .down }) con) (0 : Byte).toNat = false ∧
      portUp (wPeerLink { wLink with state := .down }) 8 = false) ∧
    (passes wPerst con plainGate = true ∧ portsLive wPerst = true ∧ (hlinkOf wPerst 0).perst = true ∧
      leadsOf wPerst .host (0 : Byte).toNat ≠ []) ∧
    ((leadsOf wB .host (0 : Byte).toNat).any (trainable wB) = false ∧
      (trainable wB (xPort wB 0) || (xlinkOf wB 0).state == .rejected) = false ∧ trainable wB 8 = false) ∧
    ((trainable (wExp .rejected) (xPort (wExp .rejected) 0) || (xlinkOf (wExp .rejected) 0).state == .rejected) = true) ∧
    (alive (inStage .power) = true ∧ portsLive (inStage .power) = false ∧ leadsOf (inStage .power) .host (0 : Byte).toNat ≠ []) := by
  decide

/-- A training result on whose link all sixteen lanes lock at 64 GT/s. -/
def wTrain : TrainResult := ⟨List.replicate 16 0, 0, 64, true, 1⟩

theorem witness_LinkErrorsAndRetrainComplete :
    (alive wS = true ∧ portUp wS (0 : Port).toNat = true ∧ roleAt wS (0 : Port).toNat ≠ .idle ∧ twf LinkS.init wS.port.link = true ∧
      (linkOf wS (0 : Port).toNat).events + 1 < wS.port.thr.toNat) ∧
    (({ wS with port := { wS.port with thr := 0 } }).port.thr = 0) ∧
    ((linkOf (wPortLink { wLink with state := .grace }) (0 : Port).toNat).state = .grace ∧
      200 ≤ since (wPortLink { wLink with state := .grace }) (linkOf (wPortLink { wLink with state := .grace }) (0 : Port).toNat).graceStart) ∧
    ((linkOf wS (0 : Port).toNat).state ≠ .recovery) ∧
    (slotAt (wPortLink wRec) (4 : Port).toNat = some (4, 4, ⟨0, .expander⟩) ∧ (linkOf (wPortLink wRec) (4 : Port).toNat).state = .recovery ∧
      chooseWidth (relock (linkOf (wPortLink wRec) (4 : Port).toNat).faults wTrain.lanes (4 * 4))
        (linkOf (wPortLink wRec) (4 : Port).toNat).width = some (16, false)) ∧
    (24000000 ≤ since (wPortLink wRec) (linkOf (wPortLink wRec) (4 : Port).toNat).retrainStart) ∧
    (portUp (wPortLink wRec) (4 : Port).toNat = true ∧ (linkOf (wPortLink wRec) (4 : Port).toNat).ide = true) ∧
    (wB.port.cut.toNat ≤ (128 : BitVec 9).toNat ∧ wB.clk.unlocked.contains (0 : Port).toNat = false ∧
      slotAt wB (0 : Port).toNat = some (0, 4, ⟨0, .host⟩) ∧ (linkOf wB (0 : Port).toNat).state = .l0 ∧
      slotAt wB (8 : Port).toNat = some (8, 4, ⟨0, .peer⟩) ∧ (linkOf wB (8 : Port).toNat).state = .l0 ∧
      wB.clk.unlocked.contains (8 : Port).toNat = false) := by decide

def wEvents (st : LinkState) (n : Nat) : State := wPortLink { wLink with state := st, events := n }

theorem witness_LinkErrorsAndRetrainComplete_forms :
    (∀ st ∈ [LinkState.l0, .grace], alive (wEvents st 1000) = true ∧
      portUp (wEvents st 1000) (0 : Port).toNat = true ∧ roleAt (wEvents st 1000) (0 : Port).toNat ≠ .idle ∧
      roleAt (wEvents st 1000) (4 : Port).toNat = .expander ∧ roleAt (wEvents st 1000) (0 : Port).toNat ≠ .expander ∧
      (wEvents st 1000).port.thr ≠ 0 ∧ (wEvents st 1000).port.thr.toNat ≤ (linkOf (wEvents st 1000) (0 : Port).toNat).events ∧
      (linkOf (wEvents st 1000) (0 : Port).toNat).state = st) ∧
    (portUp wDown (0 : Port).toNat = false) ∧
    ((linkOf (wEvents .grace 0) (0 : Port).toNat).state = .grace ∧ urgentQueued (wEvents .grace 0) (0 : Port).toNat = false ∧
      (linkOf (wEvents .grace 0) (0 : Port).toNat).graceSent < 16 ∧ (linkOf wS (0 : Port).toNat).state ≠ .grace) ∧
    (roleAt (wPortLink wRec) (4 : Port).toNat ≠ .idle ∧ (linkOf (wPortLink wRec) (4 : Port).toNat).state = .recovery) ∧
    (chooseWidth (relock (linkOf (wPortLink wRec) (4 : Port).toNat).faults (List.replicate 16 1) (4 * 4))
        (linkOf (wPortLink wRec) (4 : Port).toNat).width = none) ∧
    (since { wPortLink wRec with now := 1 } (linkOf (wPortLink wRec) (4 : Port).toNat).retrainStart < 24000000) ∧
    ((linkOf wS (4 : Port).toNat).ide = false) ∧
    ((wEvents .grace 0).port.cut.toNat ≤ (256 : BitVec 9).toNat ∧ (0 : BitVec 9).toNat < wS.port.cut.toNat ∧
      slotAt wS (127 : Port).toNat = none) := by decide

theorem witness_FlitTransmit_grace :
    alive { wEvents .grace 0 with now := 100 } = true ∧
    (linkOf { wEvents .grace 0 with now := 100 } (0 : Port).toNat).state = .grace ∧
    (linkOf { wEvents .grace 0 with now := 100 } (0 : Port).toNat).graceSent < 16 ∧
    since { wEvents .grace 0 with now := 100 } (linkOf { wEvents .grace 0 with now := 100 } (0 : Port).toNat).graceStart ≤ 200 ∧
    200 < since (wEvents .grace 0) (linkOf (wEvents .grace 0) (0 : Port).toNat).graceStart ∧
    (∃ v, urgentResp [{ wRsp with cls := .vermilion, inFlit := false }] = some v) ∧ urgentResp [] = none :=
  ⟨rfl, rfl, by decide, by decide, by decide, ⟨_, rfl⟩, rfl⟩

def wIdent : XIdent := ⟨true, false, 0x4000000000, true, true, 0x1234, 2, 1⟩

theorem witness_ExpanderStatesComplete :
    (alive (wExp .empty) = true ∧ portsLive (wExp .empty) = true ∧ (leadsOf (wExp .empty) .expander (0 : XLink).toNat).isEmpty = false ∧
      (xlinkOf (wExp .empty) 0).state = .empty) ∧
    ((xlinkOf (wExp .enum) 0).state = .enum ∧ 1000000000 ≤ since (wExp .enum) (xlinkOf (wExp .enum) 0).enumStart ∧
      enumReason { wExp .enum with now := 1000000000 } 0 wIdent = 0 ∧
      enumReason { wExp .enum with now := 1000000000 } 0 { wIdent with type3 := false } ≠ 0) ∧
    (passes (noWin (wExp .ready)) con plainGate = true ∧ xlUp (noWin (wExp .ready)) 0 = true ∧ untargeted (noWin (wExp .ready)) 0 = true) ∧
    ((xlinkOf (wExp .removing) 0).state = .removing ∧ (wExp .removing).cache.xreqs.any (fun r => r.xl == 0) = false) ∧
    (alive (wExp .ready) = true ∧ xLosable (wExp .ready) 0 = true ∧ portUp (wExp .ready) (xPort (wExp .ready) 0) = true) ∧
    ((xlinkOf (wExp .rejected) 0).state = .rejected) ∧ ((xlinkOf (wExp .lost) 0).state = .lost ∧ portsLive (wExp .lost) = true) := by
  decide

theorem witness_ExpanderStatesComplete_forms :
    (leadsOf (wExp .empty) .expander (31 : XLink).toNat = [] ∧ (xlinkOf (wExp .ready) 0).state ≠ .empty ∧
      (xlinkOf (wExp .ready) 0).state ≠ .enum ∧ portsLive (inStage .power) = false) ∧
    (since { wExp .enum with now := 1 } (xlinkOf (wExp .enum) 0).enumStart < 1000000000) ∧
    (xlUp (wExp .ready) 0 = true ∧ untargeted (wExp .ready) 0 = false ∧ xlUp (wExp .lost) 0 = false) ∧
    (∃ s, (xlinkOf s 0).state = .removing ∧ s.cache.xreqs.any (fun r => r.xl == 0) = true) ∧
    (∃ s, alive s = true ∧ xLosable s 0 = true ∧ portUp s (xPort s 0) = false) ∧
    (xLosable (wExp .lost) 0 = false ∧ (xlinkOf (wExp .ready) 0).state ≠ .rejected ∧ (xlinkOf (wExp .ready) 0).state ≠ .lost) :=
  ⟨by decide, by decide, by decide, ⟨setXlink wOut 0 { XLinkS.init with state := .removing }, by decide⟩,
    ⟨setXlink wDown 0 { XLinkS.init with state := .enum }, by decide⟩, by decide⟩

-- ===== mailbox, management transports =====

theorem witness_MailboxReadsComplete :
    (alive wS = true ∧ ioUp wS 0 0 = true ∧ mboxBusy wS 0 = false ∧ (0 : BitVec 32).toNat + (4 : BitVec 32).toNat ≤ effectsLog.length ∧
      (fnOf wS 0 0).tsBase = 0 ∧ (fnOf wS 0 0).tsAt = 0 ∧ others wS = []) ∧
    (ioUp wB 0 0 = true ∧ mboxBusy wB 0 = false ∧ others wB ≠ [] ∧
      (fnOf (setFn wB 0 0 { FnS.init with tsBase := 5 }) 0 0).tsBase ≠ 0 ∧ ioUp (setFn wB 0 0 { FnS.init with tsBase := 5 }) 0 0 = true) := by
  decide

theorem witness_MailboxWritesComplete :
    (alive wS = true ∧ ioUp wS 0 0 = true ∧ mboxBusy wS 0 = false ∧ ([] : List (BitVec 16)).all (fun h => (logOf wS 0 0 0).any (fun e => e.1 == h)) = true ∧
      ([3, 3, 3, 3] : List Byte).length = 4 ∧ (0x40 : BitVec 64).toNat < 2 ^ 48 ∧
      (ncIssue wS .ncWrite (.mbox 0 0) .management (lineSa ((0x40 : BitVec 64).setWidth 48)) 0 (BitVec.allOnes 64) true 0 0).2 = none ∧
      (ncIssue wS .ncWrite (.mbox 0 0) .management (lineSa ((0x40 : BitVec 64).setWidth 48)) 7 (BitVec.allOnes 64) false 0 0).2 = none) ∧
    (24 ≤ wFrame.length ∧ wFrame.length ≤ 1032 ∧ (parseFrame 0 wFrame).isSome = true) ∧
    (alive wB = true ∧ fromMember wB 1 = true ∧ (1 : DevId) ≠ devId wB) := by decide +kernel

/-- A Henos command of member 0 of host link 0 runs. -/
def wMbox : State := { wS with hen := { wS.hen with mbox := [(0, 1)] } }

theorem witness_MailboxReadsAndWritesComplete_forms :
    (alive wMbox = true ∧ ioUp wMbox 0 0 = true ∧ mboxBusy wMbox 0 = true) ∧
    (effectsLog.length < (0xFFFF : BitVec 32).toNat + (4 : BitVec 32).toNat ∧ alive (inStage .power) = true ∧
      ioUp (inStage .power) 0 0 = false ∧ ioUp wS 7 0 = false) ∧
    (([5] : List (BitVec 16)).all (fun h => (logOf wS 0 0 0).any (fun e => e.1 == h)) = false ∧ ([3] : List Byte).length ≠ 4 ∧
      2 ^ 48 ≤ (0x1000000000000 : BitVec 64).toNat) ∧
    (24 ≤ (List.replicate 24 (0 : Byte)).length ∧ (List.replicate 24 (0 : Byte)).length ≤ 1032 ∧
      parseFrame 0 (List.replicate 24 (0 : Byte)) = none ∧ ([0] : List Byte).length < 24) ∧
    (fromMember wB 2 = false) := by decide

theorem witness_ManagementTransportsComplete :
    (alive wS = true ∧ ioUp wS 0 0 = true ∧ (1 : BitVec 2).toNat < 2 ∧ (8 : Byte) ≠ 0 ∧ (8 : Byte) ≠ 0xFF) ∧
    ((0x30 : BitVec 7).toNat = 0x30 + (devId wS).toNat ∧
      ({ wS with hen := { wS.hen with i3cReady := [[1], [2]] } }).hen.i3cReady = [1] :: [[2]] ∧
      100000000 < since { wS with now := 3000000000 } ({ wS with now := 3000000000 }).hen.i3cSince) := by decide

def wSub : Subscriber := ⟨⟨.i3c, 0, 0⟩, 0, [[9]], false⟩
def wI3c : State := { wS with hen := { wS.hen with subs := [wSub] } }
theorem witness_ManagementTransportsComplete_forms :
    (2 ≤ (3 : BitVec 2).toNat ∧ (5 : Byte) ≠ 0xFF ∧ (5 : Byte) ≠ 0 ∧ (5 : Byte) ≠ 0x7E ∧ (0x31 : BitVec 7).toNat ≠ 0x30 + (devId wS).toNat) ∧
    (wI3c.hen.i3cReady = [] ∧
      wI3c.hen.subs.find? (fun u => u.acc.transport == Transport.i3c && !u.queue.isEmpty) = some wSub ∧
      wS.hen.subs.find? (fun u => u.acc.transport == Transport.i3c && !u.queue.isEmpty) = none ∧ since wS wS.hen.i3cSince ≤ 100000000) :=
  ⟨by decide, rfl, rfl, rfl, by decide⟩

-- ===== formation, board time, messages =====

def wForm (bid : BitVec 3) (f : FormState) (led : Option DevId) (st : Stage) : State :=
  { wB with
    dev := { wB.dev with straps := ⟨bid, 1, false⟩, stage := st }
    peer := { wB.peer with form := f, leader := led, formStart := some 0, members := 3, ready := 1
                           recvBy := [((1 - bid.toNat) * 5 + 4, 1)] }
    now := 200000000000 }
def wHello : HelloMsg := ⟨1, 0, PeerS.init.version, 0xFFFFFF00, 7, 3⟩
def wFenced : State := { setPlink wB 0 { PLinkS.init with fence := 2 } with now := 10000000 }

theorem witness_FormationMessagesComplete :
    (alive wB = true ∧ plinkOk 0 = true ∧ plUp wB (0 : PLink).toNat = true ∧ helloCause wB wHello = 0 ∧
      helloCause wB { wHello with board := 9 } ≠ 0) ∧
    (plUp wFenced (0 : PLink).toNat = true ∧ (plinkOf wFenced (0 : PLink).toNat).fence ≠ 0 ∧
      10000000 ≤ since wFenced (plinkOf wFenced (0 : PLink).toNat).helloAt) ∧
    (plPasses wB (0 : PLink).toNat = true ∧ (1 : DevId) ≠ devId wB ∧ tget (0, 0) wB.peer.lsdb (1 : DevId).toNat = (0, 0) ∧
      (5 : BitVec 32) ≠ 0 ∧ ((5 : BitVec 32) - 0).msb = false) ∧
    (alive (wForm 0 .waiting none .localReady) = true ∧ inDomain (wForm 0 .waiting none .localReady) 1 = true ∧
      (wForm 0 .waiting none .localReady).peer.form = .waiting) ∧
    (alive (wForm 1 .waiting none .localReady) = true ∧ (wForm 1 .waiting none .localReady).peer.form = .waiting ∧
      fromLowest (wForm 1 .waiting none .localReady) 0 = true ∧
      (3 : BitVec 8).getLsbD (devId (wForm 1 .waiting none .localReady)).toNat = true) ∧
    ((wForm 0 .committed (some 0) .localReady).peer.form = .committed ∧
      (wForm 0 .committed (some 0) .localReady).peer.leader = some (devId (wForm 0 .committed (some 0) .localReady)) ∧
      (wForm 0 .committed (some 0) .localReady).peer.members.getLsbD (1 : DevId).toNat = true ∧
      (wForm 0 .committed (some 0) .localReady).peer.ready ≠ (wForm 0 .committed (some 0) .localReady).peer.members ∧
      (wForm 0 .committed (some 0) .localReady).peer.formTimeout.toNat * 1000000 ≤
        since (wForm 0 .committed (some 0) .localReady) (wForm 0 .committed (some 0) .localReady).peer.commitAt) ∧
    ((wForm 1 .committed (some 0) .localReady).peer.leader = some 0 ∧ (wForm 1 .committed (some 0) .localReady).dev.stage = .localReady) ∧
    (formOver (wForm 0 .waiting none .localReady) = true) := by decide

theorem witness_FormationMessagesComplete_forms :
    (plUp wS (0 : PLink).toNat = false ∧ plUp wFenced (0 : PLink).toNat = true ∧
      since { wFenced with now := 1 } (plinkOf wFenced (0 : PLink).toNat).helloAt < 10000000 ∧ (plinkOf wB (0 : PLink).toNat).fence = 0) ∧
    (plPasses wFenced (0 : PLink).toNat = false ∧ (0 : DevId) = devId wB ∧ ((0xFFFFFFFF : BitVec 32) - 0).msb = true) ∧
    (inDomain (wForm 0 .active (some 0) .memoryActive) 1 = true ∧ committed (wForm 0 .active (some 0) .memoryActive) = true ∧
      (wForm 0 .active (some 0) .memoryActive).peer.members.getLsbD (1 : DevId).toNat = true ∧
      ({ wB.peer with members := 1 }).members.getLsbD (1 : DevId).toNat = false ∧ inDomain wB 2 = false ∧
      (wForm 0 .failed none .localReady).peer.form = .failed) ∧
    (fromLowest (wForm 1 .waiting none .localReady) 2 = false ∧ (1 : BitVec 8).getLsbD (devId (wForm 1 .waiting none .localReady)).toNat = false) ∧
    ((wForm 1 .committed (some 0) .localReady).peer.leader ≠ some (devId (wForm 1 .committed (some 0) .localReady)) ∧
      (wForm 0 .committed (some 0) .localReady).peer.members.getLsbD (2 : DevId).toNat = false ∧
      (wForm 1 .committed (some 0) .memoryActive).dev.stage ≠ .localReady) ∧
    (inDomain (wForm 0 .committed (some 0) .localReady) 1 = true ∧ (wForm 0 .active (some 0) .memoryActive).peer.form ≠ .committed ∧
      (wForm 0 .active (some 0) .memoryActive).peer.form ≠ .waiting) ∧
    (formOver { wForm 0 .waiting none .localReady with now := 1 } = false ∧
      since { wForm 0 .committed (some 0) .localReady with now := 1 } 0 <
        (wForm 0 .committed (some 0) .localReady).peer.formTimeout.toNat * 1000000) := by decide

def wFrozen : State := { setPlink wB 0 { plinkOf wB 0 with frozen := true } with now := 3000000000 }
def wRoute : State := { wB with peer := { wB.peer with link := [], splitSince := some 0 }, now := 3000000000 }
def wChild : State := { wB with peer := { wB.peer with parent := some 1, hops := 1, parentHops := [(1, 0, 0, 0)], leader := some 1 } }

theorem witness_BoardTimeAndLinkLossComplete :
    (alive wChild = true ∧ wChild.peer.parent = some 1) ∧
    (plinkOk 0 = true ∧ plPasses wB (0 : PLink).toNat = true ∧ (1000 : Time).toNat ≤ wB.now.toNat + wB.peer.syncFault.toNat ∧
      wB.peer.hops ≠ 0xFF ∧ wB.now.toNat + wB.peer.syncFault.toNat < (1000000000 : Time).toNat) ∧
    (alive wChild = true ∧ plPasses wChild (0 : PLink).toNat = true ∧ (plinkOf wChild (0 : PLink).toNat).peer = some 1 ∧
      (noteHops wChild 1 0 1000).peer.parent = some 1) ∧
    (alive wFrozen = true ∧ frozenLink wFrozen 1 3 = some 0 ∧ (plinkOf wFrozen (0 : PLink).toNat).frozen = true ∧
      wFrozen.peer.reconTimeout.toNat * 1000 ≤ since wFrozen (plinkOf wFrozen (0 : PLink).toNat).frozenAt) ∧
    (alive wRoute = true ∧ routeOf wRoute 1 = .direct ∧ availTo wRoute 1 = [] ∧ (domainDevs wRoute).contains 1 = true ∧
      (1 : DevId) ≠ devId wRoute ∧ wRoute.peer.detourDelay.toNat * 1000 ≤ since wRoute (tget 0 wRoute.peer.lostAt (1 : DevId).toNat)) ∧
    (wRoute.peer.splitSince = some 0 ∧ splitNow wRoute = true ∧ wRoute.peer.settle.toNat * 1000 ≤ since wRoute 0) := by decide

theorem witness_BoardTimeAndLinkLossComplete_forms :
    (({ wChild.peer with parent := none }).parent = none ∧ wChild.peer.hops ≠ 0 ∧ wB.peer.parent = none ∧ wB.peer.hops = 0) ∧
    (plPasses wFenced (0 : PLink).toNat = false ∧ (plinkOf wChild (0 : PLink).toNat).peer ≠ some 2 ∧
      (noteHops wB 1 9 1000).peer.parent ≠ some 1) ∧
    (frozenLink wB 1 3 = none ∧ (plinkOf wFrozen (0 : PLink).toNat).late = false ∧ (plinkOf wB (0 : PLink).toNat).frozen = false ∧
      since { wFrozen with now := 1 } (plinkOf wFrozen (0 : PLink).toNat).frozenAt < wFrozen.peer.reconTimeout.toNat * 1000 ∧
      ({ plinkOf wFrozen (0 : PLink).toNat with late := true }).late = true) ∧
    (availTo wB 1 ≠ [] ∧ (domainDevs wB).contains 2 = false ∧
      since { wRoute with now := 1 } (tget 0 wRoute.peer.lostAt (1 : DevId).toNat) < wRoute.peer.detourDelay.toNat * 1000) ∧
    (wB.peer.splitSince = none ∧ splitNow wB = false ∧ since { wRoute with now := 1 } 0 < wRoute.peer.settle.toNat * 1000) := by decide

def wPeerReq : PeerReq := ⟨1, 0, none, false, .memRd .i, 5, .hostSocket, 1, .ash, .ash, 0, 100, 0x40, 0, 0, false, 0, 0⟩
def wPeerSnp : PeerSnp := ⟨1, 0, none, false, .inv, 5, 1, 0x40⟩
def wPeerRsp (op : RspOp) : PeerRsp := ⟨1, 0, none, false, op, 5, 0, 1, 0x40, .ash, .ok, false, false, false, false, false, false, 0, 0xFFF, false, 0, 0⟩

/-- The states of these witnesses are what a counted CTL message leaves. -/
theorem witness_CtlMessagesCounted : wB = ctlIn (uncount wB) 1 ∧ wB = ctlNear (uncount wB) 0 ∧ wChild = ctlIn (uncount wChild) 1 ∧
    wFrozen = ctlIn (uncount wFrozen) 1 ∧ (∀ f l st, wForm 0 f l st = ctlIn (uncount (wForm 0 f l st)) 1) ∧
    ∀ f l st, wForm 1 f l st = ctlIn (uncount (wForm 1 f l st)) 0 :=
  ⟨rfl, rfl, rfl, rfl, fun _ _ _ => rfl, fun _ _ _ => rfl⟩

theorem witness_PeerMessagesComplete :
    (alive wB = true ∧ plinkOk 0 = true ∧ carries wB (0 : PLink).toNat wPeerReq.src = true ∧ wPeerReq.dst = devId wB ∧
      wPeerReq.poison = false ∧ presented wB = true ∧ homeOf wB wPeerReq.sa = some (devId wB, 0x40) ∧ windowAt wB 0x40 = some 0 ∧
      rightsOk (winOf wB 0) wPeerReq.rqk wPeerReq.op = true) ∧
    (({ wPeerReq with dst := 2, via := some 0 }).dst ≠ devId wB ∧ ({ wPeerReq with dst := 2, via := some 0 }).via = some (devId wB)) ∧
    (carries wB (0 : PLink).toNat wPeerSnp.src = true ∧ wPeerSnp.dst = devId wB ∧ wB.dev.stage ≠ .containment ∧
      ({ wPeerSnp with dst := 2, via := some 0 }).via = some (devId wB)) ∧
    (carries wB (0 : PLink).toNat (wPeerRsp (.cmp .cmp)).src = true ∧ (wPeerRsp (.cmp .cmp)).dst = devId wB ∧
      rspClass (wPeerRsp (.cmp .cmp)).op = 2 ∧ rspClass (wPeerRsp (.memData .cmp)).op = 3 ∧ rspClass (wPeerRsp (.memData .cmp)).op ≠ 2 ∧
      rspClass (wPeerRsp (.cmp .cmp)).op ≠ 3) ∧
    (wB.peer.members.getLsbD (1 : DevId).toNat = true ∧ (1 : DevId) ≠ devId wB) := by decide

/-- The same in LOCAL_READY and in containment; a window without rights; a device without windows; another device's home. -/
def wPeerIn (st : Stage) : State := { wB with dev := { wB.dev with stage := st } }

theorem witness_PeerMessagesComplete_forms :
    (({ wPeerReq with op := .memInv .s }).op = .memInv .s ∧ ({ wPeerReq with dst := 2 }).via ≠ some (devId wB) ∧
      ({ wPeerReq with dst := 2 }).dst ≠ devId wB ∧ carries wB (0 : PLink).toNat 2 = false) ∧
    ((wPeerIn .containment).dev.stage = .containment ∧ presented (wPeerIn .localReady) = false ∧
      (wPeerIn .localReady).dev.stage ≠ .containment ∧ wB.dev.stage = .memoryActive) ∧
    (homeOf wB 0x2000000000 = none ∧ homeOf wHome 0x100000040 = some (1, 0x80000040) ∧ (1 : DevId) ≠ devId wHome ∧
      windowAt (noWin wB) 0x40 = none ∧ rightsOk (winOf (setWin wB 0 { wWin with r := false }) 0) wPeerReq.rqk wPeerReq.op = false) ∧
    (({ wPeerSnp with dst := 2 }).dst ≠ devId wB ∧ ({ wPeerSnp with dst := 2 }).via ≠ some (devId wB)) ∧
    (alive wB = true ∧ wB.peer.members.getLsbD (2 : DevId).toNat = false) := by decide

-- ===== resets, start-up, clocks =====

/-- A commit to copy A runs. -/
def wCommit : State := { wS with hen := { wS.hen with commitRun := some (false, 0) } }

theorem witness_ResetsComplete :
    (alive wS = true ∧ passes wS con (resetGate true) = true ∧ passes wS con (resetGate false) = true ∧ engineUp wS = true) ∧
    (alive wCommit = true ∧ wCommit.hen.commitRun = some (false, 0) ∧ wCommit.dev.pendingReset = none) := by decide

/-- The unlocks have run out. -/
def wUnarmed : State := { wS with hen := { wS.hen with armed := [] } }

theorem witness_ResetsComplete_forms :
    (served (inStage .rom) (normAcc mail) (resetGate false) = false ∧ served (inStage .rom) (normAcc mail) (resetGate true) = false ∧
      alive (inStage .rom) = true) ∧
    (served wUnarmed (normAcc con) (resetGate true) = true ∧ served wUnarmed (normAcc con) (resetGate false) = true ∧
      (∃ e, gateCheck (entered wUnarmed con) (normAcc con) (resetGate true) (armedBy wUnarmed con) = some e) ∧
      ∃ e, gateCheck (entered wUnarmed con) (normAcc con) (resetGate false) (armedBy wUnarmed con) = some e) ∧
    (engineUp (inStage .rom) = false ∧ wS.hen.commitRun = none) := ⟨by decide, ⟨rfl, rfl, ⟨_, rfl⟩, _, rfl⟩, by decide⟩

/-- Slot B is newer and not valid; image copy A alone, or both copies, are valid. -/
def wStart (st : Stage) : State := { wS with dev := { wS.dev with stage := st, slotA := ⟨0x100, true⟩, slotB := ⟨0x200, false⟩ }, now := 3000000000 }
def wImg (b : Bool) : State :=
  { wStart .firmware with dev := { (wStart .firmware).dev with imgA := ⟨5, true, []⟩, imgB := ⟨6, b, []⟩ } }
def wNoImg : State := { wStart .firmware with dev := { (wStart .firmware).dev with straps := ⟨0, 0, true⟩ } }

theorem witness_StartUpStagesComplete :
    (alive (wStart .rom) = true ∧ starting (wStart .rom) = true ∧ (wStart .rom).dev.sramDone = false) ∧
    ((wStart .rom).dev.stage = .rom ∧ chooseSlot (wStart .rom) = some (false, true)) ∧
    (alive wNoImg = true ∧ wNoImg.dev.stage = .firmware ∧ wNoImg.dev.straps.defcfg = true) ∧
    ((wImg true).dev.stage = .firmware ∧ (wImg true).dev.straps.defcfg = false ∧ (wImg true).dev.straps.mode.toNat < 2 ∧
      imageToLoad (wImg true) = some (true, false) ∧ imageToLoad (wImg false) = some (false, true)) ∧
    ((wStart .config).dev.stage = .config ∧ bitsOf ((0 : BitVec 8) &&& ~~~(wStart .config).rel.retired) = [] ∧
      bitsOf ((2 : BitVec 8) &&& ~~~(wStart .config).rel.retired) ≠ []) ∧
    ((wStart .memory).dev.stage = .memory ∧ (wStart .memory).dev.testDone = false) ∧
    (starting (wStart .memory) = true ∧ { wStart .memory with now := 65535000000 }.dev.waitLimit.toNat * 1000000 ≤
      { wStart .memory with now := 65535000000 }.now.toNat) := by decide

/-- The quick memory test is selected, which finds no fault. -/
def wQuick : State := { wStart .memory with dev := { (wStart .memory).dev with testSel := 1 } }

/-- Every spare row is held in reserve: a fault in a metadata row cannot be remapped. -/
def wNoSpare : State := { wStart .memory with rel := { (wStart .memory).rel with reserve := 0x200 } }

theorem witness_StartUpStagesComplete_forms :
    (alive wS = true ∧ starting wS = false ∧ wS.dev.stage ≠ .rom ∧ wS.dev.stage ≠ .firmware ∧ wS.dev.stage ≠ .config ∧
      wS.dev.stage ≠ .memory) ∧
    (chooseSlot { wStart .rom with dev := { (wStart .rom).dev with slotA := ⟨0x100, false⟩ } } = none) ∧
    (alive wQuick = true ∧ wQuick.dev.stage = .memory ∧ wQuick.dev.testDone = false ∧
      (if wQuick.dev.testSel = 1 then [] else [((0 : Stack), (5 : BitVec 31))]).foldl (fun (a : State × Bool) (f : Stack × BitVec 31) =>
        if a.2 then testFault a.1 f.1.toNat f.2.toNat else a) (wQuick, true) = (wQuick, true)) ∧
    (alive wNoSpare = true ∧ wNoSpare.dev.stage = .memory ∧ ∃ t, ([((0 : Stack), (0x200000 : BitVec 31))]).foldl
        (fun (a : State × Bool) (f : Stack × BitVec 31) => if a.2 then testFault a.1 f.1.toNat f.2.toNat else a)
        (wNoSpare, true) = (t, false)) ∧
    (({ wStart .memory with now := 1 }).now.toNat < (wStart .memory).dev.waitLimit.toNat * 1000000) :=
  ⟨by decide, by decide, ⟨rfl, rfl, rfl, rfl⟩, ⟨rfl, rfl, _, rfl⟩, by decide⟩

def wClk : State := { wS with clk := { wS.clk with target := [(3, 1200, 0, false)] }, now := 5000 }

theorem witness_ClocksRailsAndSensorsComplete :
    (alive wS = true ∧ railsOk (List.replicate 8 800) (List.replicate 8 10) = true) ∧
    (wClk.clk.target.find? (fun p => p.1 == (3 : Cluster).toNat) = some (3, 1200, 0, false) ∧ 2000 ≤ since wClk 0) ∧
    (passes wS con plainGate = true ∧ mhzOk (600 : BitVec 16).toNat = true ∧
      failing (entered wS con) (.thermal 0 ((600 : BitVec 16).setWidth 12)) = none ∧ wS.clk.throttled.contains (0 : Cluster).toNat = false) ∧
    (islandOk 167 = true ∧ coreIsland (167 : Byte).toNat = false ∧ islandOk 128 = true ∧ coreIsland (128 : Byte).toNat = true ∧
      coreIsland (159 : Byte).toNat = true ∧ coreIsland (127 : Byte).toNat = false) ∧
    (wS.clk.refclk = true) ∧ (thermalDefault.length = 9 ∧ limitsOk thermalDefault = true) ∧
    (readingOk (List.replicate 44 400) = true) := by decide +kernel

def wThermal : State := { wS with clk := { wS.clk with target := [(3, 1200, 0, true)] }, now := 100 }
theorem witness_ClocksRailsAndSensorsComplete_forms :
    (wThermal.clk.target.find? (fun p => p.1 == (3 : Cluster).toNat) = some (3, 1200, 0, true) ∧ since wThermal 0 < 2000 ∧
      wS.clk.target.find? (fun p => p.1 == (3 : Cluster).toNat) = none) ∧
    (mhzOk (601 : BitVec 16).toNat = false) ∧ (({ wS.clk with refclk := false }).refclk = false) ∧ ((5 : Time) ≠ wS.now) ∧
    (limitsOk (List.replicate 9 0) = false ∧ (List.replicate 9 (0 : BitVec 32)).length = 9 ∧ ([] : List (BitVec 32)).length ≠ 9) := by
  decide

-- ===== Henos =====

def hfrm (op type group : Byte) (item index : BitVec 16) (arg : BitVec 32) (v : List Byte) : Frame :=
  ⟨1, 0, 7, BitVec.ofNat 16 (12 + v.length), op, type, group, item, index, arg, v, 0, 0⟩

/-- The decidable form of ObjReady with a condition on the object. -/
def runsWith (s : State) (acc : Accessor) (f : Frame) (op : Byte) : Bool :=
  alive s && reaches s (normAcc acc).transport && itsTurn s acc f op &&
  keptFor s (normAcc acc) (opFrame f op) == none && !badFrame s (opFrame f op)
def readyWith (s : State) (acc : Accessor) (f : Frame) (op : Byte) (p : State → Obj → Bool) : Bool :=
  runsWith s acc f op && (match objAt (frameState s acc f op).1 f.group.toNat f.item.toNat with
    | some o => checkObj (frameState s acc f op).1 (normAcc acc) (opFrame f op) o (needOf op) (frameState s acc f op).2 == none &&
        p (frameState s acc f op).1 o
    | none => false)

theorem runs_of {s : State} {acc : Accessor} {f : Frame} {op : Byte} (h : runsWith s acc f op = true) : FrameRuns s acc f op := by
  simp only [runsWith, Bool.and_eq_true, Bool.not_eq_true', beq_iff_eq] at h
  exact ⟨⟨h.1.1.1.1, h.1.1.1.2, h.1.1.2⟩, h.1.2, h.2⟩

/-- The frame's object is ready, and meets a condition. -/
def ReadyAnd (s : State) (acc : Accessor) (f : Frame) (op : Byte) (p : State → Obj → Bool) : Prop :=
  ∃ o, ObjReady s acc f op o ∧ p (frameState s acc f op).1 o = true

theorem ready_of {s : State} {acc : Accessor} {f : Frame} {op : Byte} {p : State → Obj → Bool}
    (h : readyWith s acc f op p = true) : ReadyAnd s acc f op p := by
  simp only [readyWith, Bool.and_eq_true] at h
  obtain ⟨hr, h⟩ := h
  cases ho : objAt (frameState s acc f op).1 f.group.toNat f.item.toNat with
  | none => rw [ho] at h; simp at h
  | some o =>
    rw [ho] at h; simp only [Bool.and_eq_true, beq_iff_eq] at h
    exact ⟨o, ⟨runs_of hr, ho, h.1⟩, h.2⟩

def wHen : State := { wS with hen := { wS.hen with sessions := [⟨0x78, 0x40, con, 9, 0, 1000000⟩], stagingOwner := some con } }
def i3c : Accessor := ⟨.i3c, 0, 8⟩

theorem witness_FramesAndCyclesComplete :
    (alive wS = true ∧ reaches wS mail.transport = true ∧ mail.transport ≠ .i3c ∧ parseFrame 0 [1, 2] = none ∧
      (parseFrame 0 (wHead12 ++ b4 (crc32c wHead12).toNat)).isSome = true ∧
      noBuffer (tcountAt wS (transportNo mail.transport) 0) (normAcc mail) 0 = false ∧ mail.transport ≠ .console) ∧
    (reaches wS i3c.transport = true ∧ i3c.transport = .i3c ∧
      partialI3c (wS.hen.i3cPartial ++ (List.replicate 6 0 ++ [0, 1] ++ List.replicate 56 0)) = true ∧
      partialI3c (wS.hen.i3cPartial ++ [1, 2]) = false) ∧
    (engineUp wS = true ∧ wS.hen.clears = [] ∧ [(⟨mail, hfrm 1 0 0x70 1 0 0 []⟩ : InFrame)].all (fun q => !badFrame wS q.f) = true) := by decide +kernel

/-- Four MCTP frames wait; the console is switched off; a response to sequence number 7 is kept. -/
def mctp : Accessor := ⟨.mctpPcie, 0, 8⟩
def wFourFrames : State := { wS with hen := { wS.hen with cycle := List.replicate 4 ⟨mctp, hfrm 1 0 0x70 1 0 0 []⟩ } }
def wConOff : State := { wS with hen := { wS.hen with conOn := false, armed := [] } }
def wKept : State := { wS with hen := { wS.hen with kept := [⟨con, 7, 0, [1]⟩] } }
/-- Another accessor's frame is at the front of the queue. -/
def wBehind : State := { wS with hen := { wS.hen with queue := [⟨mctp, hfrm 1 0 0x70 1 0 0 []⟩, ⟨con, hfrm 1 0 0x70 1 0 0 []⟩] } }

theorem witness_FramesAndCyclesComplete_forms :
    (alive (inStage .rom) = true ∧ reaches (inStage .rom) mail.transport = false ∧ engineUp (inStage .power) = false ∧
      recovery (inStage .power) = false ∧ alive (inStage .power) = true) ∧
    (noBuffer wFourFrames mctp 0 = true ∧ noBuffer wFourFrames mctp 1 = false ∧ con.transport = .console ∧ wConOff.hen.conOn = false ∧
      consolePass wConOff con (hfrm 1 0 0x70 1 0 0 []) = false) ∧
    (FrameTurn wKept con (hfrm 1 0 0x70 1 0 0 []) 1 ∧
      keptFor wKept (normAcc con) (opFrame (hfrm 1 0 0x70 1 0 0 []) 1) = some ⟨con, 7, 0, [1]⟩) ∧
    (FrameTurn wS con { hfrm 1 0 0x70 1 0 0 [] with kind := 2 } 1 ∧
      keptFor wS (normAcc con) (opFrame { hfrm 1 0 0x70 1 0 0 [] with kind := 2 } 1) = none ∧
      badFrame wS (opFrame { hfrm 1 0 0x70 1 0 0 [] with kind := 2 } 1) = true) ∧
    (alive wBehind = true ∧ itsTurn wBehind con (hfrm 1 0 0x70 1 0 0 []) 1 = false) ∧
    (FrameRuns wS con (hfrm 1 0 0x77 1 0 0 []) 1 ∧ objAt (frameState wS con (hfrm 1 0 0x77 1 0 0 []) 1).1 0x77 1 = none) ∧
    (FrameRuns wS con (hfrm 1 0 0x10 0x60 9 0 []) 1 ∧
      ∃ o e, objAt (frameState wS con (hfrm 1 0 0x10 0x60 9 0 []) 1).1 0x10 0x60 = some o ∧
        checkObj (frameState wS con (hfrm 1 0 0x10 0x60 9 0 []) 1).1 (normAcc con) (opFrame (hfrm 1 0 0x10 0x60 9 0 []) 1) o
          (needOf 1) (frameState wS con (hfrm 1 0 0x10 0x60 9 0 []) 1).2 = some e) :=
  ⟨by decide, by decide, ⟨⟨rfl, rfl, rfl⟩, rfl⟩, ⟨⟨rfl, rfl, rfl⟩, rfl, by decide⟩, ⟨rfl, by decide⟩, ⟨runs_of (by decide), rfl⟩,
    runs_of (by decide), _, _, rfl, rfl⟩

def rd : Frame := hfrm 1 0 0x10 0x60 0 0 []
def wr : Frame := hfrm 2 3 0x10 0x60 0 0 [64, 0]
def op9 (op : Byte) (arg : BitVec 32) (v : List Byte) : Frame := hfrm op 9 0x78 0x40 0 arg v

theorem witness_ObjectOperationsComplete :
    (ReadyAnd wS mail rd 1 (fun (_ : State) (o : Obj) => decide (o.type ≠ 9))) ∧
    (ReadyAnd wS mail wr 2 (fun (t : State) (o : Obj) => decide (o.type ≠ 9) &&
      (writeObj t (normAcc mail) (some (opFrame wr 2)) o wr.index.toNat wr.value).2 == some (.ok, 0))) ∧
    (ReadyAnd wS mail { wr with flags := 1 } 2 (fun (t : State) (o : Obj) => decide (o.type ≠ 9) && persisted o &&
      (writeObj t (normAcc mail) (some (opFrame { wr with flags := 1 } 2)) o wr.index.toNat wr.value).2 == some (.ok, 0))) ∧
    (ReadyAnd wS mail { rd with type := 3 } 3 (fun (_ : State) (o : Obj) => decide (o.type ≠ 9))) ∧
    (ReadyAnd wS mail { wr with op := 4 } 4 (fun (_ : State) (o : Obj) => decide (o.type ≠ 9) && !o.action && persisted o)) ∧
    (ReadyAnd wS con (op9 7 0 []) 7 (fun (t : State) (o : Obj) => decide (o.type = 9) && sessionOn t o == none &&
      (doOpen t (normAcc con) (opFrame (op9 7 0 []) 7) o).2.1 == .ok)) ∧
    (wS.now.toNat < 2 ^ 63) ∧
    (ReadyAnd wHen con (op9 8 9 [0, 0, 0, 0, 16, 0]) 8 (fun (t : State) (o : Obj) => (heldBy t (normAcc con) (op9 8 9 [0, 0, 0, 0, 16, 0]) o).any
        (fun v => (sessionRead t o v 0 16).isSome))) ∧
    (ReadyAnd wHen con (op9 9 9 [0, 0, 0, 0, 16, 0]) 9 (fun (t : State) (o : Obj) => (heldBy t (normAcc con) (op9 9 9 [0, 0, 0, 0, 16, 0]) o).any
        (fun v => v.base.toNat + fieldAt [0, 0, 0, 0, 16, 0] 0 4 + (6 - 4) ≤ stagingSize))) ∧
    (ReadyAnd wHen con (op9 10 9 []) 10 (fun (t : State) (o : Obj) => (heldBy t (normAcc con) (op9 10 9 []) o).isSome)) ∧
    (ReadyAnd wS mail rd 11 (fun _ _ => true)) :=
  ⟨ready_of (by decide +kernel), ready_of (by decide +kernel), ready_of (by decide +kernel), ready_of (by decide +kernel),
   ready_of (by decide +kernel), ready_of (by decide +kernel), by decide, ready_of (by decide +kernel), ready_of (by decide +kernel),
   ready_of (by decide +kernel), ready_of (by decide +kernel)⟩

def op9of (op : Byte) : Frame := hfrm op 9 0x78 0x40 0 0 []
def wr60 : Frame := hfrm 2 3 0x60 0x22 0 0 [0, 0]

theorem witness_ObjectOperationsComplete_forms :
    (ReadyAnd wS con (op9of 1) 1 (fun (_ : State) (o : Obj) => o.type == 9)) ∧
    (ReadyAnd wS con (op9of 3) 3 (fun (_ : State) (o : Obj) => o.type == 9)) ∧
    (ReadyAnd wS mail { wr60 with flags := 1 } 2 (fun (_ : State) (o : Obj) => o.type != 9 && !persisted o)) ∧
    (ReadyAnd wS mail { wr with item := 0x61, value := [0, 0] } 2 (fun (t : State) (o : Obj) => o.type != 9 &&
      (writeObj t (normAcc mail) (some (opFrame { wr with item := 0x61, value := [0, 0] } 2)) o 0 [0, 0]).2 == some (.range, 0))) ∧
    (ReadyAnd wS mail { wr60 with op := 4 } 4 (fun (_ : State) (o : Obj) => o.type != 9 && !o.action && !persisted o)) ∧
    (ReadyAnd wS mail (hfrm 4 3 0x10 0x40 0 0 [0, 0]) 4 (fun (_ : State) (o : Obj) => o.type != 9 && o.action)) ∧
    (ReadyAnd wS con (op9of 10) 10 (fun (t : State) (o : Obj) => (heldBy t (normAcc con) (op9of 10) o).isNone)) ∧
    (ReadyAnd wS mail (hfrm 2 8 0x38 0x11 0 0 (List.replicate 32 0)) 2 (fun (t : State) (o : Obj) => o.type != 9 &&
      (writeObj t (normAcc mail) (some (opFrame (hfrm 2 8 0x38 0x11 0 0 (List.replicate 32 0)) 2)) o 0 (List.replicate 32 0)).2 == none)) :=
  ⟨ready_of (by decide +kernel), ready_of (by decide +kernel), ready_of (by decide +kernel), ready_of (by decide +kernel),
   ready_of (by decide +kernel), ready_of (by decide +kernel), ready_of (by decide +kernel), ready_of (by decide +kernel)⟩

theorem witness_EngineOperationsComplete :
    (FrameRuns wS mail (hfrm 5 0 0 0 0 0 []) 5 ∧ (frameState wS mail (hfrm 5 0 0 0 0 0 []) 5).1.hen.commitRun = none) ∧
    (FrameRuns wS mail (hfrm 6 0 0 0 0 0 [0xB1, 0x93, 0x0D, 0x6A]) 6 ∧ leNat ([0xB1, 0x93, 0x0D, 0x6A] : List Byte) = 0x6A0D93B1) ∧
    (FrameRuns wS mail (hfrm 6 0 0 0 0 0 [0, 0, 0, 0]) 6 ∧ leNat ([0, 0, 0, 0] : List Byte) ≠ 0x6A0D93B1) ∧
    (FrameRuns wS mail (hfrm 12 0 0 0 0 0 []) 12 ∧ nextObj (frameState wS mail (hfrm 12 0 0 0 0 0 []) 12).1 0 0 = some (0, 1)) ∧
    (FrameRuns wS con (hfrm 13 0 0 0 0 2 (List.replicate 256 1)) 13 ∧ (normAcc con).transport = .console ∧
      (List.replicate 256 (1 : Byte)).length = 256 ∧ (2 : BitVec 32).toNat < 3 ∧
      (doSubscribe (frameState wS con (hfrm 13 0 0 0 0 2 (List.replicate 256 1)) 13).1 (normAcc con) (opFrame (hfrm 13 0 0 0 0 2 (List.replicate 256 1)) 13)).2 = .ok) ∧
    (FrameRuns wS con (hfrm 14 0 0 0 0 0 []) 14) ∧
    ({ wS with hen := { wS.hen with install := some (1, 0) } }.hen.install = some (1, 0)) ∧
    (passes wHen con installGate = true ∧ wHen.hen.stagingOwner = some (normAcc con) ∧ (1 : Byte).toNat < 2 ∧
      wHen.dev.running ≠ some ((1 : Byte).toNat == 1) ∧ wHen.hen.install = none) ∧
    (passes wS con plainGate = true ∧ rates.contains (921600 : BitVec 32).toNat = true) ∧
    (passes wS i3c (conGate wS i3c (1 : Byte).toNat) = true ∧ (1 : Byte).toNat ≤ 1 ∧ passes wS i3c (conGate wS i3c (0 : Byte).toNat) = true) ∧
    (passes wS con lockGate = true ∧ wS.hen.lock ≠ ((1 : Byte).toNat == 1)) :=
  ⟨⟨runs_of (by decide), by decide⟩, ⟨runs_of (by decide), by decide⟩, ⟨runs_of (by decide), by decide⟩,
   ⟨runs_of (by decide), by decide +kernel⟩, ⟨runs_of (by decide +kernel), by decide, by decide +kernel, by decide, by decide +kernel⟩,
   runs_of (by decide), by decide, by decide, by decide, by decide, by decide⟩

def wRunCommit : State := { wS with hen := { wS.hen with commitRun := some (false, 0) } }
def conSub : Subscriber := ⟨con, 1, [], false⟩
def wSubs (n : Nat) : State := { wS with hen := { wS.hen with subs := List.replicate n conSub } }

theorem witness_EngineOperationsComplete_forms :
    (FrameRuns wRunCommit con (hfrm 5 0 0 0 0 0 []) 5 ∧ (frameState wRunCommit con (hfrm 5 0 0 0 0 0 []) 5).1.hen.commitRun ≠ none) ∧
    (FrameRuns wS mail (hfrm 12 0 0xFF 0xFFFF 0 0 []) 12 ∧
      nextObj (frameState wS mail (hfrm 12 0 0xFF 0xFFFF 0 0 []) 12).1 0xFF 0xFFFF = none) ∧
    (mail.transport ≠ .i3c ∧ mail.transport ≠ .console ∧ con.transport = .console ∧ ([1] : List Byte).length ≠ 256 ∧
      3 ≤ (3 : BitVec 32).toNat) ∧
    ((List.replicate 256 (0 : Byte)).length = 256 ∧ (wSubs 8).hen.subs.any (fun b => b.acc == i3c) = false ∧
      8 ≤ (wSubs 8).hen.subs.length ∧ (wSubs 1).hen.subs.length < 8) ∧
    ((wSubs 1).hen.subs.find? (fun b => b.acc == con) = some conSub) ∧
    (wS.hen.install = none ∧ passes wS con installGate = true ∧ wS.hen.stagingOwner ≠ some (normAcc con)) ∧
    (2 ≤ (2 : Byte).toNat ∧ wHen.dev.running = some ((0 : Byte).toNat == 1) ∧
      ({ wHen with hen := { wHen.hen with install := some (1, 0) } }).hen.install ≠ none ∧
      passes { wHen with hen := { wHen.hen with install := some (1, 0) } } con installGate = true) ∧
    (rates.contains (1 : BitVec 32).toNat = false ∧ 1 < (2 : Byte).toNat ∧ wS.hen.lock = ((0 : Byte).toNat == 1)) :=
  ⟨⟨runs_of (by decide), nofun⟩, ⟨runs_of (by decide), by decide +kernel⟩, by decide, ⟨List.length_replicate .., by decide⟩, rfl, by decide, by decide,
    by decide⟩

def wChar : List Bool := (List.replicate 16 false) ++ (List.replicate 128 false) ++ List.replicate 16 true
def wCon : State := { wS with hen := { wS.hen with conBuf := [0x7E] }, now := 3000000000, obs := { wS.obs with seam := { wS.obs.seam with blowing := true } } }

theorem witness_ConsoleAndFuseComplete :
    (alive wS = true ∧ wChar.getD 0 true = false ∧ majority wChar 7 = false ∧ majority wChar 151 = true ∧
      (List.replicate 160 false).getD 0 true = false ∧ majority (List.replicate 160 false) 7 = false ∧
      majority (List.replicate 160 false) 151 = false ∧
      (List.range 8).foldl (fun (b : Byte) k => if majority (List.replicate 160 false) (16 * (k + 1) + 7) then b ||| bit k else b) 0 = 0) ∧
    ((249 : BitVec 16).toNat < 250 ∧ 250 ≤ (250 : BitVec 16).toNat) ∧
    (alive wCon = true ∧ wCon.hen.conBuf ≠ [] ∧ 100000000 ≤ since wCon wCon.hen.conStart ∧ wCon.obs.seam.blowing = true) ∧
    (passes wS con fuseGate = true ∧ wS.obs.seam.fuse = false) := by decide

/-- A blown fuse; a character without a stop bit that is not all 0. -/
def wBlown : State := { wS with obs := { wS.obs with seam := { wS.obs.seam with fuse := true } } }
def wNoStop : List Bool := List.replicate 16 false ++ List.replicate 16 true ++ List.replicate 128 false
theorem witness_ConsoleAndFuseComplete_forms :
    (wNoStop.getD 0 true = false ∧ majority wNoStop 7 = false ∧ majority wNoStop 151 = false ∧
      (List.range 8).foldl (fun (b : Byte) k => if majority wNoStop (16 * (k + 1) + 7) then b ||| bit k else b) 0 ≠ 0) ∧
    (([true] : List Bool).getD 0 true = true ∧ wS.hen.conBuf = [] ∧ since { wCon with now := 1 } wCon.hen.conStart < 100000000) ∧
    (alive wBlown = true ∧ passes wBlown con fuseGate = true ∧ wBlown.obs.seam.fuse = true ∧ wS.obs.seam.blowing = false ∧
      (0 : BitVec 32) ≠ 0x4F425346) := by decide

-- ===== registers, events, counters, Seam =====

def bar (b : BitVec 2) (off : BitVec 26) (n : BitVec 10) (be : Byte) : BarAccess := ⟨0, 0, b, off, n, be⟩
/-- An upset copy and an outvoted master; then two masters of one flip-flop group that differ. -/
def wVote : State := { wS with reg := { wS.reg with masters := [(0, 0, 1), (0, 1, 1)] } }

def wMuted : State := { wS with reg := { wS.reg with muted := [0] } }

theorem witness_RegisterCommandsComplete :
    (alive wS = true ∧ wS.reg.muted.contains 0 = false ∧ wMuted.reg.muted.contains 0 = true ∧
      barBehind wMuted (bar 0 0 1 15) = none ∧ barsUp wS = true ∧ classify (bar 0 0 1 15) = .full ∧ (dwordRead wS 0 0 0 0 true true).2.isSome = true ∧
      (dwordRead wS 0 0 0 0x2C true true).2 = none ∧ classify (bar 0 0x2C 1 15) = .full ∧
      classify (bar 0 0 3 15) = .oversize ∧ classify (bar 0 0 1 5) = .unaligned) ∧
    (assigned (offOf (bar 0 0xC 1 15)) = true ∧ classify (bar 1 0 1 15) = .full ∧ (bellWrite wS 0 0 0).isSome = true) ∧
    ((0 : BitVec 32) ≠ 0x6A0D93B1 ∧ tget 0 wS.reg.unlock (0 : HLink).toNat ≤ wS.now) ∧
    (noMajority wS.reg.masters = false ∧ noMajority wVote.reg.masters = true) := by decide +kernel

/-- A write of the quad 31 record of host link 0 waits behind a frame; 64 of them wait. -/
def wBar : BarWait := ⟨0, 0, 0x40, 0, false, 1, none⟩
def wBars (n : Nat) : State := { wS with hen := { wS.hen with bars := List.replicate n wBar } }
def wUpset : State := { wS with reg := { wS.reg with unlock := [(0, 5000)] } }

theorem witness_RegisterCommandsComplete_forms :
    (barBehind wS (bar 0 0 1 15) = none ∧ barBehind (wBars 1) (bar 0 0x40 1 15) = some wBar ∧ barsUp (inStage .rom) = false) ∧
    (classify (bar 0 8 2 0xFF) = .wide ∧ classify (bar 0 8 1 3) = .narrow ∧
      classify (bar 0 (BitVec.ofNat 26 payloadBase) 1 15) = .payload) ∧
    (∃ t l, readDwords wS (bar 0 8 2 0xFF) true 2 = (t, l)) ∧
    (assigned 0x0 = true ∧ dictReg 0 = false ∧ framesAhead wS = 0 ∧ wS.hen.bars = []) ∧
    ((wBars 1).hen.bars ≠ [] ∧ barsUp (wBars 64) = true ∧
      ((wBars 1).hen.bars.filter (fun w => w.link == 0 && w.read.isNone)).length < 64 ∧
      64 ≤ ((wBars 64).hen.bars.filter (fun w => w.link == 0 && w.read.isNone)).length) ∧
    (bellWrite wS 0 0x20 0 = none ∧ tget 0 wUpset.reg.unlock (0 : HLink).toNat = 5000 ∧
      wUpset.now < tget 0 wUpset.reg.unlock (0 : HLink).toNat) ∧
    (wS.reg.soft = [] ∧ (∃ o, objAt wS 0x10 0x60 = some o)) :=
  ⟨by decide, by decide, ⟨_, _, rfl⟩, by decide, by decide, by decide, rfl, _, rfl⟩

def wRaise : Raise := ⟨0x300, 128, 5, []⟩
def wEvt : State := { wS with evt := { wS.evt with raises := [wRaise], src := [(0x300, ⟨0, 0, false⟩)] } }

theorem witness_EventUnitCommandsComplete :
    (alive wEvt = true ∧ islandOk 128 = true ∧ takeFirst (fun r : Raise => r.island == 128) wEvt.evt.raises = some (wRaise, [])) ∧
    ((evSrc wEvt wRaise.event.toNat).acked = false) ∧
    (passes wS con ackGate = true ∧ (2047 : BitVec 16).toNat < 2048 ∧ (2047 : BitVec 16).toNat ≠ 0x3C2) ∧
    (passes wS con (routeGate (5 : EventId).toNat) = true ∧ (1 : BitVec 32) &&& routeRsv = 0) ∧
    ((membersOf wS 0).any (fun t => t.1 == (0 : BitVec 2).toNat) = true) := by decide

/-- The raise of island 128 has a mark request of that island before it; island 164 has lost its clock. -/
def wEvtHeld : State := { wEvt with clk := { wEvt.clk with unlocked := [164] } }
/-- A raise of island 128 comes 61 ns after one of island 129. -/
def wEvtYoung : State := { wEvt with evt := { wEvt.evt with raises := [⟨0x300, 129, 5, []⟩, { wRaise with time := 66 }] } }

theorem witness_EventUnitCommandsComplete_forms :
    (olderFirst wEvt wRaise = false ∧ olderFirst wEvtYoung { wRaise with time := 66 } = true ∧
      takeFirst (fun r : Raise => r.island == 128) wEvtYoung.evt.raises = some ({ wRaise with time := 66 }, [⟨0x300, 129, 5, []⟩])) ∧
    (wEvt.clk.unlocked.contains 164 = false ∧ markFirst wEvt 128 = false ∧ wEvtHeld.clk.unlocked.contains 164 = true ∧
      alive wEvtHeld = true ∧ takeFirst (fun r : Raise => r.island == 129) wEvt.evt.raises = none) ∧
    ((0x3C2 : BitVec 16).toNat < 2048 ∧ 2048 ≤ (2048 : BitVec 16).toNat) ∧
    ((0xFFFFFFFF : BitVec 32) &&& routeRsv ≠ 0 ∧ (membersOf wS 7).any (fun t => t.1 == (0 : BitVec 2).toNat) = false) := by decide

def wCross (b : Option Bench) (on : Bool) : State := { wS with obs := { wS.obs with cross := [⟨b, 3, 5⟩], sampling := on } }
def wSample : State := { wS with
  cache := { wS.cache with reqs := [{ formReq wS 7 (.memRd .i) (.host 0 0 5) .hostSocket 0 0x40 0x40 0 .ash none 0 0 0 false 0 0 with
    pool := some .shared, tracked := 500 }], nextReq := 8 }
  obs := { wS.obs with pend := [((benchOfDla 0x40).toNat, ⟨3, 0, 1⟩)] } }

theorem witness_CountersAndSamplingComplete :
    (alive wS = true ∧ counterOk none 15 = true ∧ counterOk (some 255) 7 = true ∧ passes wS con plainGate = true ∧
      selOk true (0 : BitVec 32).toNat = true ∧ selOk false (0x4000 : BitVec 32).toNat = true) ∧
    (takeFirst (fun c : Crossing => c.bench == none && c.n == 3) (wCross none false).obs.cross = some (⟨none, 3, 5⟩, []) ∧
      takeFirst (fun c : Crossing => c.bench == some 4 && c.n == 3) (wCross (some 4) false).obs.cross = some (⟨some 4, 3, 5⟩, []) ∧
      (wCross (some 4) false).obs.sampling = false ∧ (wCross (some 4) true).obs.sampling = true ∧
      (wCross (some 4) true).obs.pend.any (fun p => p.1 == (4 : Bench).toNat) = false ∧
      tget 0 (wCross (some 4) true).obs.sampLast (4 : Bench).toNat = 0) ∧
    (alive wSample = true ∧ wSample.obs.pend.find? (fun p => p.1 == (benchOfDla 0x40).toNat) = some ((benchOfDla 0x40).toNat, ⟨3, 0, 1⟩) ∧
      (reqOf wSample 7).any (fun r => atBench (benchOfDla 0x40) r && r.pool.isSome && since wSample r.tracked ≤ since wSample 0) = true ∧
      1000000 ≤ since { wSample with now := 2000000 } 0) ∧
    (10 ≤ (0x130 : BitVec 32).toNat % 256 ∧ (0x130 : BitVec 32).toNat % 256 ≤ 48 ∧ (0x130 : BitVec 32).toNat / 256 ≤ 1) := by decide +kernel

theorem witness_CountersAndSamplingComplete_forms :
    (selOk true (0xFFFFFFFF : BitVec 32).toNat = false ∧
      takeFirst (fun c : Crossing => c.bench == some 9 && c.n == 3) (wCross (some 4) true).obs.cross = none) ∧
    (∀ p ∈ [[(4, (⟨3, 0, 1⟩ : Sample))]], ({ (wCross (some 4) true).obs with pend := p }).pend.any (fun x => x.1 == (4 : Bench).toNat) = true) ∧
    (wSample.obs.pend.find? (fun p => p.1 == (benchOfDla 0x40).toNat) = some ((benchOfDla 0x40).toNat, ⟨3, 0, 1⟩) ∧
      reqOf wSample 9 = none ∧ since wSample 0 < 1000000 ∧ (1 : Nat) ≤ (⟨3, 0, 1⟩ : Sample).skid ∧ (⟨3, 0, 1⟩ : Sample).skid ≤ 33 ∧
      atBench 99 (formReq wS 7 (.memRd .i) (.host 0 0 5) .hostSocket 0 0x40 0x40 0 .ash none 0 0 0 false 0 0) = false) ∧
    (alive wS = true ∧ wS.obs.pend.find? (fun p => p.1 == (4 : Bench).toNat) = none) ∧
    ((9 : BitVec 32).toNat % 256 < 10 ∧ 48 < (49 : BitVec 32).toNat % 256 ∧ 1 < (0x210 : BitVec 32).toNat / 256) := by decide +kernel

/-- An observation of a record type, and Seam recording with filter 0 enabled for it. -/
def wObs : SeamObs := ⟨2, 128, 5, .ash, 0, 0, 0, []⟩
def wRecS : SeamRec := ⟨2, 0, 0, 5, List.replicate 16 1⟩
def wSeam (m : SeamS) : State := { wS with obs := { wS.obs with seam := m } }
def wSeamOn : SeamS := { SeamS.init with control := 1, ringOn := true, ringLog := 16, filters := [4, 0, 15, 0, 0, 0] ++ List.replicate 58 0 }
def wSeamRing (k : BitVec 2) : SeamS := { wSeamOn with buf := [wRecS], ringPart := k, exportSet := 1 }

theorem witness_SeamCommandsComplete :
    (alive (wSeam wSeamOn) = true ∧ wSeamOn.control = 1 ∧ wSeamOn.fuse = false ∧
      (wSeam wSeamOn).clk.unlocked.contains 166 = false ∧ wObs.type.toNat ≠ 0 ∧ wObs.type.toNat < 10) ∧
    ((filterAll wSeamOn wObs).2 = true ∧ (filterAll wSeamOn wObs).1.ringOn = true ∧
      bufBytes (filterAll wSeamOn wObs).1 + (seamLen wObs.type.toNat +
        (if (filterAll wSeamOn wObs).1.lostSince = 0 then 0 else 32)) ≤ 4194304 ∧
      (filterAll SeamS.init wObs).2 = false) ∧
    (passes (wSeam wSeamOn) con seamGate = true ∧ wSeamOn.ringPart = 0 ∧ (List.replicate 64 (0 : Byte)).length = 64 ∧
      (List.range 4).all (filterOk (List.replicate 64 0)) = true ∧ (3 : BitVec 32).toNat < 4 ∧
      exportOn wSeamOn = false ∧ exportOn (wSeamRing 0) = true) ∧
    (passes wS mail ringGate = true ∧ wS.obs.seam.ringOn = false ∧ 16 ≤ (30 : Byte).toNat ∧ (30 : Byte).toNat ≤ 30 ∧
      ([0, 0, 0, 0x40, 0, 0, 0, 0, 30, 1, 0, 0, 0, 0, 0, 0] : List Byte).length = 16 ∧
      leNat (([0, 0, 0, 0x40, 0, 0, 0, 0, 30, 1, 0, 0, 0, 0, 0, 0] : List Byte).take 8) % 2 ^ 30 = 0) ∧
    (frameRecs 4096 ((wSeamRing 0).buf.drop (wSeamRing 0).expNext) = [wRecS] ∧ (wSeamRing 0).exportNext = none) ∧
    (presented (wSeam (wSeamRing 2)) = true ∧ ringBusy (wSeam (wSeamRing 2)) = false ∧ ringRec (wSeamRing 2) = some (wRecS, false) ∧
      (wSeamRing 2).ringPart ≠ 0 ∧ (wSeamRing 2).ringPart ≠ 1) := by decide +kernel

/-- The ring runs elsewhere; an export change waits for the frame's end; the buffer's record does not fit before the ring's end. -/
def wRingElse : SeamS := { SeamS.init with ringOn := true, ringBase := 0x100000000, ringLog := 16 }
theorem witness_SeamCommandsComplete_forms :
    (SeamS.init.control ≠ 1 ∧ (wSeam wBlown.obs.seam).obs.seam.fuse = true ∧ ({ wObs with type := 0 }).type.toNat = 0 ∧
      10 ≤ ({ wObs with type := 12 }).type.toNat) ∧
    (passes (wSeam wSeamOn) con seamGate = true ∧ 3 ≤ (3 : Byte).toNat ∧
      (List.range 4).all (filterOk (List.replicate 64 0xFF)) = false ∧ (List.replicate 64 (0xFF : Byte)).length = 64 ∧
      ([] : List Byte).length ≠ 64 ∧ 4 ≤ (4 : BitVec 32).toNat) ∧
    (alive (wSeam wRingElse) = true ∧ passes (wSeam wRingElse) mail ringGate = true ∧ wRingElse.ringOn = true ∧
      BitVec.ofNat 64 0x40000000 ≠ wRingElse.ringBase) ∧
    (30 < (31 : Byte).toNat ∧ (15 : Byte).toNat < 16 ∧ ([] : List Byte).length ≠ 16) ∧
    (alive (wSeam (wSeamRing 0)) = true ∧ (wSeamRing 0).fuse = false ∧ exportOn (wSeamRing 0) = true ∧
      ({ wSeamRing 0 with exportNext := some 1 }).exportNext = some 1) ∧
    (presented (wSeam (wSeamRing 0)) = true ∧ ringBusy (wSeam (wSeamRing 0)) = false ∧ (wSeamRing 0).ringOn = true ∧
      ringRec (wSeamRing 0) = some (wRecS, false) ∧ (wSeamRing 0).ringPart = 0 ∧ (wSeamRing 1).ringPart = 1 ∧
      ringRec SeamS.init = none) := by decide +kernel

/-- The buffer of 4 MiB holds 131,072 records of 32 bytes: it is full. -/
def wFull : SeamS := { wSeamOn with buf := List.replicate 131072 wRecS }
theorem foldl_add_replicate (n k a : Nat) : (List.replicate n k).foldl (· + ·) a = a + n * k := by
  induction n generalizing a with
  | zero => simp
  | succ n ih => rw [List.replicate_succ, List.foldl_cons, ih, Nat.succ_mul]; omega
theorem full_bytes : bufBytes wFull = 4194304 := by
  show ((List.replicate 131072 wRecS).map recLen).foldl (· + ·) 0 = 4194304
  rw [List.map_replicate, foldl_add_replicate]; rfl
theorem witness_SeamCommandsComplete_drop :
    (filterAll wFull wObs).2 = true ∧ (filterAll wFull wObs).1.ringOn = true ∧
    4194304 < bufBytes (filterAll wFull wObs).1 + (seamLen wObs.type.toNat +
      (if (filterAll wFull wObs).1.lostSince = 0 then 0 else 32)) := by
  have hb : bufBytes (filterAll wFull wObs).1 = bufBytes wFull := rfl
  refine ⟨rfl, rfl, ?_⟩
  rw [hb, full_bytes]; decide
end Sys2Proof.Tests
end

section
/-!
The queue and device time after every command (O3): what each common form of a meaning keeps, and the form of each command.
-/

namespace Sys2Proof.Machine

/-- What a command answers from `s` has the queue of `s`, and no earlier device time unless it may restart time (R3, R361). -/
def KeepsQueueAndTime (restarts : Bool) (s : State) (o : Host.Outcome State Fault Refusal) : Prop :=
  ∀ t, o = .next t → t.pending = s.pending ∧ (restarts = false → s.now.toNat ≤ t.now.toNat)

theorem keepTime_pending (s t : State) : (keepTime s t).pending = s.pending := rfl

theorem le_keepTime_now (s t : State) : s.now.toNat ≤ (keepTime s t).now.toNat := by
  simp only [keepTime]
  split
  · exact Nat.le_refl _
  · exact Nat.le_of_not_lt ‹_›

theorem refused_keepsQueueAndTime (b : Bool) (s : State) (r : Refusal) : KeepsQueueAndTime b s (.refused r) := by
  intro t h
  cases h

theorem act_keepsQueueAndTime (b : Bool) (s : State) (f : State → State) : KeepsQueueAndTime b s (act s f) := by
  intro t h
  obtain ⟨-, rfl⟩ | ⟨-, rfl⟩ := act_cases s t f h
  · exact ⟨rfl, fun _ => Nat.le_refl _⟩
  · exact ⟨rfl, fun _ => Nat.le_refl _⟩

theorem actTime_keepsQueueAndTime (b : Bool) (s : State) (f : State → State) : KeepsQueueAndTime b s (actTime s f) := by
  intro t h
  obtain ⟨-, rfl⟩ | ⟨-, rfl⟩ := actTime_cases s t f h
  · exact ⟨keepTime_pending s (f s), fun _ => le_keepTime_now s (f s)⟩
  · exact ⟨rfl, fun _ => Nat.le_refl _⟩

theorem actIf_keepsQueueAndTime (b ok : Bool) (s : State) (f : State → State) : KeepsQueueAndTime b s (actIf ok s f) := by
  cases ok with
  | true => exact act_keepsQueueAndTime b s f
  | false => exact refused_keepsQueueAndTime b s .noSuchUnit

theorem actTimeIf_keepsQueueAndTime (b ok : Bool) (s : State) (f : State → State) :
    KeepsQueueAndTime b s (actTimeIf ok s f) := by
  cases ok with
  | true => exact actTime_keepsQueueAndTime b s f
  | false => exact refused_keepsQueueAndTime b s .noSuchUnit

/-- A reset keeps the queue, and device time may begin again (R361). -/
theorem next_pending_keepsQueue (s t : State) : KeepsQueueAndTime true s (.next { t with pending := s.pending }) := by
  rintro _ ⟨⟩
  exact ⟨rfl, nofun⟩

/-- Everything a meaning that may restart device time can answer. -/
theorem actReset_cases (s t : State) (f : State → State) (h : actReset s f = .next t) :
    (alive s = true ∧ t = { f s with pending := s.pending }) ∨ (alive s = false ∧ t = s) := by
  cases ha : alive s with
  | true => left; simp only [actReset, ha, if_true] at h; exact ⟨rfl, (Host.Outcome.next.inj h).symm⟩
  | false => right; simp only [actReset, ha] at h; exact ⟨rfl, (Host.Outcome.next.inj h).symm⟩

theorem actReset_keepsQueue (s : State) (f : State → State) : KeepsQueueAndTime true s (actReset s f) := by
  intro t h
  obtain ⟨-, rfl⟩ | ⟨-, rfl⟩ := actReset_cases s t f h
  · exact ⟨rfl, nofun⟩
  · exact ⟨rfl, nofun⟩

/-- The form of each command's meaning decides. Named are the resets and what may lead to one (R361), the commands that may step
device time forward (R349), and those that check that their operands name a unit; all the others take no time (R3). -/
theorem exec_keepsQueueAndTime (c : Instr) (s : State) : KeepsQueueAndTime (mayReset c) s (exec c s) := by
  cases c
  all_goals dsimp only [exec]
  case powerOnReset | powerDown => exact next_pending_keepsQueue s _
  case coldReset | warmReset | commitComplete | containmentWritebackComplete | writebackLimitExpiry | containmentHoldExpiry
      | write | registerWrite => exact actReset_keepsQueue s _
  case join | formationTimeout | linkTrainingComplete | memberLinkDown | correctableEvent | uncorrectableLinkError
      | retrainComplete | retrainTimeout | ideIntegrityFailure | linkDownCommand | configComplete =>
    exact actTime_keepsQueueAndTime _ s _
  case hello | lsa | syncreq | syncrsp | peerLinkDown | peerLinkDrained => exact actTimeIf_keepsQueueAndTime _ _ s _
  case wbufDrainTimeout | wbufDrainComplete | winGeometryWrite | maintParamWrite | helloRepeat | recon | reconciliationTimeout
      | peerReq | peerSnp | peerRsp | peerData | eventRaise | selectorWrite | samplingCrossing | railMonitor | pllLockLoss
      | sensorRead => exact actIf_keepsQueueAndTime _ _ s _
  all_goals exact act_keepsQueueAndTime _ s _

/-- Settles O3, by the form of each command's meaning. -/
theorem queueAndTimeAfterEveryStep : Obligations.QueueAndTimeAfterEveryStep := by
  unfold Obligations.QueueAndTimeAfterEveryStep
  intro c s t h
  exact exec_keepsQueueAndTime c s t h

end Sys2Proof.Machine
end

section
/-!
Which commands complete (O2): what each common form of a meaning answers, and the form of each command.
-/

namespace Sys2Proof.Machine

/-- The commands that act on a device without power or after a trip (R357, R380). -/
def actsWithoutPower : Instr → Bool
  | .powerOnReset _ | .powerDown => true
  | _ => false

/-- What a meaning may answer from `s`, where `ok` says that its operands name a unit of the part (R12, Table 0-3), and
`acts` that it acts on a device without power: it completes or is refused as `ok` says, and leaves a dead device as it is unless
it acts on one. -/
def CompletesIf (ok acts : Bool) (s : State) (o : Host.Outcome State Fault Refusal) : Prop :=
  (ok = true → ∃ t, o = .next t) ∧
  (ok = false → o = .refused .noSuchUnit) ∧
  (alive s = false → ok = true → acts = false → o = .next s)

/-- A meaning that always acts, also on a dead device. -/
theorem next_completesIf (s t : State) : CompletesIf true true s (.next t) :=
  ⟨fun _ => ⟨t, rfl⟩, nofun, nofun⟩

/-- A meaning that turns no operands away and acts only while the device runs. -/
theorem next_ite_alive_completesIf (acts : Bool) (s t : State) : CompletesIf true acts s (.next (if alive s then t else s)) :=
  ⟨fun _ => ⟨_, rfl⟩, nofun, fun hd _ _ => by rw [hd]; rfl⟩

theorem refused_completesIf (acts : Bool) (s : State) : CompletesIf false acts s (.refused .noSuchUnit) :=
  ⟨nofun, fun _ => rfl, nofun⟩

theorem act_completesIf (acts : Bool) (s : State) (f : State → State) : CompletesIf true acts s (act s f) :=
  next_ite_alive_completesIf acts s _

theorem actTime_completesIf (acts : Bool) (s : State) (f : State → State) : CompletesIf true acts s (actTime s f) :=
  next_ite_alive_completesIf acts s _

theorem actReset_completesIf (acts : Bool) (s : State) (f : State → State) : CompletesIf true acts s (actReset s f) :=
  next_ite_alive_completesIf acts s _

theorem actIf_completesIf (ok acts : Bool) (s : State) (f : State → State) : CompletesIf ok acts s (actIf ok s f) := by
  cases ok with
  | true => exact act_completesIf acts s f
  | false => exact refused_completesIf acts s

theorem actTimeIf_completesIf (ok acts : Bool) (s : State) (f : State → State) :
    CompletesIf ok acts s (actTimeIf ok s f) := by
  cases ok with
  | true => exact actTime_completesIf acts s f
  | false => exact refused_completesIf acts s

/-- The form of each command's meaning decides. Named are the two commands that act on a dead device (R357), those that check that
their operands name a unit, and of the others those that may restart device time (R361) or step it forward (R349). -/
theorem exec_completesIf (c : Instr) (s : State) : CompletesIf c.wellFormed (actsWithoutPower c) s (exec c s) := by
  cases c
  all_goals dsimp only [exec]
  case powerOnReset | powerDown => exact next_completesIf s _
  case hello | lsa | syncreq | syncrsp | peerLinkDown | peerLinkDrained => exact actTimeIf_completesIf _ _ s _
  case wbufDrainTimeout | wbufDrainComplete | winGeometryWrite | maintParamWrite | helloRepeat | recon | reconciliationTimeout
      | peerReq | peerSnp | peerRsp | peerData | eventRaise | selectorWrite | samplingCrossing | railMonitor | pllLockLoss
      | sensorRead => exact actIf_completesIf _ _ s _
  case coldReset | warmReset | commitComplete | containmentWritebackComplete | writebackLimitExpiry | containmentHoldExpiry
      | write | registerWrite => exact actReset_completesIf _ s _
  case join | formationTimeout | linkTrainingComplete | memberLinkDown | correctableEvent | uncorrectableLinkError
      | retrainComplete | retrainTimeout | ideIntegrityFailure | linkDownCommand | configComplete =>
    exact actTime_completesIf _ s _
  all_goals exact act_completesIf _ s _

theorem actsWithoutPower_eq_false (c : Instr) (hon : ∀ straps, c ≠ .powerOnReset straps) (hdown : c ≠ .powerDown) :
    actsWithoutPower c = false := by
  unfold actsWithoutPower
  split
  · exact absurd rfl (hon _)
  · exact absurd rfl hdown
  · rfl

/-- Settles O2, by the form of each command's meaning. -/
theorem wellFormedCommandsCompleteOthersAreRefused : Obligations.WellFormedCommandsCompleteOthersAreRefused := by
  unfold Obligations.WellFormedCommandsCompleteOthersAreRefused
  intro c s
  obtain ⟨hok, hbad, hdead⟩ := exec_completesIf c s
  exact ⟨hok, hbad, fun hd hw hon hdown => hdead hd hw (actsWithoutPower_eq_false c hon hdown)⟩

end Sys2Proof.Machine
end

section
/-!
What a command that acts on a running device answers, in the terms of the statements (R3).
-/

namespace Sys2Proof.Machine

theorem sameTime_self (s : State) : sameTime s s = s := rfl

/-- An action that keeps queue and device time by itself. -/
theorem sameTime_eq (s t : State) (hp : t.pending = s.pending) (hn : t.now = s.now) : sameTime s t = t := by
  simp only [sameTime, ← hp, ← hn]

theorem act_sameTime (s : State) (f : State → State) (ha : alive s = true) : act s f = .next (sameTime s (f s)) :=
  act_alive s f ha

theorem actIf_sameTime (ok : Bool) (s : State) (f : State → State) (ha : alive s = true) (hok : ok = true) :
    actIf ok s f = .next (sameTime s (f s)) := by
  rw [hok, actIf_true, act_sameTime s f ha]

end Sys2Proof.Machine
end

section
/-!
Messages on peer links (O49): what a request's arrival notes and leaves alone, the branches of its home's ingress, and the
sorting of each class of message by its destination (R326, R334 to R341).
-/

namespace Sys2Proof.Machine

-- ===== what an arriving request notes (R264, Table 9-7) =====

/-- A request of a peer that has arrived is counted, and its poison logged. -/
def reqNoted (s : State) (m : PeerReq) (island : Nat) : State :=
  if m.poison then notePoison (countRecv s m.src 0) 2 island m.sa else countRecv s m.src 0

/-- The equation that folds the first lines of the ingress (homeIngress). -/
theorem reqNoted_eq (s : State) (m : PeerReq) (island : Nat) : reqNoted s m island =
    if m.poison then notePoison (countRecv s m.src 0) 2 island m.sa else countRecv s m.src 0 := rfl

@[simp] theorem countRecv_dev (s : State) (d : DevId) (c : Nat) : (countRecv s d c).dev = s.dev := by rw [countRecv_frame]
@[simp] theorem countRecv_region (s : State) (d : DevId) (c : Nat) : (countRecv s d c).region = s.region := by rw [countRecv_frame]
@[simp] theorem countRecv_contract (s : State) (d : DevId) (c : Nat) : (countRecv s d c).contract = s.contract := by
  rw [countRecv_frame]
@[simp] theorem countRecv_now (s : State) (d : DevId) (c : Nat) : (countRecv s d c).now = s.now := by rw [countRecv_frame]
@[simp] theorem countRecv_pending (s : State) (d : DevId) (c : Nat) : (countRecv s d c).pending = s.pending := by
  rw [countRecv_frame]

@[simp] theorem logRec_contract (s : State) (r : LogRec) : (logRec s r).contract = s.contract := by
  obtain ⟨l, n, x, d, a, b, c, p, e, o, h⟩ := logRec_frame s r
  rw [h]

@[simp] theorem reqNoted_dev (s : State) (m : PeerReq) (island : Nat) : (reqNoted s m island).dev = s.dev := by
  unfold reqNoted
  split
  · simp only [notePoison, logRec_dev, countRecv_dev]
  · exact countRecv_dev s _ _

@[simp] theorem reqNoted_region (s : State) (m : PeerReq) (island : Nat) : (reqNoted s m island).region = s.region := by
  unfold reqNoted
  split
  · simp only [notePoison, logRec_region, countRecv_region]
  · exact countRecv_region s _ _

@[simp] theorem reqNoted_contract (s : State) (m : PeerReq) (island : Nat) : (reqNoted s m island).contract = s.contract := by
  unfold reqNoted
  split
  · simp only [notePoison, logRec_contract, countRecv_contract]
  · exact countRecv_contract s _ _

@[simp] theorem presented_reqNoted (s : State) (m : PeerReq) (island : Nat) :
    presented (reqNoted s m island) = presented s := by simp only [presented, reqNoted_dev]
@[simp] theorem devId_reqNoted (s : State) (m : PeerReq) (island : Nat) : devId (reqNoted s m island) = devId s := by
  simp only [devId, reqNoted_dev]
@[simp] theorem homeOf_reqNoted (s : State) (m : PeerReq) (island : Nat) (sa : SA) :
    homeOf (reqNoted s m island) sa = homeOf s sa := by simp only [homeOf, reqNoted_region]
@[simp] theorem windowAt_reqNoted (s : State) (m : PeerReq) (island : Nat) (dla : DLA) :
    windowAt (reqNoted s m island) dla = windowAt s dla := by simp only [windowAt, reqNoted_region]
@[simp] theorem winOf_reqNoted (s : State) (m : PeerReq) (island : Nat) (w : WinId) :
    winOf (reqNoted s m island) w = winOf s w := by simp only [winOf, reqNoted_region]
@[simp] theorem shareNames_reqNoted (s : State) (m q : PeerReq) (island : Nat) (w : WinId) :
    shareNames (reqNoted s m island) q w = shareNames s q w := by simp only [shareNames, shareOf, reqNoted_contract]

-- ===== a request at its home (R35, R273, R334) =====

/-- In containment it is answered at once. -/
theorem reqIn_contained (s : State) (m : PeerReq) (island : Nat) (h : s.dev.stage = .containment) :
    reqIn s m island = containReq (reqNoted s m island) m := by
  simp [reqIn, homeIngress, ← reqNoted_eq, h]

/-- Out of containment and MEMORY_ACTIVE it is refused. -/
theorem reqIn_absent (s : State) (m : PeerReq) (island : Nat) (hp : presented s = false) (h : s.dev.stage ≠ .containment) :
    reqIn s m island = peerRefuse (reqNoted s m island) m false 0xFF island := by
  simp [reqIn, homeIngress, ← reqNoted_eq, hp, h]

/-- The request of a peer that joins its home bench through window `w`, with the class its contract has here (R138, R140). -/
def peerJoining (s : State) (m : PeerReq) (island : Nat) (dla : DLA) (w : WinId) : Req :=
  let t := reqNoted s m island
  let c := if m.cls == .ash || !shareNames s m w then .ash else homeClass t w m.lcls m.cls
  { formReq t t.cache.nextReq m.op (.peer m.src m.tag) m.rqk m.hs m.sa dla w c
      (if m.cls == .ash then none else some (m.src, m.cidx)) (tinOf t m.tin) m.data m.be m.poison m.queue m.epoch with
    causeFault := m.via.isSome }

section MemoryActive
/-! In MEMORY_ACTIVE its home, its window and its rights decide, in the state that has noted it. -/

variable {s : State} {m : PeerReq} (island : Nat) (hst : s.dev.stage = .memoryActive)
include hst

theorem presented_of_memoryActive : presented s = true := by simp only [presented, hst, beq_self_eq_true]

theorem reqIn_noHome (hh : homeOf s m.sa = none) :
    reqIn s m island = peerRefuse (reqNoted s m island) m false 0xFF island := by
  simp [reqIn, homeIngress, ← reqNoted_eq, hst, presented_of_memoryActive hst, hh]

theorem reqIn_otherHome {d : DevId} {dla : DLA} (hh : homeOf s m.sa = some (d, dla)) (hd : d ≠ devId s) :
    reqIn s m island = peerRefuse (raise (reqNoted s m island) 0x184 164 []) m false 0xFF island := by
  simp [reqIn, homeIngress, ← reqNoted_eq, hst, presented_of_memoryActive hst, hh, hd]

theorem reqIn_noWindow {dla : DLA} (hh : homeOf s m.sa = some (devId s, dla)) (hw : windowAt s dla = none) :
    reqIn s m island = peerRefuse (reqNoted s m island) m false 0xFF island := by
  simp [reqIn, homeIngress, ← reqNoted_eq, hst, presented_of_memoryActive hst, hh, hw]

theorem reqIn_noRights {dla : DLA} {w : WinId} (hh : homeOf s m.sa = some (devId s, dla)) (hw : windowAt s dla = some w)
    (hr : rightsOk (winOf s w) m.rqk m.op = false) :
    reqIn s m island = peerRefuse (reqNoted s m island) m true w.toNat island := by
  simp [reqIn, homeIngress, ← reqNoted_eq, hst, presented_of_memoryActive hst, hh, hw, hr]

theorem reqIn_joins {dla : DLA} {w : WinId} (hh : homeOf s m.sa = some (devId s, dla)) (hw : windowAt s dla = some w)
    (hr : rightsOk (winOf s w) m.rqk m.op = true) :
    reqIn s m island = run (arrive (reqNoted s m island) (peerJoining s m island dla w)) := by
  simp [reqIn, homeIngress, ← reqNoted_eq, hst, presented_of_memoryActive hst, hh, hw, hr, peerJoining]

end MemoryActive

-- ===== a message by its link and its destination (R20, R326, R338) =====

theorem transit_via (s : State) (dst : DevId) (via : Option DevId) (p : PeerMsg) (dl : Option Time) (h : via = some (devId s)) :
    transit s dst via p dl = { s with peer := { s.peer with tx := s.peer.tx ++ [⟨dst, p, dl, s.now⟩] } } := by
  simp only [transit, h, beq_self_eq_true, if_true]

theorem transit_drop (s : State) (dst : DevId) (via : Option DevId) (p : PeerMsg) (dl : Option Time) (h : via ≠ some (devId s)) :
    transit s dst via p dl = s := by
  simp only [transit, beq_eq_false_iff_ne.mpr h, Bool.false_eq_true, if_false]

theorem snpIn_contained (s : State) (m : PeerSnp) (h : s.dev.stage = .containment) : snpIn s m = countRecv s m.src 1 := by
  simp only [snpIn, countRecv_dev, h, beq_self_eq_true, if_true]

theorem snpIn_arrives (s : State) (m : PeerSnp) (h : s.dev.stage ≠ .containment) :
    snpIn s m = snpArrive (countRecv s m.src 1) m := by
  simp only [snpIn, countRecv_dev, beq_eq_false_iff_ne.mpr h, Bool.false_eq_true, if_false]

section Link

variable {s : State} {l : PLink} (ha : alive s = true) (hl : plinkOk l = true)
include ha hl

theorem exec_peerReq (m : PeerReq) : exec (.peerReq l m) s = .next (sameTime s (doPeerReq s l.toNat m)) :=
  actIf_sameTime _ s _ ha hl
theorem exec_peerSnp (m : PeerSnp) : exec (.peerSnp l m) s = .next (sameTime s (doPeerSnp s l.toNat m)) :=
  actIf_sameTime _ s _ ha hl
theorem exec_peerRsp (m : PeerRsp) : exec (.peerRsp l m) s = .next (sameTime s (doPeerRsp s l.toNat m 2)) :=
  actIf_sameTime _ s _ ha hl
theorem exec_peerData (m : PeerRsp) : exec (.peerData l m) s = .next (sameTime s (doPeerRsp s l.toNat m 3)) :=
  actIf_sameTime _ s _ ha hl

end Link

/-- On a link that does not carry the domain's traffic, and from no member, nothing happens (R326). -/
theorem doPeerReq_stray (s : State) (l : Nat) (m : PeerReq) (h : carries s l m.src = false) : doPeerReq s l m = s := by
  simp only [doPeerReq, h, Bool.not_false, if_true]
theorem doPeerSnp_stray (s : State) (l : Nat) (m : PeerSnp) (h : carries s l m.src = false) : doPeerSnp s l m = s := by
  simp only [doPeerSnp, h, Bool.not_false, if_true]
theorem doPeerRsp_stray (s : State) (l : Nat) (m : PeerRsp) (k : Nat) (h : carries s l m.src = false) :
    doPeerRsp s l m k = s := by
  simp only [doPeerRsp, h, Bool.not_false, if_true]

section Carried

variable {s : State} {l : Nat}

theorem doPeerReq_unknown {m : PeerReq} (hc : carries s l m.src = true) (hop : m.op = .memInv .s) :
    doPeerReq s l m = unknownOp s := by
  simp only [doPeerReq, hc, hop, Bool.not_true, Bool.false_eq_true, if_false, beq_self_eq_true, if_true]

theorem doPeerReq_own {m : PeerReq} (hc : carries s l m.src = true) (hop : m.op ≠ .memInv .s) (hd : m.dst = devId s) :
    doPeerReq s l m = reqIn s m (portOfPl s l) := by
  simp only [doPeerReq, hc, beq_eq_false_iff_ne.mpr hop, hd, Bool.not_true, Bool.false_eq_true, if_false, if_true]

theorem doPeerReq_pass {m : PeerReq} (hc : carries s l m.src = true) (hop : m.op ≠ .memInv .s) (hd : m.dst ≠ devId s) :
    doPeerReq s l m = transit s m.dst m.via (.req m) (deadlineOf m.cls true (tinOf s m.tin)) := by
  simp only [doPeerReq, hc, beq_eq_false_iff_ne.mpr hop, hd, Bool.not_true, Bool.false_eq_true, if_false]

theorem doPeerSnp_own {m : PeerSnp} (hc : carries s l m.src = true) (hd : m.dst = devId s) : doPeerSnp s l m = snpIn s m := by
  simp only [doPeerSnp, hc, hd, Bool.not_true, Bool.false_eq_true, if_false, if_true]

theorem doPeerSnp_pass {m : PeerSnp} (hc : carries s l m.src = true) (hd : m.dst ≠ devId s) :
    doPeerSnp s l m = transit s m.dst m.via (.snp m) none := by
  simp only [doPeerSnp, hc, hd, Bool.not_true, Bool.false_eq_true, if_false]

theorem doPeerRsp_unknown {m : PeerRsp} {k : Nat} (hc : carries s l m.src = true) (hk : rspClass m.op ≠ k) :
    doPeerRsp s l m k = unknownOp s := by
  simp only [doPeerRsp, hc, hk, Bool.not_true, Bool.false_eq_true, if_false, ne_eq, not_false_eq_true, if_true]

theorem doPeerRsp_own {m : PeerRsp} {k : Nat} (hc : carries s l m.src = true) (hk : rspClass m.op = k) (hd : m.dst = devId s) :
    doPeerRsp s l m k = rspIn s m (portOfPl s l) := by
  simp only [doPeerRsp, hc, hk, hd, Bool.not_true, Bool.false_eq_true, if_false, ne_eq, not_true_eq_false, if_true]

theorem doPeerRsp_pass {m : PeerRsp} {k : Nat} (hc : carries s l m.src = true) (hk : rspClass m.op = k) (hd : m.dst ≠ devId s) :
    doPeerRsp s l m k = transit s m.dst m.via (.rsp m) (deadlineDsl s m.dsl) := by
  simp only [doPeerRsp, hc, hk, hd, Bool.not_true, Bool.false_eq_true, if_false, ne_eq, not_true_eq_false]

end Carried

-- ===== salvage (R341) =====

/-- A salvaged message acts on the state that has counted it. -/
theorem exec_salvage (u : State) (src : DevId) (w : SalvageMsg) (ha : alive (ctlIn u src) = true) :
    exec (.salvage src w) u = .next (sameTime (ctlIn u src) (doSalvage (ctlIn u src) src w)) := by
  have hu : alive u = true := by rwa [ctlIn_alive] at ha
  have ht : ∀ t, sameTime u t = sameTime (ctlIn u src) t := fun t => by simp only [sameTime, ctlIn_pending, ctlIn_now]
  rw [← ht]
  exact act_sameTime u (fun s => doSalvage (ctlIn s src) src w) hu

/-- The message of no other member is dropped. -/
theorem doSalvage_stray (s : State) (src : DevId) (w : SalvageMsg)
    (h : s.peer.members.getLsbD src.toNat = false ∨ src = devId s) : doSalvage s src w = s := by
  rcases h with h | h
  · simp only [doSalvage, h, Bool.not_false, Bool.true_or, if_true]
  · simp only [doSalvage, h, beq_self_eq_true, Bool.or_true, if_true]

section Member

variable {s : State} {src : DevId} (hm : s.peer.members.getLsbD src.toNat = true) (hs : src ≠ devId s)
include hm hs

theorem doSalvage_req (m : PeerReq) : doSalvage s src (.req m) = if m.dst = devId s then reqIn s m 164 else s := by
  simp only [doSalvage, hm, beq_eq_false_iff_ne.mpr hs, Bool.not_true, Bool.or_self, Bool.false_eq_true, if_false]
theorem doSalvage_snp (m : PeerSnp) : doSalvage s src (.snp m) = if m.dst = devId s then snpIn s m else s := by
  simp only [doSalvage, hm, beq_eq_false_iff_ne.mpr hs, Bool.not_true, Bool.or_self, Bool.false_eq_true, if_false]
theorem doSalvage_rsp (m : PeerRsp) : doSalvage s src (.rsp m) = if m.dst = devId s then rspIn s m 164 else s := by
  simp only [doSalvage, hm, beq_eq_false_iff_ne.mpr hs, Bool.not_true, Bool.or_self, Bool.false_eq_true, if_false]

end Member

/-- Settles O49, by the branches of each class's ingress. -/
theorem peerMessagesComplete : Obligations.PeerMessagesComplete := by
  unfold Obligations.PeerMessagesComplete
  refine ⟨?requests, ?home, ?snoops, ?responses, ?strays, ?salvage⟩
  case requests =>
    intro s l m ha hl hc
    rw [exec_peerReq ha hl]
    refine ⟨fun hop hd => ?_, fun hop hd hv => ?_, fun hop hd hv => ?_, fun hop => ?_⟩
    · rw [doPeerReq_own hc hop hd]
    · rw [doPeerReq_pass hc hop hd, transit_via _ _ _ _ _ hv]; rfl
    · rw [doPeerReq_pass hc hop hd, transit_drop _ _ _ _ _ hv, sameTime_self]
    · rw [doPeerReq_unknown hc hop]
  case home =>
    rintro s t m island rfl
    refine ⟨reqIn_contained s m island, reqIn_absent s m island, fun hst => ⟨reqIn_noHome island hst,
      fun d dla hh hd => reqIn_otherHome island hst hh hd, fun dla hh => ⟨reqIn_noWindow island hst hh,
      fun w hw hr => reqIn_noRights island hst hh hw hr, ?_⟩⟩⟩
    rintro w c hw hr rfl
    exact reqIn_joins island hst hh hw hr
  case snoops =>
    intro s l m ha hl hc
    rw [exec_peerSnp ha hl]
    refine ⟨fun hd hst => ?_, fun hd hst => ?_, fun hd hv => ?_, fun hd hv => ?_⟩
    · rw [doPeerSnp_own hc hd, snpIn_arrives s m hst]
    · rw [doPeerSnp_own hc hd, snpIn_contained s m hst,
        sameTime_eq s _ (countRecv_pending s _ _) (countRecv_now s _ _)]
    · rw [doPeerSnp_pass hc hd, transit_via _ _ _ _ _ hv]; rfl
    · rw [doPeerSnp_pass hc hd, transit_drop _ _ _ _ _ hv, sameTime_self]
  case responses =>
    intro s l m i k ha hl hc hi
    have he : exec i s = .next (sameTime s (doPeerRsp s l.toNat m k)) := by
      obtain ⟨rfl, rfl⟩ | ⟨rfl, rfl⟩ := hi
      · exact exec_peerRsp ha hl m
      · exact exec_peerData ha hl m
    rw [he]
    refine ⟨fun hk hd => ?_, fun hk hd hv => ?_, fun hk hd hv => ?_, fun hk => ?_⟩
    · rw [doPeerRsp_own hc hk hd]
    · rw [doPeerRsp_pass hc hk hd, transit_via _ _ _ _ _ hv]; rfl
    · rw [doPeerRsp_pass hc hk hd, transit_drop _ _ _ _ _ hv, sameTime_self]
    · rw [doPeerRsp_unknown hc hk]
  case strays =>
    intro s l q n m ha hl
    refine ⟨fun h => ?_, fun h => ?_, fun h => ⟨?_, ?_⟩⟩
    · rw [exec_peerReq ha hl, doPeerReq_stray s _ q h, sameTime_self]
    · rw [exec_peerSnp ha hl, doPeerSnp_stray s _ n h, sameTime_self]
    · rw [exec_peerRsp ha hl, doPeerRsp_stray s _ m 2 h, sameTime_self]
    · rw [exec_peerData ha hl, doPeerRsp_stray s _ m 3 h, sameTime_self]
  case salvage =>
    rintro u s src rfl ha
    refine ⟨fun hm hs => ⟨fun m => ?_, fun m => ?_, fun m => ?_⟩, fun h w => ?_⟩
    · rw [exec_salvage u src _ ha, doSalvage_req hm hs]
      exact ⟨fun hd => by rw [if_pos hd], fun hd => by rw [if_neg hd, sameTime_self]⟩
    · rw [exec_salvage u src _ ha, doSalvage_snp hm hs]
      exact ⟨fun hd => by rw [if_pos hd], fun hd => by rw [if_neg hd, sameTime_self]⟩
    · rw [exec_salvage u src _ ha, doSalvage_rsp hm hs]
      exact ⟨fun hd => by rw [if_pos hd], fun hd => by rw [if_neg hd, sameTime_self]⟩
    · rw [exec_salvage u src _ ha, doSalvage_stray _ src w h, sameTime_self]

end Sys2Proof.Machine
end

section
/-!
The event unit (O58): which raise is taken and what taking it leaves, and what acknowledgement, routing and unmasking do
(R451 to R459).
-/

namespace Sys2Proof.Machine

-- ===== a raise reaches the event unit (R19, R373, R456) =====

theorem doRaise_waits (s : State) (i : Byte) (h : takeFirst (fun r : Raise => r.island == i) s.evt.raises = none ∨
    s.clk.unlocked.contains 164 = true ∨ markFirst s i = true) : doRaise s i = s := by
  unfold doRaise
  split
  · rfl
  · rename_i hfree
    obtain h | h | h := h
    · rw [h]
    · simp only [h, Bool.true_or, not_true_eq_false] at hfree
    · simp only [h, Bool.or_true, not_true_eq_false] at hfree

section FirstRaise

variable {s : State} {i : Byte} {r : Raise} {rest : List Raise}
  (hr : takeFirst (fun r : Raise => r.island == i) s.evt.raises = some (r, rest))
  (hclk : s.clk.unlocked.contains 164 = false) (hmark : markFirst s i = false)
include hr hclk hmark

theorem doRaise_younger (ho : olderFirst s r = true) : doRaise s i = s := by
  simp only [doRaise, hr, hclk, hmark, ho, Bool.or_self, Bool.false_eq_true, if_false, if_true]

theorem doRaise_takes (ho : olderFirst s r = false) : doRaise s i = takeRaise (raiseIn s i rest) r := by
  simp only [doRaise, hr, hclk, hmark, ho, Bool.or_self, Bool.false_eq_true, if_false]

end FirstRaise

/-- The state that has counted and recorded a raise (R451, R454). -/
def raiseNoted (s : State) (r : Raise) : State :=
  countDev { s with evt := { s.evt with
    src := tput EvSrc.init s.evt.src r.event.toNat ⟨(evSrc s r.event.toNat).count + 1, r.time, false⟩
    ring := ⟨s.evt.nextSeq, r, (evSrc s r.event.toNat).count + 1, timeFree s⟩ :: s.evt.ring.take 1023
    nextSeq := s.evt.nextSeq + 1 } } 0x10E 0

/-- A source that was not acknowledged signals nothing (R453). -/
theorem takeRaise_silent (s : State) (r : Raise) (h : (evSrc s r.event.toNat).acked = false) :
    takeRaise s r = raiseNoted s r := by
  simp only [takeRaise, h, Bool.false_eq_true, if_false, raiseNoted]

-- ===== acknowledgement (R452) =====

/-- The number of the event that a write of EVT_ACK or of its object names: the register has only an EVENT field of 11 bits. -/
def ackEvent (acc : Accessor) (e : BitVec 16) : Nat := if acc.transport == .bar0 then e.toNat % 2048 else e.toNat

/-- Event `n` acknowledged. -/
def ackSrc (s : State) (n : Nat) : State :=
  { s with evt := { s.evt with src := tmod EvSrc.init s.evt.src n (fun v => { v with acked := true }) } }

theorem ackOp_range (s : State) (n : Nat) (h : 2048 ≤ n) : ackOp s n = (s, .range, 0) := by
  simp only [ackOp, h, if_true]

theorem ackOp_event (s : State) (n : Nat) (h : n < 2048) (hd : n ≠ 0x3C2) : ackOp s n = (ackSrc s n, .ok, 0) := by
  simp only [ackOp, Nat.not_le.mpr h, hd, if_false, ackSrc]

/-- E-0x3C2 tells that a transport dropped frames: its acknowledgement is that of the transports too (R452). -/
theorem ackOp_discards (s : State) (n : Nat) (h : n = 0x3C2) :
    ackOp s n = ({ ackSrc s n with hen := { s.hen with discards := [] } }, .ok, 0) := by
  subst h
  rfl

theorem exec_eventAcknowledge (s : State) (acc : Accessor) (e : BitVec 16) (ha : alive s = true)
    (hp : passes s acc ackGate = true) {t : State} {d : DStatus}
    (hop : ackOp (entered s acc) (ackEvent acc e) = (t, d, 0)) :
    exec (.eventAcknowledge acc e) s = .next (sameTime s (replied acc d 0 t)) := by
  have hf : ackFront s acc e.toNat = replied acc d 0 t := by
    rw [ackFront, front_passes s acc ackGate noNote _ hp, ← ackEvent, hop, noNote]
  rw [← hf]
  exact act_sameTime s (fun s => ackFront s acc e.toNat) ha

-- ===== routing (R458, R464) =====

/-- The value that a write of a routing entry presents: BAR0 leaves the reserved bits out. -/
def routeValue (acc : Accessor) (value : BitVec 32) : BitVec 32 :=
  if acc.transport == .bar0 then value &&& ~~~routeRsv else value

theorem routeOp_legal (s : State) (e : Nat) (v : BitVec 32) (h : v &&& routeRsv = 0) :
    routeOp s e v.toNat = ({ s with evt := { s.evt with route := tput 0 s.evt.route e v } }, .ok, 0) := by
  have hlt : ¬ 2 ^ 32 ≤ v.toNat := Nat.not_le.mpr v.isLt
  simp only [routeOp, BitVec.ofNat_toNat, BitVec.setWidth_eq, h, hlt, decide_false, bne_self_eq_false, Bool.or_self,
    Bool.false_eq_true, if_false]

theorem routeOp_reserved (s : State) (e : Nat) (v : BitVec 32) (h : v &&& routeRsv ≠ 0) :
    routeOp s e v.toNat = (s, .range, 0) := by
  simp only [routeOp, BitVec.ofNat_toNat, BitVec.setWidth_eq, bne_iff_ne.mpr h, Bool.or_true, if_true]

theorem exec_routingEntryWrite (s : State) (acc : Accessor) (e : EventId) (value : BitVec 32) (ha : alive s = true)
    (hp : passes s acc (routeGate e.toNat) = true) {t : State} {d : DStatus}
    (hop : routeOp (entered s acc) e.toNat (routeValue acc value).toNat = (t, d, 0)) :
    exec (.routingEntryWrite acc e value) s = .next (sameTime s (replied acc d 0 t)) := by
  have hf : routeFront s acc e.toNat value = replied acc d 0 t := by
    rw [routeFront, front_passes s acc _ noNote _ hp, ← routeValue, hop, noNote]
  rw [← hf]
  exact act_sameTime s (fun s => routeFront s acc e.toNat value) ha

-- ===== unmasking (R459) =====

theorem doUnmask_member (s : State) (l : HLink) (m : BitVec 2) (n : Nat)
    (h : (membersOf s l).any (fun t => t.1 == m.toNat) = true) :
    doUnmask s l m n = msixFlush (setFn s l m { fnOf s l m with
      msixOpen := (fnOf s l m).msixOpen.filter (· != n) ++ [n] }) l m := by
  simp only [doUnmask, h, if_true, maskEntry, Bool.false_eq_true, if_false]

theorem doUnmask_other (s : State) (l : HLink) (m : BitVec 2) (n : Nat)
    (h : (membersOf s l).any (fun t => t.1 == m.toNat) = false) : doUnmask s l m n = s := by
  simp only [doUnmask, h, Bool.false_eq_true, if_false]

/-- Settles O58, by what each command of the event unit does in each of its cases. -/
theorem eventUnitCommandsComplete : Obligations.EventUnitCommandsComplete := by
  unfold Obligations.EventUnitCommandsComplete
  refine ⟨?raises, ?taking, ?acknowledgement, ?routing, ?unmasking⟩
  case raises =>
    intro s i ha hi
    have he : exec (.eventRaise i) s = .next (sameTime s (doRaise s i)) := actIf_sameTime _ s (fun s => doRaise s i) ha hi
    rw [he]
    refine ⟨fun r rest hr hclk hmark => ⟨fun ho => ?_, fun ho => ?_⟩, fun h => ?_⟩
    · rw [doRaise_younger hr hclk hmark ho, sameTime_self]
    · rw [doRaise_takes hr hclk hmark ho]
    · rw [doRaise_waits s i h, sameTime_self]
  case taking =>
    intro s r h
    refine ⟨_, rfl, ?_⟩
    rw [takeRaise_silent s r h, raiseNoted]
    simp only [countDev_evt, countDev_out, countDev_hen, countDev_port, and_self]
  case acknowledgement =>
    rintro s t acc e n ha hp rfl rfl
    refine ⟨fun hn hd => ?_, fun hn => ?_, fun hn => ?_⟩
    · exact exec_eventAcknowledge s acc e ha hp ((ackOp_event _ _ hn hd).trans (by rw [ackSrc, entered_evt]))
    · exact exec_eventAcknowledge s acc e ha hp ((ackOp_discards _ _ hn).trans (by rw [ackSrc, entered_evt]))
    · exact exec_eventAcknowledge s acc e ha hp (ackOp_range _ _ hn)
  case routing =>
    rintro s acc e value v ha hp rfl
    refine ⟨fun h => ?_, fun h => ?_⟩
    · exact exec_routingEntryWrite s acc e value ha hp ((routeOp_legal _ _ _ h).trans (by rw [entered_evt]))
    · exact exec_routingEntryWrite s acc e value ha hp (routeOp_reserved _ _ _ h)
  case unmasking =>
    intro s l m v ha
    have he : exec (.msixUnmask l m v) s = .next (sameTime s (doUnmask s l m v.toNat)) :=
      act_sameTime s (fun s => doUnmask s l m v.toNat) ha
    rw [he]
    refine ⟨fun h => ?_, fun h => ?_⟩
    · rw [doUnmask_member s l m _ h]
    · rw [doUnmask_other s l m _ h, sameTime_self]

end Sys2Proof.Machine
end

section
/-!
The home map (O8, O9): the range that holds a granule, and R103 as its inverse under the conditions of R31 (R30, R31, R103).
-/

namespace Sys2Proof.Machine

-- ===== the range that holds a granule (R30) =====

/-- A range with ways holds granule `g`. -/
def holdsGranule (h : HomeRange) (g : Nat) : Bool := h.ways ≠ 0 ∧ h.base.toNat ≤ g ∧ g ≤ h.limit.toNat

/-- The device at which a range places granule `g`, and the granule there. -/
def homePlace (h : HomeRange) (g : Nat) : DevId × Nat :=
  (devSlot h.devlist ((g - h.base.toNat) % h.ways.toNat), h.lbase.toNat + (g - h.base.toNat) / h.ways.toNat)

theorem holdsGranule_iff (h : HomeRange) (g : Nat) :
    holdsGranule h g = true ↔ h.ways ≠ 0 ∧ h.base.toNat ≤ g ∧ g ≤ h.limit.toNat := by
  simp only [holdsGranule, decide_eq_true_eq]

theorem holdsGranule_eq_false (h : HomeRange) (g : Nat) (hn : h.ways = 0 ∨ g < h.base.toNat ∨ h.limit.toNat < g) :
    holdsGranule h g = false := by
  rw [Bool.eq_false_iff, ne_eq, holdsGranule_iff]
  rintro ⟨hw, hb, hl⟩
  obtain h0 | h0 | h0 := hn
  · exact hw h0
  · exact Nat.not_le.mpr h0 hb
  · exact Nat.not_le.mpr h0 hl

/-- The first range that holds the granule places it. -/
theorem homeIn_eq_find (hr : Tab HomeRange) (g : Nat) (l : List Nat) : homeIn hr g l =
    (l.find? (fun r => holdsGranule (tget HomeRange.init hr r) g)).map (fun r => homePlace (tget HomeRange.init hr r) g) := by
  induction l with
  | nil => rfl
  | cons r t ih =>
    simp only [homeIn, List.find?_cons, ← holdsGranule_iff]
    cases holdsGranule (tget HomeRange.init hr r) g with
    | true => rfl
    | false => simpa only [Bool.false_eq_true, if_false] using ih

/-- The home of `sa` when its granule has place `p`: the device, and the granule there with the offset of `sa`. -/
def dlaAt (sa : SA) (p : DevId × Nat) : DevId × DLA := (p.1, BitVec.ofNat 45 (p.2 * 2 ^ 30 + sa.toNat % 2 ^ 30))

theorem homeOf_eq_find (s : State) (sa : SA) : homeOf s sa =
    ((List.range 8).find? (fun r => holdsGranule (homeRange s r) (sa.toNat / 2 ^ 30))).map
      (fun r => dlaAt sa (homePlace (homeRange s r) (sa.toNat / 2 ^ 30))) := by
  unfold homeOf
  rw [homeIn_eq_find, Option.map_map]
  rfl

/-- Settles O8, by the first of the eight ranges that holds the granule. -/
theorem homeOfAnAddress : Obligations.HomeOfAnAddress := by
  unfold Obligations.HomeOfAnAddress
  refine ⟨?held, ?unmapped, fun s t sa h => by simp only [homeOf, h]⟩
  case held =>
    rintro s sa r g i h hr rfl rfl hw hb hl rfl hbefore
    have hfind : (List.range 8).find? (fun r => holdsGranule (homeRange s r) (sa.toNat / 2 ^ 30)) = some r :=
      List.find?_range_eq_some.mpr ⟨(holdsGranule_iff _ _).mpr ⟨hw, hb, hl⟩, List.mem_range.mpr hr, fun q hq => by
        rw [Bool.not_eq_true']; exact holdsGranule_eq_false _ _ (hbefore q hq)⟩
    rw [homeOf_eq_find, hfind]
    rfl
  case unmapped =>
    rintro s sa g rfl hnone
    have hfind : (List.range 8).find? (fun r => holdsGranule (homeRange s r) (sa.toNat / 2 ^ 30)) = none :=
      List.find?_range_eq_none.mpr fun q hq => by rw [Bool.not_eq_true']; exact holdsGranule_eq_false _ _ (hnone q hq)
    rw [homeOf_eq_find, hfind]
    rfl

-- ===== R103 over the ranges =====

/-- The slot of device `d` in a range: the first of its ways. -/
def slotOf (h : HomeRange) (d : DevId) : Option Nat := (List.range h.ways.toNat).find? (fun k => devSlot h.devlist k == d)

/-- How many granules each device of a range receives. -/
abbrev shareOfRange (h : HomeRange) : Nat := (h.limit.toNat + 1 - h.base.toNat) / h.ways.toNat

/-- The granule of a range that device `d` holds at its granule `dg`. -/
def granuleBack (h : HomeRange) (d : DevId) (dg : Nat) : Option Nat :=
  (slotOf h d).bind (fun k => if h.lbase.toNat ≤ dg ∧ dg < h.lbase.toNat + shareOfRange h then
    some (h.base.toNat + (dg - h.lbase.toNat) * h.ways.toNat + k) else none)

theorem saIn_eq_findSome (hr : Tab HomeRange) (d : DevId) (dg : Nat) (l : List Nat) :
    saIn hr d dg l = l.findSome? (fun r => granuleBack (tget HomeRange.init hr r) d dg) := by
  induction l with
  | nil => rfl
  | cons r t ih =>
    rw [List.findSome?_cons, ← ih]
    simp only [saIn, granuleBack, slotOf]
    cases (List.range (tget HomeRange.init hr r).ways.toNat).find? _ with
    | none => rfl
    | some k =>
      dsimp only [Option.bind_some]
      split <;> rfl

/-- A range that gives a granule back has ways, has the device among its slots, and gives it the granule `dg`. -/
theorem granuleBack_some {h : HomeRange} {d : DevId} {dg g : Nat} (hg : granuleBack h d dg = some g) :
    h.ways ≠ 0 ∧ d ∈ usedSlots h ∧ h.lbase.toNat ≤ dg ∧ dg < h.lbase.toNat + shareOfRange h := by
  obtain ⟨k, hk, hif⟩ := Option.bind_eq_some_iff.mp hg
  obtain ⟨hdev, hmem, -⟩ := List.find?_range_eq_some.mp hk
  refine ⟨?_, List.mem_map.mpr ⟨k, hmem, beq_iff_eq.mp hdev⟩, ?_⟩
  · intro h0
    rw [h0] at hmem
    exact Nat.not_lt_zero k (List.mem_range.mp hmem)
  · refine Decidable.byContradiction fun hn => ?_
    rw [if_neg hn] at hif
    exact absurd hif nofun

-- ===== the conditions of R31 =====

theorem allApart_iff_pairwise (l : List (Nat × Nat)) : allApart l = true ↔ l.Pairwise (fun a b => apart a b = true) := by
  induction l with
  | nil => exact ⟨fun _ => .nil, fun _ => rfl⟩
  | cons a l ih => simp only [allApart, Bool.and_eq_true, List.all_eq_true, ih, List.pairwise_cons]

theorem apart_iff (a b : Nat × Nat) : apart a b = true ↔ a.1 + a.2 ≤ b.1 ∨ b.1 + b.2 ≤ a.1 := by
  simp only [apart, Bool.or_eq_true, decide_eq_true_eq]

theorem length_eraseDups_le {α : Type} [BEq α] (l : List α) : l.eraseDups.length ≤ l.length := by
  induction hn : l.length using Nat.strongRecOn generalizing l with
  | _ n ih =>
    cases l with
    | nil => exact Nat.zero_le n
    | cons a l =>
      have hlen := List.length_filter_le (fun b => !b == a) l
      rw [List.length_cons] at hn
      rw [List.eraseDups_cons, List.length_cons]
      have hrest := ih _ (by omega) (l.filter (fun b => !b == a)) rfl
      omega

theorem nodup_of_length_eraseDups {α : Type} [BEq α] [LawfulBEq α] (l : List α) (h : l.eraseDups.length = l.length) :
    l.Nodup := by
  induction l with
  | nil => exact .nil
  | cons a l ih =>
    rw [List.eraseDups_cons, List.length_cons, List.length_cons] at h
    have hle := length_eraseDups_le (l.filter (fun b => !b == a))
    have hlen := List.length_filter_le (fun b => !b == a) l
    have hself : l.filter (fun b => !b == a) = l := List.filter_eq_self.mpr (List.length_filter_eq_length_iff.mp (by omega))
    have hnot : a ∉ l := fun hm => by simpa using List.filter_eq_self.mp hself a hm
    rw [hself] at h
    exact List.nodup_cons.mpr ⟨hnot, ih (by omega)⟩

/-- Two different members of a list whose members are related pairwise are related, in one order or the other. -/
theorem pairwise_mem {α : Type} {R : α → α → Prop} {l : List α} (h : l.Pairwise R) {a b : α} (ha : a ∈ l) (hb : b ∈ l)
    (hne : a ≠ b) : R a b ∨ R b a := by
  induction h with
  | nil => exact absurd ha List.not_mem_nil
  | cons hx _ ih =>
    obtain rfl | hal := List.mem_cons.mp ha
    · exact .inl (hx b ((List.mem_cons.mp hb).resolve_left hne.symm))
    · obtain rfl | hbl := List.mem_cons.mp hb
      · exact .inr (hx a hal)
      · exact ih hal hbl

/-- What one range of a valid home map meets. -/
theorem rangeValid_spec {s : State} {h : HomeRange} (hv : rangeValid s h = true) :
    h.base.toNat ≤ h.limit.toNat ∧ (h.limit.toNat - h.base.toNat + 1) % h.ways.toNat = 0 ∧ (usedSlots h).Nodup := by
  simp only [rangeValid, Bool.and_eq_true, decide_eq_true_eq, beq_iff_eq] at hv
  obtain ⟨⟨⟨⟨⟨hle, hmod⟩, hdup⟩, -⟩, -⟩, -⟩ := hv
  exact ⟨hle, hmod, nodup_of_length_eraseDups _ hdup⟩

theorem mem_homeOn (s : State) (r : Nat) : r ∈ homeOn s ↔ r < 8 ∧ (homeRange s r).ways ≠ 0 := by
  simp only [homeOn, List.mem_filter, List.mem_range, bne_iff_ne, ne_eq]

/-- The ranges that give device `d` granules. -/
def receiving (s : State) (d : DevId) : List Nat := (homeOn s).filter (fun r => (usedSlots (homeRange s r)).contains d)

/-- The granules of a device that a range fills: the first and how many. -/
def localSpan (h : HomeRange) : Nat × Nat := (h.lbase.toNat, (h.limit.toNat - h.base.toNat + 1) / h.ways.toNat)

theorem localSpans_eq (s : State) (d : DevId) : localSpans s d = (receiving s d).map (fun r => localSpan (homeRange s r)) := rfl

section Valid

variable {s : State} (hv : homeMapValid s = true)
include hv

theorem rangeValid_of_homeMapValid {r : Nat} (hr : r ∈ homeOn s) : rangeValid s (homeRange s r) = true := by
  simp only [homeMapValid, Bool.and_eq_true, List.all_eq_true] at hv
  exact hv.1.1 r hr

theorem localSpans_of_homeMapValid (d : DevId) :
    allApart (localSpans s d) = true ∧ ∀ p ∈ localSpans s d, p.1 + p.2 ≤ 32768 := by
  simp only [homeMapValid, Bool.and_eq_true, List.all_eq_true, decide_eq_true_eq] at hv
  simpa using hv.2 d.toNat (List.mem_range.mpr d.isLt)

/-- Two ranges fill no granule of a device twice (condition 4 of R31). -/
theorem receiving_unique {d : DevId} {q r dg : Nat} (hq : q ∈ receiving s d) (hr : r ∈ receiving s d)
    (hql : (localSpan (homeRange s q)).1 ≤ dg) (hqu : dg < (localSpan (homeRange s q)).1 + (localSpan (homeRange s q)).2)
    (hrl : (localSpan (homeRange s r)).1 ≤ dg) (hru : dg < (localSpan (homeRange s r)).1 + (localSpan (homeRange s r)).2) :
    q = r := by
  have hpair := (allApart_iff_pairwise _).mp (localSpans_of_homeMapValid hv d).1
  rw [localSpans_eq, List.pairwise_map] at hpair
  refine Decidable.byContradiction fun hne => ?_
  have hap := pairwise_mem hpair hq hr hne
  simp only [apart_iff] at hap
  omega

/-- A device's granules lie below 2^15 (condition 5 of R31). -/
theorem localSpan_le {d : DevId} {r : Nat} (hr : r ∈ receiving s d) :
    (localSpan (homeRange s r)).1 + (localSpan (homeRange s r)).2 ≤ 32768 :=
  (localSpans_of_homeMapValid hv d).2 _ (List.mem_map.mpr ⟨r, hr, rfl⟩)

end Valid

-- ===== R103 inverts R30 =====

/-- The slots of a range are different devices, so a device's slot is the one it stands in. -/
theorem slotOf_devSlot {h : HomeRange} (hn : (usedSlots h).Nodup) {k : Nat} (hk : k < h.ways.toNat) :
    slotOf h (devSlot h.devlist k) = some k := by
  refine List.find?_range_eq_some.mpr ⟨beq_self_eq_true _, List.mem_range.mpr hk, fun j hj => ?_⟩
  rw [Bool.not_eq_true', beq_eq_false_iff_ne]
  exact (pairwise_mem (List.pairwise_map.mp hn) (List.mem_range.mpr (Nat.lt_trans hj hk)) (List.mem_range.mpr hk)
    (Nat.ne_of_lt hj)).elim id Ne.symm

theorem granuleBack_homePlace {s : State} {h : HomeRange} {g : Nat} (hv : rangeValid s h = true)
    (hg : holdsGranule h g = true) : granuleBack h (homePlace h g).1 (homePlace h g).2 = some g := by
  obtain ⟨-, hmod, hn⟩ := rangeValid_spec hv
  obtain ⟨hw, hb, hl⟩ := (holdsGranule_iff h g).mp hg
  have hpos : 0 < h.ways.toNat := Nat.pos_of_ne_zero fun h0 => hw (BitVec.eq_of_toNat_eq h0)
  have hlt : (g - h.base.toNat) / h.ways.toNat < shareOfRange h := by
    rw [shareOfRange, Nat.div_lt_iff_lt_mul hpos, Nat.div_mul_cancel]
    · omega
    · refine Nat.dvd_of_mod_eq_zero ?_
      rw [show h.limit.toNat + 1 - h.base.toNat = h.limit.toNat - h.base.toNat + 1 by omega, hmod]
  rw [granuleBack, homePlace, slotOf_devSlot hn (Nat.mod_lt _ hpos), Option.bind_some,
    if_pos ⟨Nat.le_add_right _ _, Nat.add_lt_add_left hlt _⟩, Nat.add_sub_cancel_left, Nat.add_assoc, Nat.div_add_mod',
    Nat.add_sub_cancel' hb]

/-- The range of a granule given back is one from which the device receives, and that granule lies in its span there. -/
theorem receiving_of_granuleBack {s : State} (hv : homeMapValid s = true) {d : DevId} {r dg g : Nat} (hr : r ∈ List.range 8)
    (hg : granuleBack (homeRange s r) d dg = some g) : r ∈ receiving s d ∧ (localSpan (homeRange s r)).1 ≤ dg ∧
      dg < (localSpan (homeRange s r)).1 + (localSpan (homeRange s r)).2 := by
  obtain ⟨hw, hd, hlo, hhi⟩ := granuleBack_some hg
  have hon : r ∈ homeOn s := (mem_homeOn s r).mpr ⟨List.mem_range.mp hr, hw⟩
  obtain ⟨hle, -⟩ := rangeValid_spec (rangeValid_of_homeMapValid hv hon)
  refine ⟨List.mem_filter.mpr ⟨hon, List.contains_iff_mem.mpr hd⟩, hlo, ?_⟩
  rwa [shareOfRange, Nat.succ_sub hle] at hhi

theorem saIn_homePlace {s : State} (hv : homeMapValid s = true) {r g : Nat} (hr : r ∈ List.range 8)
    (hg : holdsGranule (homeRange s r) g = true) :
    saIn s.region.hr (homePlace (homeRange s r) g).1 (homePlace (homeRange s r) g).2 (List.range 8) = some g := by
  obtain ⟨hw, -⟩ := (holdsGranule_iff _ g).mp hg
  have hon : r ∈ homeOn s := (mem_homeOn s r).mpr ⟨List.mem_range.mp hr, hw⟩
  have hback := granuleBack_homePlace (rangeValid_of_homeMapValid hv hon) hg
  rw [saIn_eq_findSome]
  cases hf : (List.range 8).findSome? _ with
  | none => exact absurd ((List.findSome?_eq_none_iff.mp hf r hr).symm.trans hback) nofun
  | some g' =>
    obtain ⟨q, hq, hqg⟩ := List.exists_of_findSome?_eq_some hf
    obtain ⟨hqr, hql, hqu⟩ := receiving_of_granuleBack hv hq hqg
    obtain ⟨hrr, hrl, hru⟩ := receiving_of_granuleBack hv hr hback
    obtain rfl := receiving_unique hv hqr hrr hql hqu hrl hru
    exact hqg.symm.trans hback

/-- A granule of a device under a valid home map is one of 2^15. -/
theorem homePlace_lt {s : State} (hv : homeMapValid s = true) {r g : Nat} (hr : r ∈ List.range 8)
    (hg : holdsGranule (homeRange s r) g = true) : (homePlace (homeRange s r) g).2 < 32768 := by
  obtain ⟨hw, -⟩ := (holdsGranule_iff _ g).mp hg
  have hon : r ∈ homeOn s := (mem_homeOn s r).mpr ⟨List.mem_range.mp hr, hw⟩
  obtain ⟨hrr, -, hru⟩ := receiving_of_granuleBack hv hr (granuleBack_homePlace (rangeValid_of_homeMapValid hv hon) hg)
  exact Nat.lt_of_lt_of_le hru (localSpan_le hv hrr)

/-- A device-local address of 45 bits holds a granule below 2^15 and the offset. -/
theorem dlaAt_granule_offset (sa : SA) (p : DevId × Nat) (h : p.2 < 32768) :
    (dlaAt sa p).2.toNat / 2 ^ 30 = p.2 ∧ (dlaAt sa p).2.toNat % 2 ^ 30 = sa.toNat % 2 ^ 30 := by
  rw [dlaAt, BitVec.toNat_ofNat]
  omega

/-- R103 gives the board system address back from its place at this device. -/
theorem saOf_of_homeOf {s : State} {sa : SA} {dla : DLA} (hv : homeMapValid s = true)
    (hh : homeOf s sa = some (devId s, dla)) : saOf s dla = sa := by
  rw [homeOf_eq_find] at hh
  obtain ⟨r, hf, hplace⟩ := Option.map_eq_some_iff.mp hh
  obtain ⟨hg, hr, -⟩ := List.find?_range_eq_some.mp hf
  obtain ⟨hdev, rfl⟩ := Prod.mk.inj hplace
  obtain ⟨hgran, hoff⟩ := dlaAt_granule_offset sa _ (homePlace_lt hv hr hg)
  simp only [dlaAt] at hgran hoff
  simp only [saOf, hgran, hoff, ← hdev, saIn_homePlace hv hr hg]
  rw [Nat.div_add_mod', BitVec.ofNat_toNat, BitVec.setWidth_eq]

/-- Settles O9: under the conditions of R31 only one range gives a device's granule back. -/
theorem homeMapIsInverted : Obligations.HomeMapIsInverted := by
  unfold Obligations.HomeMapIsInverted
  refine ⟨fun s sa dla => saOf_of_homeOf, fun s a b dla hv ha hb => ?_⟩
  rw [← saOf_of_homeOf hv ha, saOf_of_homeOf hv hb]

end Sys2Proof.Machine
end

section
/-!
Marks and the mark trap (O11, O12, O13): what a release of a segment marks, the commands of the mark trap, and the writes of
WIN_MCMD, WIN_DRT and WIN_ACC (R45 to R49).
-/

namespace Sys2Proof.Machine

-- ===== windows after a change =====

theorem winOf_modWin (s : State) (w : WinId) (f : Win → Win) (h : twf Win.init s.region.win = true) :
    winOf (modWin s w f) w = f (winOf s w) := winOf_setWin s w _ h

theorem winOf_modWin_ne (s : State) (w x : WinId) (f : Win → Win) (h : x ≠ w) : winOf (modWin s w f) x = winOf s x :=
  winOf_setWin_ne s w x _ h

@[simp] theorem winOf_entered (s : State) (acc : Accessor) (w : WinId) : winOf (entered s acc) w = winOf s w := by
  simp only [winOf, entered_region]

@[simp] theorem getLsbD_bit {n : Nat} (k i : Nat) : (bit k : BitVec n).getLsbD i = (decide (i < n) && decide (k = i)) := by
  rw [bit, BitVec.getLsbD_ofNat, Nat.testBit_two_pow]

-- ===== the release of a segment (R45, R49) =====

/-- A window whose segment has been released. -/
def segReleased (seg : BitVec 6) (v : Win) : Win := { v with
  drt := if segIn v seg.toNat then v.drt ||| bit seg.toNat else v.drt
  pnd := v.pnd &&& ~~~(bit seg.toNat)
  pndAt := tput 0 v.pndAt seg.toNat 0 }



theorem winOf_releaseSeg (s : State) (w : WinId) (seg : BitVec 6) (h : twf Win.init s.region.win = true) :
    winOf (releaseSeg s w seg) w = segReleased seg (winOf s w) := winOf_modWin s w (segReleased seg) h

theorem winOf_releaseSeg_ne (s : State) (w x : WinId) (seg : BitVec 6) (h : x ≠ w) :
    winOf (releaseSeg s w seg) x = winOf s x := winOf_modWin_ne s w x (segReleased seg) h

theorem segReleased_pnd (seg : BitVec 6) (v : Win) (n : Nat) (hn : n < 64) :
    (segReleased seg v).pnd.getLsbD n = (v.pnd.getLsbD n && !decide (seg.toNat = n)) := by
  simp only [segReleased, BitVec.getLsbD_and, BitVec.getLsbD_not, getLsbD_bit, hn, decide_true, Bool.true_and]

theorem segReleased_drt (seg : BitVec 6) (v : Win) (n : Nat) (hn : n < 64) :
    (segReleased seg v).drt.getLsbD n = (v.drt.getLsbD n || (segIn v seg.toNat && decide (seg.toNat = n))) := by
  simp only [segReleased]
  split
  · rename_i hin
    simp only [BitVec.getLsbD_or, getLsbD_bit, hn, hin, decide_true, Bool.true_and]
  · rename_i hout
    simp only [hout, Bool.false_and, Bool.or_false]

/-- Settles O12, by the window that a release leaves. -/
theorem releaseSegmentMarks : Obligations.ReleaseSegmentMarks := by
  unfold Obligations.ReleaseSegmentMarks
  intro s w seg hwf
  rw [winOf_releaseSeg s w seg hwf]
  refine ⟨?_, ?_, fun n hn hne => ⟨?_, ?_⟩, fun x => winOf_releaseSeg_ne s w x seg, rfl⟩
  · rw [segReleased_pnd seg _ _ seg.isLt, decide_eq_true rfl, Bool.not_true, Bool.and_false]
  · rw [segReleased_drt seg _ _ seg.isLt, decide_eq_true rfl, Bool.and_true]
  · rw [segReleased_pnd seg _ n hn, decide_eq_false hne.symm, Bool.not_false, Bool.and_true]
  · rw [segReleased_drt seg _ n hn, decide_eq_false hne.symm, Bool.and_false, Bool.or_false]

-- ===== the mark trap (R48, R49) =====

section MarkRequest

variable {s : State} {id : Nat} {m : MarkReq} {rest : List MarkReq}
  (ht : takeFirst (fun x => x.req == id) s.region.markReqs = some (m, rest)) (hn : markNext s m = true)
include ht hn

/-- The request leaves the list, and its segment becomes pending. -/
theorem doMarkRequest_traps (he : (winOf s m.win).state = .enabled) (htrap : (winOf s m.win).trap = true)
    (hd : (winOf s m.win).drt.getLsbD m.seg.toNat = false) (hp : (winOf s m.win).pnd.getLsbD m.seg.toNat = false) :
    doMarkRequest s id = raise (setWin { s with region := { s.region with markReqs := rest } } m.win
      { winOf s m.win with
        pnd := (winOf s m.win).pnd ||| bit m.seg.toNat
        pndAt := tput 0 (winOf s m.win).pndAt m.seg.toNat s.now })
      (0x100 + m.win.toNat) 164 [(2, m.seg.toNat), (8, m.sa.toNat)] := by
  have hw : winOf { s with region := { s.region with markReqs := rest } } m.win = winOf s m.win := rfl
  simp only [doMarkRequest, ht, hn, modWin, hw, hd, htrap, he, hp, Bool.not_true, Bool.false_eq_true, if_false, bne_self_eq_false,
    Bool.or_self]

/-- A segment that is dirty already needs no release of island 164: the write alone is released. -/
theorem doMarkRequest_dirty {r : Req} (hr : reqOf s id = some r) (hd : (winOf s m.win).drt.getLsbD m.seg.toNat = true) :
    doMarkRequest s id = { s with region := { s.region with
      markReqs := rest, releases := s.region.releases ++ [⟨benchOfDla r.dla, m.win, m.seg, some id⟩] } } := by
  have hw : winOf { s with region := { s.region with markReqs := rest } } m.win = winOf s m.win := rfl
  have hq : reqOf { s with region := { s.region with markReqs := rest } } id = some r := hr
  simp only [doMarkRequest, ht, hn, hw, hq, hd, Bool.not_true, Bool.false_eq_true, if_false, Bool.true_or, if_true]

end MarkRequest

theorem doMarkTimeout_expired {s : State} {w : WinId} {seg : BitVec 6} (hp : (winOf s w).pnd.getLsbD seg.toNat = true)
    (hl : 10000000 ≤ since s (tget 0 (winOf s w).pndAt seg.toNat)) :
    doMarkTimeout s w seg = raise (releaseSeg s w seg) 0x182 164 [(2, w.toNat), (2, seg.toNat)] := by
  simp only [doMarkTimeout, hp, hl, decide_true, Bool.and_self, if_true]

theorem doMarkRelease_arrives {s : State} {b : Bench} {w : WinId} {seg : BitVec 6} {x : Release} {rest : List Release}
    (ht : takeFirst (fun y => y.bench == b && y.win == w && y.seg == seg) s.region.releases = some (x, rest))
    (hn : releaseNext s x = true) : doMarkRelease s b w seg =
      run (freeHeld { s with region := { s.region with releases := rest } } (heldWrite b w seg x.one)) := by
  simp only [doMarkRelease, ht, hn, Bool.not_true, Bool.false_eq_true, if_false]

/-- Settles O11, by what each command of the mark trap does in each of its cases. -/
theorem markTrapCommandsComplete : Obligations.MarkTrapCommandsComplete := by
  unfold Obligations.MarkTrapCommandsComplete
  refine ⟨?request, ?dirty, ?timeout, ?release⟩
  case request =>
    intro s id m rest ha ht hn he htrap hd hp
    exact (act_sameTime s (fun s => doMarkRequest s id) ha).trans (by rw [doMarkRequest_traps ht hn he htrap hd hp]; rfl)
  case dirty =>
    intro s id m rest r ha ht hn hr hd
    exact (act_sameTime s (fun s => doMarkRequest s id) ha).trans (by rw [doMarkRequest_dirty ht hn hr hd]; rfl)
  case timeout =>
    intro s w seg ha hp hl
    rw [← doMarkTimeout_expired hp hl]
    exact act_sameTime s (fun s => doMarkTimeout s w seg) ha
  case release =>
    intro s b w seg x rest ha ht hn
    rw [← doMarkRelease_arrives ht hn]
    exact act_sameTime s (fun s => doMarkRelease s b w seg) ha

-- ===== writes of WIN_MCMD, WIN_DRT and WIN_ACC (R47, R49) =====

/-- Every segment of the span dirty (R49, OP 0b11). -/
def allDirty (v : Win) : Win :=
  { v with drt := if 30 ≤ v.segshift.toNat then v.drt ||| (BitVec.allOnes 64 >>> (64 - segCount v)) else v.drt }

theorem mcmdWrite_releaseSegment (s : State) (w : WinId) (seg : BitVec 6) : mcmdWrite s w (0x100 ||| seg.setWidth 32) =
    (releaseSeg (modWin s w (fun v => { v with mcmd := 0x100 ||| seg.setWidth 32 })) w seg, .ok, 0) := by
  have hop : ((0x100 ||| seg.setWidth 32 : BitVec 32).toNat / 256) % 4 = 1 := by revert seg; decide
  have hseg : (0x100 ||| seg.setWidth 32 : BitVec 32).setWidth 6 = seg := by revert seg; decide
  have hkept : (0x100 ||| seg.setWidth 32 : BitVec 32) &&& 0x33F = 0x100 ||| seg.setWidth 32 := by revert seg; decide
  simp only [mcmdWrite, hop, hseg, hkept]

theorem mcmdWrite_releasePending (s : State) (w : WinId) : mcmdWrite s w 0x200 =
    (releasePending (modWin s w (fun v => { v with mcmd := 0x200 })) w, .ok, 0) := rfl

theorem mcmdWrite_allDirty (s : State) (w : WinId) : mcmdWrite s w 0x300 =
    (releasePending (modWin (modWin s w (fun v => { v with mcmd := 0x300 })) w allDirty) w, .ok, 0) := rfl

/-- A command that presents a write which passes is answered with what the object's own checks and effect give. -/
theorem act_front {s : State} {acc : Accessor} {g : Gate} {note : DStatus → State → State} {f : State → Ans} {t : State}
    {e : DStatus} {aux : Nat} (ha : alive s = true) (hp : passes s acc g = true) (hf : f (entered s acc) = (t, e, aux)) :
    act s (fun s => front s acc g note f) = .next (sameTime s (replied acc e aux (note e t))) := by
  rw [act_sameTime s _ ha, front_passes s acc g note f hp, hf]

/-- A clear is answered at once unless older accesses are under way (R47; log entry 21). -/
theorem frontMark_clears {s : State} {acc : Accessor} {g : Gate} {w : WinId} {f : State → State × Option (DStatus × Nat)}
    {t : State} {ids : List Nat} {drt : Bool} (hp : passes s acc g = true)
    (hf : f (entered s acc) = clearMarks t (normAcc acc, none) w ids drt) :
    frontMark s acc g (winNote w) f = if ids = [] then replied acc .ok 0 (winNote w .ok t)
      else { t with hen := { t.hen with clears := t.hen.clears ++ [⟨w, drt, ids, (normAcc acc, none)⟩] } } := by
  rw [frontMark_passes s acc g (winNote w) f hp, hf]
  cases ids <;> rfl

/-- Settles O13, by what each write does in the state entered. -/
theorem windowCommandWritesComplete : Obligations.WindowCommandWritesComplete := by
  unfold Obligations.WindowCommandWritesComplete
  refine ⟨?segment, ?pending, ?allSegments, ?dirtyBits, ?accessedBits⟩
  case segment =>
    intro s acc w seg ha hp
    exact act_front (note := winNote w) ha hp (mcmdWrite_releaseSegment _ w seg)
  case pending =>
    intro s acc w ha hp
    exact act_front (note := winNote w) ha hp (mcmdWrite_releasePending _ w)
  case allSegments =>
    intro s acc w ha hp
    exact act_front (note := winNote w) ha hp (mcmdWrite_allDirty _ w)
  case dirtyBits =>
    intro s acc w mask t ha hp ht
    have hf : drtWrite (entered s acc) (normAcc acc, none) w mask =
        clearMarks t (normAcc acc, none) w (olderMarks t w mask true) true := by
      rw [ht, drtWrite, modWin, winOf_entered]; rfl
    rw [← frontMark_clears (f := fun s => drtWrite s (normAcc acc, none) w mask) hp hf]
    exact act_sameTime s (fun s => frontMark s acc _ (winNote w) _) ha
  case accessedBits =>
    intro s acc w mask t ha hp ht
    have hf : accWrite (entered s acc) (normAcc acc, none) w mask =
        clearMarks t (normAcc acc, none) w (olderMarks t w mask false) false := by
      rw [ht, accWrite, modWin, winOf_entered]; rfl
    rw [← frontMark_clears (f := fun s => accWrite s (normAcc acc, none) w mask) hp hf]
    exact act_sameTime s (fun s => frontMark s acc _ (winNote w) _) ha

end Sys2Proof.Machine
end

section
/-!
Enable, disable, drain, geometry and attributes of a window (O14): what each write and the end of a drain do in each state of the
window (R39, R45, R52 to R55, R280).
-/

namespace Sys2Proof.Machine

@[simp] theorem reachedReady_entered (s : State) (acc : Accessor) : reachedReady (entered s acc) = reachedReady s := by
  simp only [reachedReady, entered_dev]

-- ===== ENABLE = 1 (R39, R55, R280) =====

/-- A window that is not draining and meets its conditions passes every check of R39. -/
theorem enableChecks_ready {s : State} {w : WinId} (h : EnableReady s w) (hd : (winOf s w).state ≠ .draining) :
    enableChecks s w = none := by
  obtain ⟨-, -, hothers, hspan, hcap, hup, htrap, hretained⟩ := h
  have hD : (otherWins s w).any (fun o => meetD (winOf s w).geo o.geo) = false :=
    List.any_eq_false.mpr fun o ho => by rw [(hothers o ho).1]; exact Bool.false_ne_true
  have hX : (otherWins s w).any (fun o => meetX (winOf s w).geo o.geo) = false :=
    List.any_eq_false.mpr fun o ho => by rw [(hothers o ho).2]; exact Bool.false_ne_true
  have hT : ((winOf s w).trap && (winOf s w).cls != .ash) = false := by
    obtain h | h := htrap
    · rw [h, Bool.false_and]
    · rw [h, bne_self_eq_false, Bool.and_false]
  simp only [enableChecks, hD, hX, hT, hup, BitVec.not_lt.mpr hspan, Nat.not_le.mpr hcap, beq_eq_false_iff_ne.mpr hd,
    Bool.not_true, Bool.false_eq_true, if_false]
  refine if_neg (Bool.eq_false_iff.mp (List.any_eq_false.mpr fun p hp => ?_))
  rw [Bool.not_eq_true]
  obtain h | h | h | h := hretained p hp
  · simp only [h, bne_self_eq_false, Bool.false_and]
  · simp only [beq_eq_false_iff_ne.mpr h, Bool.and_false, Bool.false_and]
  · simp only [h, Bool.not_true, Bool.and_false, Bool.false_and]
  · cases hr : p.2.retained with
    | none => simp only [Bool.and_false]
    | some g =>
      obtain ⟨hgD, hgX⟩ := h g hr
      simp only [hgD, hgX, Bool.or_self, Bool.and_false]

theorem enableStatus_ready {s : State} {w : WinId} (h : EnableReady s w) (hd : (winOf s w).state ≠ .draining) :
    enableStatus s w = .ok := by
  have hc := enableChecks_ready h hd
  obtain ⟨hflush, horphans, -⟩ := h
  have hF : (!(winOf s w).lastFlush && (winOf s w).retained.isSome && (winOf s w).retained != some (winOf s w).geo) = false := by
    obtain h | h | h := hflush
    · simp only [h, Bool.not_true, Bool.false_and]
    · simp only [h, Option.isSome_none, Bool.and_false, Bool.false_and]
    · simp only [h, bne_self_eq_false, Bool.and_false]
  simp only [enableStatus, hF, hc, Bool.false_eq_true, if_false]
  obtain h | ⟨hgeo, hserial⟩ := horphans
  · simp only [h, List.isEmpty_nil, if_true, Option.getD_none]
  · simp only [hgeo, hserial, beq_self_eq_true, Option.isNone_none, Bool.and_self, Option.getD_none, if_true, ite_self]

theorem ctlEnable_ready {s : State} {w : WinId} (flush : Bool) (hs : reachedReady s = true) (hd : (winOf s w).state = .disabled)
    (h : EnableReady s w) : ctlEnable s w flush = (modWin (enableWin s w) w (fun v => { v with flush := flush }), .ok, 0) := by
  have he := enableStatus_ready h (by rw [hd]; nofun)
  simp only [ctlEnable, hs, hd, tryEnable, he, Bool.not_true, Bool.false_eq_true, if_false]

/-- ENABLE is 1 already. -/
theorem ctlEnable_again {s : State} {w : WinId} (flush : Bool) (hs : reachedReady s = true)
    (h : (winOf s w).state = .enabled ∨ (winOf s w).state = .targetLost) :
    ctlEnable s w flush = (modWin s w (fun v => { v with flush := flush }), .ok, 0) := by
  obtain h | h := h <;> simp only [ctlEnable, hs, h, Bool.not_true, Bool.false_eq_true, if_false]

-- ===== ENABLE = 0 and the end of a drain (R54) =====

theorem ctlDisable_drains {s : State} {w : WinId} (flush : Bool)
    (h : (winOf s w).state = .enabled ∨ (winOf s w).state = .targetLost) :
    ctlDisable s w flush = (pushWindir (modWin (releasePending s w) w (fun v => { v with
      enable := false, flush := flush, state := .draining
      flushNext := if flush then some (v.geo.base.toNat * 2 ^ 18) else none })) w, .ok, 0) := by
  obtain h | h := h <;> simp only [ctlDisable, h]

/-- A window that is disabled or drains already keeps its state (log entry 107). -/
theorem ctlDisable_keeps {s : State} {w : WinId} (flush : Bool)
    (h : (winOf s w).state = .disabled ∨ (winOf s w).state = .draining) :
    ctlDisable s w flush = (modWin s w (fun v => { v with enable := false, flush := flush }), .ok, 0) := by
  obtain h | h := h <;> simp only [ctlDisable, h]

theorem doWindowDrained_ends {s : State} {w : WinId} (hd : (winOf s w).state = .draining) (hb : winBusy s w = false)
    (hf : (winOf s w).flushNext = none ∨ flushLeft s (winOf s w).geo = false) :
    doWindowDrained s w = raise (setWin s w { winOf s w with
      state := .disabled, segshift := 0, lastFlush := (winOf s w).flushNext.isSome, flushNext := none })
      (0x140 + w.toNat) 164 [] := by
  have hleft : ((winOf s w).flushNext.isSome && flushLeft s (winOf s w).geo) = false := by
    obtain h | h := hf
    · rw [h, Option.isSome_none, Bool.false_and]
    · rw [h, Bool.and_false]
  simp only [doWindowDrained, modWin, hd, hb, hleft, bne_self_eq_false, Bool.or_self, Bool.false_eq_true, if_false]

-- ===== geometry and attributes (R52, R53) =====

theorem geoWrite_takes {s : State} {w : WinId} {reg : Nat} {value : BitVec 32}
    (h : (winOf s w).state = .disabled ∨ geoWith (winOf s w).geo reg value = (winOf s w).geo) :
    geoWrite s w reg value = (setWin s w { winOf s w with geo := geoWith (winOf s w).geo reg value }, .ok, 0) := by
  have hc : ((winOf s w).state != .disabled && geoWith (winOf s w).geo reg value != (winOf s w).geo) = false := by
    obtain h | h := h
    · rw [h, bne_self_eq_false, Bool.false_and]
    · rw [h, bne_self_eq_false, Bool.and_false]
  simp only [geoWrite, modWin, hc, Bool.false_eq_true, if_false]

theorem geoWrite_refused {s : State} {w : WinId} {reg : Nat} {value : BitVec 32} (hd : (winOf s w).state ≠ .disabled)
    (hg : geoWith (winOf s w).geo reg value ≠ (winOf s w).geo) : geoWrite s w reg value = (s, .quiesceRequired, 0) := by
  simp only [geoWrite, bne_iff_ne.mpr hd, bne_iff_ne.mpr hg, Bool.and_self, if_true]

/-- The class that a write of WIN_ATTR gives. -/
def attrClass (a : BitVec 32) : LClass := classOf ((a >>> 8).setWidth 2)

/-- The window with the attributes of a write of WIN_ATTR. -/
def withAttr (v : Win) (a : BitVec 32) : Win := { v with
  geo := { v.geo with policy := a.setWidth 2 }, r := a.getLsbD 10, w := a.getLsbD 11, x := a.getLsbD 12, u := a.getLsbD 13
  s := a.getLsbD 14, trap := a.getLsbD 15, cls := attrClass a, insert := (a >>> 6).setWidth 2, span := (a >>> 4).setWidth 2 }

/-- The window has taken its attributes; a window that no longer traps has released its pending segments (R49). -/
def attrTaken (s : State) (w : WinId) (a : BitVec 32) : State :=
  if (winOf s w).trap && !a.getLsbD 15 then releasePending (setWin s w (withAttr (winOf s w) a)) w
  else setWin s w (withAttr (winOf s w) a)

/-- A class of lower rank queues a pass (R52). -/
def attrRanked (s : State) (w : WinId) (a : BitVec 32) : State :=
  if classCode (attrClass a) < classCode (winOf s w).cls then capChange (attrTaken s w a) (.window w) else attrTaken s w a

theorem attrWrite_eq (s : State) (w : WinId) (a : BitVec 32) : attrWrite s w a =
    if (winOf s w).state != .disabled && a.setWidth 2 != (winOf s w).geo.policy then (s, .quiesceRequired, 0)
    else if (winOf s w).state != .disabled && a.getLsbD 15 && attrClass a != .ash then (s, .range, 0)
    else (if attrClass a != (winOf s w).cls then pushWindir (attrRanked s w a) w else attrRanked s w a, .ok, 0) := rfl

theorem attrWrite_takes {s : State} {w : WinId} {a : BitVec 32}
    (h : (winOf s w).state = .disabled ∨
      (a.setWidth 2 = (winOf s w).geo.policy ∧ (a.getLsbD 15 = false ∨ attrClass a = .ash))) :
    attrWrite s w a =
      (if attrClass a = (winOf s w).cls then attrTaken s w a else pushWindir (attrRanked s w a) w, .ok, 0) := by
  have hp : ((winOf s w).state != .disabled && a.setWidth 2 != (winOf s w).geo.policy) = false := by
    obtain h | ⟨h, -⟩ := h
    · rw [h, bne_self_eq_false, Bool.false_and]
    · rw [h, bne_self_eq_false, Bool.and_false]
  have ht : ((winOf s w).state != .disabled && a.getLsbD 15 && attrClass a != .ash) = false := by
    obtain h | ⟨-, h | h⟩ := h
    · rw [h, bne_self_eq_false, Bool.false_and, Bool.false_and]
    · rw [h, Bool.and_false, Bool.false_and]
    · rw [h, bne_self_eq_false, Bool.and_false]
  rw [attrWrite_eq, hp, ht, if_neg Bool.false_ne_true, if_neg Bool.false_ne_true]
  by_cases hc : attrClass a = (winOf s w).cls
  · rw [if_pos hc, if_neg (by rw [hc, bne_self_eq_false]; exact Bool.false_ne_true), attrRanked, hc, if_neg (Nat.lt_irrefl _)]
  · rw [if_neg hc, if_pos (bne_iff_ne.mpr hc)]

theorem attrWrite_policy {s : State} {w : WinId} {a : BitVec 32} (hd : (winOf s w).state ≠ .disabled)
    (hp : a.setWidth 2 ≠ (winOf s w).geo.policy) : attrWrite s w a = (s, .quiesceRequired, 0) := by
  rw [attrWrite_eq, if_pos (by rw [bne_iff_ne.mpr hd, bne_iff_ne.mpr hp]; rfl)]

theorem attrWrite_trap {s : State} {w : WinId} {a : BitVec 32} (hd : (winOf s w).state ≠ .disabled)
    (hp : a.setWidth 2 = (winOf s w).geo.policy) (ht : a.getLsbD 15 = true) (hc : attrClass a ≠ .ash) :
    attrWrite s w a = (s, .range, 0) := by
  rw [attrWrite_eq, if_neg (by rw [hp, bne_self_eq_false, Bool.and_false]; exact Bool.false_ne_true),
    if_pos (by rw [bne_iff_ne.mpr hd, ht, bne_iff_ne.mpr hc]; rfl)]

/-- Settles O14, by what each write does in each state of the window. -/
theorem windowEnableAndDrainComplete : Obligations.WindowEnableAndDrainComplete := by
  unfold Obligations.WindowEnableAndDrainComplete
  refine ⟨?enable, ?disable, ?drained, ?geometry, ?attributes⟩
  case enable =>
    intro s acc w flush ha hp hs
    have hse : reachedReady (entered s acc) = true := (reachedReady_entered s acc).trans hs
    rw [← winOf_entered s acc w]
    exact ⟨fun hd h => act_front (note := winNote w) ha hp (ctlEnable_ready flush hse hd h),
      fun h => act_front (note := winNote w) ha hp (ctlEnable_again flush hse h)⟩
  case disable =>
    intro s acc w flush ha hp
    rw [← winOf_entered s acc w]
    exact ⟨fun h => act_front (note := winNote w) ha hp (ctlDisable_drains flush h),
      fun h => act_front (note := winNote w) ha hp (ctlDisable_keeps flush h)⟩
  case drained =>
    intro s w ha hd hb hf
    exact (act_sameTime s (fun s => doWindowDrained s w) ha).trans (by rw [doWindowDrained_ends hd hb hf]; rfl)
  case geometry =>
    intro s acc w reg value ha hr hp
    have he : exec (.winGeometryWrite acc w reg value) s = act s (fun s => front s acc (winGate w (4 + 4 * reg.toNat) true)
        (winNote w) (fun s => geoWrite s w reg.toNat value)) := if_pos (decide_eq_true hr)
    rw [he, ← winOf_entered s acc w]
    exact ⟨fun h => act_front ha hp (geoWrite_takes h), fun hd hg => act_front ha hp (geoWrite_refused hd hg)⟩
  case attributes =>
    intro s acc w value t u ha hp ht hu
    have hu' : u = attrTaken (entered s acc) w value := by
      simp only [hu, ht, attrTaken, winOf_entered, Bool.and_eq_true, Bool.not_eq_true']; rfl
    refine ⟨fun h => ?_, fun hd hpol => ?_, fun hd hpol htr hc => ?_⟩
    · rw [← winOf_entered s acc w] at h ⊢
      rw [hu']
      exact act_front (note := winNote w) ha hp (attrWrite_takes h)
    · rw [← winOf_entered s acc w] at hd hpol
      exact act_front ha hp (attrWrite_policy hd hpol)
    · rw [← winOf_entered s acc w] at hd hpol
      exact act_front ha hp (attrWrite_trap hd hpol htr hc)

end Sys2Proof.Machine
end

section
/-!
Host requests (O20, O23): what counting and logging leave to the ways of a message, the bench or the home that a request reaches,
and what a refused one leaves alone (R27, R30, R38, R42, R43).
-/

namespace Sys2Proof.Machine

-- ===== the error log reaches no port but its functions' own logs (R264, R319) =====

/-- Of the ports of `s`, `t` has changed the member functions only. -/
def OnlyFns (s t : State) : Prop := t.port = { s.port with fn := t.port.fn }

theorem OnlyFns.refl (s : State) : OnlyFns s s := rfl
theorem OnlyFns.trans {s t u : State} (h : OnlyFns s t) (k : OnlyFns t u) : OnlyFns s u := by
  unfold OnlyFns at *
  rw [k, h]

theorem foldl_onlyFns {α : Type} (f : State → α → State) (h : ∀ s a, OnlyFns s (f s a)) (l : List α) (s : State) :
    OnlyFns s (l.foldl f s) := by
  induction l generalizing s with
  | nil => exact .refl s
  | cons a l ih => exact (h s a).trans (ih _)

theorem setFn_onlyFns (s : State) (l : HLink) (m : BitVec 2) (v : FnS) : OnlyFns s (setFn s l m v) := rfl

theorem msix_onlyFns (s : State) (l : HLink) (m : BitVec 2) (vec : Nat) : OnlyFns s (msix s l m vec) := by
  unfold msix
  dsimp only
  split
  · exact .refl s
  split
  · exact .refl s
  split
  · exact .refl s
  · exact setFn_onlyFns s l m _

theorem logIrq_onlyFns (s : State) (l : HLink) (m : BitVec 2) (k : Nat) : OnlyFns s (logIrq s l m k) := by
  simp only [logIrq]
  split
  · exact msix_onlyFns s l m _
  · exact .refl s

theorem mirrorLog_onlyFns (s : State) (r : LogRec) : OnlyFns s (mirrorLog s r) := by
  unfold mirrorLog
  extract_lets k
  clear_value k
  refine foldl_onlyFns _ (fun s a => ?_) _ s
  dsimp only
  split
  · exact setFn_onlyFns s _ _ _
  split
  · exact (setFn_onlyFns s _ _ _).trans (logIrq_onlyFns _ _ _ _)
  · exact setFn_onlyFns s _ _ _

theorem logWrite_onlyFns (s : State) (r : LogRec) : OnlyFns s (logWrite s r) := by
  simp only [logWrite]
  split
  · exact mirrorLog_onlyFns _ _
  · exact mirrorLog_onlyFns _ _

theorem logRec_onlyFns (s : State) (r : LogRec) : OnlyFns s (logRec s r) := by
  unfold logRec
  split
  · exact logWrite_onlyFns s r
  · extract_lets sec cnt n tk t
    clear_value t n cnt
    split
    · exact logWrite_onlyFns _ _
    · exact .refl s

-- ===== counting and logging change no way of a message =====

/-- `t` is `s` but for contracts, counters, events, the error log and its mirrors, and `out`. -/
def Noted (s t : State) : Prop := ∃ c r f e o b, r.array = s.rel.array ∧
  t = { s with contract := c, rel := r, port := { s.port with fn := f }, evt := e, out := o, obs := b }

theorem Noted.refl (s : State) : Noted s s := ⟨_, _, _, _, _, _, rfl, rfl⟩
theorem Noted.trans {s t u : State} (h : Noted s t) (k : Noted t u) : Noted s u := by
  obtain ⟨c, r, f, e, o, b, hr, rfl⟩ := h
  obtain ⟨c', r', f', e', o', b', hr', rfl⟩ := k
  exact ⟨c', r', f', e', o', b', hr'.trans hr, rfl⟩

theorem countDev_noted (s : State) (code q : Nat) : Noted s (countDev s code q) := by
  rw [countDev_frame]
  exact ⟨_, _, _, _, _, _, rfl, rfl⟩

theorem setContract_noted (s : State) (i : CIdx) (v : ContractS) : Noted s (setContract s i v) := ⟨_, _, _, _, _, _, rfl, rfl⟩

theorem logRec_noted (s : State) (r : LogRec) : Noted s (logRec s r) := by
  have hp := logRec_onlyFns s r
  obtain ⟨l, n, x, d, a, b, c, p, e, o, h⟩ := logRec_frame s r
  rw [OnlyFns, h] at hp
  obtain ⟨f, rfl⟩ : ∃ f, p = { s.port with fn := f } := ⟨p.fn, hp⟩
  rw [h]
  refine ⟨_, _, _, _, _, _, ?_, rfl⟩
  rfl

theorem poisonNoted_noted (s : State) (m : HostMsg) (poison : Bool) : Noted s (poisonNoted s m poison) := by
  unfold poisonNoted
  split
  · exact logRec_noted s _
  · exact .refl s

theorem originClass_noted (s : State) (l : HLink) (op : ReqOp) (d : DevId) (dla : DLA) :
    Noted s (originClass s l op d dla).1 := by
  unfold originClass
  split
  · exact .refl s
  split
  · exact .refl s
  dsimp only
  split
  · exact .refl s
  split
  · exact .refl s
  split
  · exact (setContract_noted s _ _).trans (countDev_noted _ _ _)
  · exact (setContract_noted s _ _).trans (countDev_noted _ _ _)

section Noted

variable {s t : State} (h : Noted s t)
include h

theorem Noted.devId_eq : devId t = devId s := by obtain ⟨c, r, f, e, o, b, -, rfl⟩ := h; rfl
theorem Noted.windowAt_eq (dla : DLA) : windowAt t dla = windowAt s dla := by obtain ⟨c, r, f, e, o, b, -, rfl⟩ := h; rfl
theorem Noted.winOf_eq (w : WinId) : winOf t w = winOf s w := by obtain ⟨c, r, f, e, o, b, -, rfl⟩ := h; rfl
theorem Noted.homeOf_eq (sa : SA) : homeOf t sa = homeOf s sa := by obtain ⟨c, r, f, e, o, b, -, rfl⟩ := h; rfl
theorem Noted.socketEntry_eq (l : HLink) (sa : SA) : socketEntry t l sa = socketEntry s l sa := by
  obtain ⟨c, r, f, e, o, b, -, rfl⟩ := h; rfl
theorem Noted.hlinkOf_eq (l : HLink) : hlinkOf t l = hlinkOf s l := by obtain ⟨c, r, f, e, o, b, -, rfl⟩ := h; rfl
theorem Noted.hdmOf_eq (l : HLink) (i : Nat) : hdmOf t l i = hdmOf s l i := by simp only [hdmOf, h.hlinkOf_eq]

theorem Noted.dpaBase_eq (l : HLink) (i : Nat) : dpaBase t l i = dpaBase s l i := by
  induction i with
  | zero => simp only [dpaBase, h.hdmOf_eq]
  | succ i ih => simp only [dpaBase, h.hdmOf_eq, ih]

theorem Noted.saOfMsg_eq (m : HostMsg) : saOfMsg t m = saOfMsg s m := by
  simp only [saOfMsg, dpaOfHpa, h.hdmOf_eq, h.dpaBase_eq]

theorem Noted.hostEnters (m : HostMsg) (op : ReqOp) (sa : SA) : HostEnters t m op sa ↔ HostEnters s m op sa := by
  have hsa := h.saOfMsg_eq m
  obtain ⟨c, r, f, e, o, b, -, rfl⟩ := h
  rw [HostEnters, hsa]
  exact Iff.rfl

theorem Noted.hostReady (m : HostMsg) (op : ReqOp) (sa : SA) (dla : DLA) (w : WinId) :
    HostReady t m op sa dla w ↔ HostReady s m op sa dla w :=
  and_congr (h.hostEnters m op sa) (by rw [h.homeOf_eq, h.devId_eq, h.windowAt_eq, h.winOf_eq])

theorem Noted.hostFar (m : HostMsg) (op : ReqOp) (sa : SA) (d : DevId) (dla : DLA) :
    HostFar t m op sa d dla ↔ HostFar s m op sa d dla :=
  and_congr (h.hostEnters m op sa) (by rw [h.homeOf_eq, h.devId_eq])

end Noted

-- ===== a message that enters (R27, R30, R334) =====

/-- A host request that has been counted. -/
def hostCounted (s : State) (m : HostMsg) : State := countDev s 0x105 (1 + m.link.toNat)

theorem hostCounted_noted (s : State) (m : HostMsg) : Noted s (hostCounted s m) := countDev_noted s _ _

theorem not_contained_of_presented {s : State} (h : presented s = true) : (s.dev.stage == .containment) = false := by
  rw [presented, beq_iff_eq] at h
  rw [h]
  rfl

/-- A host request of a device that has memory to present: its port error, its refusal or its home (R309, R27, R30). -/
theorem hostRequest_presented {s : State} {m : HostMsg} {op : ReqOp} {p : Nat} {sa : SA} {d : DevId} {dla : DLA} (data : Line)
    (be : BitVec 64) (poison : Bool) (hpres : presented s = true) (hport : memberPort s m.link m.member = some p)
    (hfull : ingressFull s m.link m.member op = false) (hsa : saOfMsg s m = some sa) (hh : homeOf s sa = some (d, dla)) :
    hostRequest s m op data be poison =
      if memberUp s m.link m.member = false then s
      else if (hlinkOf s m.link).idereq && !m.ide then hostUnmapped (hostCounted s m) m op p
      else hostHome (hostCounted s m) m op p sa d dla data be poison := by
  have hc := hostCounted_noted s m
  have hpres' : presented (countDev s 0x105 (1 + m.link.toNat)) = true := by rwa [presented, countDev_dev]
  have hsa' : saOfMsg (countDev s 0x105 (1 + m.link.toNat)) m = some sa := (hc.saOfMsg_eq m).trans hsa
  have hh' : homeOf (countDev s 0x105 (1 + m.link.toNat)) sa = some (d, dla) := (hc.homeOf_eq sa).trans hh
  have hl' : hlinkOf (countDev s 0x105 (1 + m.link.toNat)) m.link = hlinkOf s m.link := hc.hlinkOf_eq m.link
  simp only [hostRequest, hport, hfull, not_contained_of_presented hpres', hpres', hsa', hh', hl', hostCounted, Bool.not_eq_true',
    Bool.not_true, Bool.false_or, Bool.false_eq_true, if_false]

/-- A host message that enters goes to its home. -/
theorem hostRequest_enters {s : State} {m : HostMsg} {op : ReqOp} {sa : SA} {d : DevId} {dla : DLA} (data : Line)
    (be : BitVec 64) (poison : Bool) (h : HostEnters s m op sa) (hh : homeOf s sa = some (d, dla)) :
    ∃ p, hostRequest s m op data be poison = hostHome (hostCounted s m) m op p sa d dla data be poison := by
  obtain ⟨-, hpres, hup, hport, hide, hsa, hfull⟩ := h
  obtain ⟨p, hp⟩ := Option.isSome_iff_exists.mp hport
  have hi : ((hlinkOf s m.link).idereq && !m.ide) = false := by
    cases hr : (hlinkOf s m.link).idereq with
    | false => rfl
    | true => rw [hide hr]; rfl
  exact ⟨p, by simp only [hostRequest_presented data be poison hpres hp hfull hsa hh, hup, hi, Bool.true_eq_false,
    Bool.false_eq_true, if_false]⟩

/-- A request whose window allows it joins its bench. -/
theorem hostRequest_joins {s : State} {m : HostMsg} {op : ReqOp} {sa : SA} {dla : DLA} {w : WinId} (data : Line)
    (be : BitVec 64) (poison : Bool) (h : HostReady s m op sa dla w) :
    hostRequest s m op data be poison = hostJoined s m op sa dla w data be poison := by
  obtain ⟨hent, hh, hw, hr⟩ := h
  obtain ⟨p, hp⟩ := hostRequest_enters data be poison hent hh
  have hc := (hostCounted_noted s m).trans (originClass_noted _ m.link op (devId s) dla)
  have hw' := (hc.windowAt_eq dla).trans hw
  have hr' := (congrArg (rightsOk · .hostSocket op) (hc.winOf_eq w)).trans hr
  simp only [hp, hostHome, hc.devId_eq, hw', hr', if_true, Bool.not_true, Bool.false_eq_true, if_false]
  rfl

/-- A request whose home is another device is sent there. -/
theorem hostRequest_sent {s : State} {m : HostMsg} {op : ReqOp} {sa : SA} {d : DevId} {dla : DLA} (data : Line)
    (be : BitVec 64) (poison : Bool) (h : HostFar s m op sa d dla) :
    hostRequest s m op data be poison = hostSent s m op sa d dla data be poison := by
  obtain ⟨hent, hh, hd⟩ := h
  obtain ⟨p, hp⟩ := hostRequest_enters data be poison hent hh
  have hc := (hostCounted_noted s m).trans (originClass_noted _ m.link op d dla)
  simp only [hp, hostHome, hc.devId_eq, hd, if_false]
  rfl

/-- Without a snoop outstanding at the socket a write is a request, after its poison has been logged. -/
theorem hostWrite_request {s : State} {m : HostMsg} (op : ReqOp) {sa : SA} (data : Line) (be : BitVec 64) (poison : Bool)
    (hsa : saOfMsg s m = some sa) (hsock : socketEntry s m.link sa = none) :
    hostWrite s m op data be poison = hostRequest (poisonNoted s m poison) m op data be poison := by
  have hn := poisonNoted_noted s m poison
  have hb : (saOfMsg (poisonNoted s m poison) m).bind (socketEntry (poisonNoted s m poison) m.link) = none := by
    rw [hn.saOfMsg_eq, hsa, Option.bind_some, hn.socketEntry_eq, hsock]
  unfold hostWrite
  extract_lets t
  rw [show t = poisonNoted s m poison from rfl, hb]

theorem hostWrite_joins {s : State} {m : HostMsg} {op : ReqOp} {sa : SA} {dla : DLA} {w : WinId} (data : Line) (be : BitVec 64)
    (poison : Bool) (h : HostReady s m op sa dla w) (hsock : socketEntry s m.link sa = none) :
    hostWrite s m op data be poison = hostJoined (poisonNoted s m poison) m op sa dla w data be poison := by
  obtain ⟨-, -, -, -, -, hsa, -⟩ := h.1
  rw [hostWrite_request op data be poison hsa hsock]
  exact hostRequest_joins data be poison (((poisonNoted_noted s m poison).hostReady m op sa dla w).mpr h)

theorem hostWrite_sent {s : State} {m : HostMsg} {op : ReqOp} {sa : SA} {d : DevId} {dla : DLA} (data : Line) (be : BitVec 64)
    (poison : Bool) (h : HostFar s m op sa d dla) (hsock : socketEntry s m.link sa = none) :
    hostWrite s m op data be poison = hostSent (poisonNoted s m poison) m op sa d dla data be poison := by
  obtain ⟨-, -, -, -, -, hsa, -⟩ := h.1
  rw [hostWrite_request op data be poison hsa hsock]
  exact hostRequest_sent data be poison (((poisonNoted_noted s m poison).hostFar m op sa d dla).mpr h)

/-- A MemInv of another MetaValue than S is a host request (Table 4-3). -/
theorem doMemInv_request (s : State) (m : HostMsg) {mv : MetaValue} (h : mv ≠ .s) :
    doMemInv s m mv = hostRequest s m (.memInv mv) 0 0 false := by
  cases mv with
  | s => exact absurd rfl h
  | i => rfl
  | a => rfl

theorem HostEnters.alive {s : State} {m : HostMsg} {op : ReqOp} {sa : SA} (h : HostEnters s m op sa) : alive s = true := h.1

/-- Settles O20, by the way of a message that enters: its bench, or its home device. -/
theorem hostRequestsJoinTheirHomeBench : Obligations.HostRequestsJoinTheirHomeBench := by
  unfold Obligations.HostRequestsJoinTheirHomeBench
  refine ⟨?joins, ?sent, ?violation⟩
  case joins =>
    intro s m sa dla w data be poison
    have read : ∀ op, HostReady s m op sa dla w → act s (fun s => hostRequest s m op 0 0 false) =
        .next (sameTime s (hostJoined s m op sa dla w 0 0 false)) := fun op h =>
      (act_sameTime s _ h.1.alive).trans (by rw [hostRequest_joins 0 0 false h])
    have write : ∀ op be, HostReady s m op sa dla w → socketEntry s m.link sa = none →
        act s (fun s => hostWrite s m op data be poison) =
          .next (sameTime s (hostJoined (poisonNoted s m poison) m op sa dla w data be poison)) := fun op be h hsock =>
      (act_sameTime s _ h.1.alive).trans (by rw [hostWrite_joins data be poison h hsock])
    refine ⟨fun mv => read _, read _, fun mv nt hmv h => ?_, read _, read _, fun mv => write _ _, fun mv => write _ _, ?_⟩
    · exact (act_sameTime s (fun s => doMemInv s m mv) h.1.alive).trans
        (by rw [doMemInv_request s m hmv, hostRequest_joins 0 0 false h])
    · rintro op rfl
      exact write _ _
  case sent =>
    intro s m sa d dla data be poison op h
    have ha := h.1.alive
    refine ⟨?reads, fun hsock => ?writes⟩
    case reads =>
      have read : act s (fun s => hostRequest s m op 0 0 false) = .next (sameTime s (hostSent s m op sa d dla 0 0 false)) :=
        (act_sameTime s _ ha).trans (by rw [hostRequest_sent 0 0 false h])
      rintro i (⟨mv, rfl, rfl⟩ | ⟨rfl, rfl⟩ | ⟨mv, nt, hmv, rfl, rfl⟩ | ⟨rfl, rfl⟩ | ⟨rfl, rfl⟩)
      · exact read
      · exact read
      · exact (act_sameTime s (fun s => doMemInv s m mv) ha).trans
          (by rw [doMemInv_request s m hmv, hostRequest_sent 0 0 false h])
      · exact read
      · exact read
    case writes =>
      have write : act s (fun s => hostWrite s m op data be poison) =
          .next (sameTime s (hostSent (poisonNoted s m poison) m op sa d dla data be poison)) :=
        (act_sameTime s _ ha).trans (by rw [hostWrite_sent data be poison h hsock])
      rintro i (⟨mv, rfl, rfl, rfl⟩ | ⟨mv, rfl, rfl⟩ | ⟨rfl, rfl⟩) <;> exact write
  case violation =>
    intro s m nt ha hup
    refine (act_sameTime s (fun s => doMemInv s m .s) ha).trans ?_
    simp only [doMemInv, hup, Bool.not_true, Bool.false_eq_true, if_false]

-- ===== a refused request (R43, Table 2-11) =====

/-- The windows with their marks, the cache with its trackers and benches, and the data array are as they were. -/
def KeepsMemory (s t : State) : Prop := t.region.win = s.region.win ∧ t.cache = s.cache ∧ t.rel.array = s.rel.array

theorem KeepsMemory.refl (s : State) : KeepsMemory s s := ⟨rfl, rfl, rfl⟩
theorem KeepsMemory.trans {s t u : State} (h : KeepsMemory s t) (k : KeepsMemory t u) : KeepsMemory s u :=
  ⟨k.1.trans h.1, k.2.1.trans h.2.1, k.2.2.trans h.2.2⟩

theorem Noted.keepsMemory {s t : State} (h : Noted s t) : KeepsMemory s t := by
  obtain ⟨c, r, f, e, o, b, hr, rfl⟩ := h
  exact ⟨rfl, rfl, hr⟩

theorem raiseFirst_keepsMemory (s : State) (e i : Nat) (f : Fields) : KeepsMemory s (raiseFirst s e i f) := by
  unfold raiseFirst
  split
  · exact ⟨rfl, rfl, rfl⟩
  · exact .refl s

theorem refuse_keepsMemory (s : State) (rights : Bool) (sa : SA) (w : Nat) (k : RqKind) (src island : Nat) :
    KeepsMemory s (refuse s rights sa w k src island) := by
  cases rights
  · exact KeepsMemory.trans (t := { s with region := { s.region with unmappedCount := s.region.unmappedCount + 1 } })
      ⟨rfl, rfl, rfl⟩ (raiseFirst_keepsMemory _ _ _ _)
  · exact KeepsMemory.trans (t := { s with region := { s.region with rightsCount := s.region.rightsCount + 1 } })
      ⟨rfl, rfl, rfl⟩ (raiseFirst_keepsMemory _ _ _ _)

theorem portAnswer_keepsMemory (s : State) (m : HostMsg) (op : ReqOp) (sa : SA) : KeepsMemory s (portAnswer s m op sa) := by
  unfold portAnswer
  split
  · exact .refl s
  split
  · exact ⟨rfl, rfl, rfl⟩
  · exact ⟨rfl, rfl, rfl⟩

theorem hostUnmapped_keepsMemory (s : State) (m : HostMsg) (op : ReqOp) (p : Nat) : KeepsMemory s (hostUnmapped s m op p) :=
  (refuse_keepsMemory s _ _ _ _ _ _).trans (portAnswer_keepsMemory _ m op _)

/-- No window of this device matches the address, or the rights of the one that does refuse a host's request (R38, R42). -/
def NotAllowed (s : State) (op : ReqOp) (dla : DLA) : Prop :=
  windowAt s dla = none ∨ ∃ w, windowAt s dla = some w ∧ rightsOk (winOf s w) .hostSocket op = false

theorem Noted.notAllowed {s t : State} (h : Noted s t) (op : ReqOp) (dla : DLA) :
    NotAllowed t op dla ↔ NotAllowed s op dla := by
  simp only [NotAllowed, h.windowAt_eq, h.winOf_eq]

theorem hostHome_refused {s : State} {m : HostMsg} {op : ReqOp} {dla : DLA} (p : Nat) (sa : SA) (data : Line) (be : BitVec 64)
    (poison : Bool) (h : NotAllowed s op dla) :
    KeepsMemory s (hostHome s m op p sa (devId s) dla data be poison) := by
  have hc := originClass_noted s m.link op (devId s) dla
  unfold hostHome
  dsimp only
  rw [if_pos hc.devId_eq.symm, hc.windowAt_eq]
  obtain h | ⟨w, hw, hr⟩ := h
  · rw [h]
    exact hc.keepsMemory.trans (hostUnmapped_keepsMemory _ m op p)
  · rw [hw]
    dsimp only
    rw [hc.winOf_eq, hr]
    exact hc.keepsMemory.trans ((refuse_keepsMemory _ _ _ _ _ _ _).trans (portAnswer_keepsMemory _ m op sa))

/-- A host request of this device's memory that is refused. -/
def HostRefused (s : State) (m : HostMsg) (op : ReqOp) (p : Nat) (sa : SA) (dla : DLA) : Prop :=
  presented s = true ∧ memberPort s m.link m.member = some p ∧ ingressFull s m.link m.member op = false ∧
  saOfMsg s m = some sa ∧ homeOf s sa = some (devId s, dla) ∧ NotAllowed s op dla

theorem Noted.hostRefused {s t : State} (h : Noted s t) (m : HostMsg) (op : ReqOp) (p : Nat) (sa : SA) (dla : DLA) :
    HostRefused t m op p sa dla ↔ HostRefused s m op p sa dla := by
  have hsa := h.saOfMsg_eq m
  obtain ⟨c, r, f, e, o, b, -, rfl⟩ := h
  rw [HostRefused, hsa]
  exact Iff.rfl

theorem hostRequest_refused {s : State} {m : HostMsg} {op : ReqOp} {p : Nat} {sa : SA} {dla : DLA} (data : Line)
    (be : BitVec 64) (poison : Bool) (h : HostRefused s m op p sa dla) :
    KeepsMemory s (hostRequest s m op data be poison) := by
  obtain ⟨hpres, hport, hfull, hsa, hh, hw⟩ := h
  have hc := hostCounted_noted s m
  rw [hostRequest_presented data be poison hpres hport hfull hsa hh]
  split
  · exact .refl s
  split
  · exact hc.keepsMemory.trans (hostUnmapped_keepsMemory _ m op p)
  · rw [← hc.devId_eq]
    exact hc.keepsMemory.trans (hostHome_refused p sa data be poison ((hc.notAllowed op dla).mpr hw))

theorem hostWrite_refused {s : State} {m : HostMsg} {op : ReqOp} {p : Nat} {sa : SA} {dla : DLA} (data : Line)
    (be : BitVec 64) (poison : Bool) (h : HostRefused s m op p sa dla) (hsock : socketEntry s m.link sa = none) :
    KeepsMemory s (hostWrite s m op data be poison) := by
  have hn := poisonNoted_noted s m poison
  have ⟨_, _, _, hsa, _⟩ := h
  rw [hostWrite_request op data be poison hsa hsock]
  exact hn.keepsMemory.trans (hostRequest_refused data be poison ((hn.hostRefused m op p sa dla).mpr h))

/-- Settles O23, by what the refusal of a host request leaves alone. -/
theorem refusedHostRequestLeavesTheMemory : Obligations.RefusedHostRequestLeavesTheMemory := by
  unfold Obligations.RefusedHostRequestLeavesTheMemory
  intro s m i op mv p sa dla data be poison hi ha hpres hport hfull hsa hh hsock hw
  have h : HostRefused s m op p sa dla := ⟨hpres, hport, hfull, hsa, hh, hw⟩
  have read : ∃ t, act s (fun s => hostRequest s m op 0 0 false) = .next t ∧ KeepsMemory s t :=
    ⟨_, act_sameTime s _ ha, hostRequest_refused 0 0 false h⟩
  have write : ∀ be, ∃ t, act s (fun s => hostWrite s m op data be poison) = .next t ∧ KeepsMemory s t :=
    fun be => ⟨_, act_sameTime s _ ha, hostWrite_refused data be poison h hsock⟩
  obtain ⟨rfl, rfl⟩ | ⟨rfl, rfl⟩ | ⟨rfl, rfl⟩ | ⟨rfl, rfl⟩ | ⟨rfl, rfl⟩ := hi
  · exact read
  · exact read
  · exact read
  · exact write _
  · exact write be

end Sys2Proof.Machine
end

section
/-!
Waits at a bench, accesses of non-caching requesters and responses that leave (O22): what each command does in each of its cases
(R42, R43, R117, R122 to R125, R132, R150, R296).
-/

namespace Sys2Proof.Machine

-- ===== the end of a hold and the eviction rate (R117, R122, R123) =====

theorem doHoldExpiry_ended {s : State} {id : Nat} {r : Req} (hr : reqOf s id = some r) (hp : r.phase = .hold)
    (hh : held s r.dla = false) : doHoldExpiry s id = run (toPhase s id .line) := by
  simp only [doHoldExpiry, hr, hp, hh, beq_self_eq_true, Bool.not_false, Bool.and_self, if_true]

theorem doHoldExpiry_waiting {s : State} {id : Nat} {r : Req} (hr : reqOf s id = some r) (hp : r.phase = .line) :
    doHoldExpiry s id = run s := by
  have hn : (Phase.line == Phase.hold) = false := rfl
  simp only [doHoldExpiry, hr, hp, hn, Bool.false_and, Bool.false_eq_true, if_false, beq_self_eq_true, if_true]

/-- A new millisecond of the count of evictions. -/
def evictNoted (s : State) : State := { s with snoop := { s.snoop with evictMs := s.snoop.evictions } }

theorem doEvictionRate_exceeds {s : State} (h : s.snoop.evictThreshold.toNat < (s.snoop.evictions - s.snoop.evictMs).toNat)
    (hn : s.snoop.evictThreshold ≠ 0) : doEvictionRate s = raise (evictNoted s) 0x203 164 [] :=
  if_pos ⟨fun h0 => hn (BitVec.eq_of_toNat_eq h0), h⟩

theorem doEvictionRate_within {s : State}
    (h : s.snoop.evictThreshold = 0 ∨ (s.snoop.evictions - s.snoop.evictMs).toNat ≤ s.snoop.evictThreshold.toNat) :
    doEvictionRate s = evictNoted s := by
  refine if_neg fun ⟨hn, hlt⟩ => ?_
  obtain h | h := h
  · exact hn (by rw [h]; rfl)
  · exact Nat.not_le.mpr hlt h

-- ===== accesses of non-caching requesters (R42, R43, R124, R125) =====

/-- The source that the record of a refused access names (log entry 100). -/
def ncSource (rq : NcReq) : Nat := if rq.rqk = .management then 0xFFFF else rq.queue.toNat

theorem ncSource_eq (rq : NcReq) : (if rq.rqk == .management then 0xFFFF else rq.queue.toNat) = ncSource rq := by
  simp only [ncSource, beq_iff_eq]

section NonCaching

variable {s : State} {rq : NcReq} {op : ReqOp} (data : Line) (be : BitVec 64) (poison : Bool)

theorem ncAccess_joins {dla : DLA} {w : WinId} (h : NcReady s rq op dla w) :
    ncAccess s rq op data be poison = ncJoined s rq op dla w data be poison := by
  obtain ⟨-, hp, hh, hw, hr⟩ := h
  simp only [ncAccess, ncIssue, hp, hh, hw, hr, Bool.not_true, Bool.false_eq_true, if_false, if_true]
  rfl

variable (hp : presented s = true)
include hp

/-- A read or write takes no reservation along. -/
theorem ncAccess_sent {d : DevId} {dla : DLA} (hop : leaveResv s op rq.queue = s) (hh : homeOf s rq.sa = some (d, dla))
    (hd : d ≠ devId s) : ncAccess s rq op data be poison =
      sendReq s d op .mgmt rq.rqk 0 .ash .ash none rq.sa data be poison rq.queue rq.epoch := by
  simp only [ncAccess, ncIssue, hp, hh, hd, hop, Bool.not_true, Bool.false_eq_true, if_false]

theorem ncAccess_noRights {dla : DLA} {w : WinId} (hh : homeOf s rq.sa = some (devId s, dla)) (hw : windowAt s dla = some w)
    (hr : rightsOk (winOf s w) rq.rqk op = false) : ncAccess s rq op data be poison =
      emit (refuse s true rq.sa w.toNat rq.rqk (ncSource rq) 164) (.mgmtData rq.sa 0 (mgmtStatus (some .rights)) false) := by
  simp only [ncAccess, ncIssue, hp, hh, hw, hr, ncSource_eq, Bool.not_true, Bool.not_false, Bool.false_eq_true, if_false, if_true]

theorem ncAccess_unmapped
    (h : homeOf s rq.sa = none ∨ ∃ dla, homeOf s rq.sa = some (devId s, dla) ∧ windowAt s dla = none) :
    ncAccess s rq op data be poison =
      emit (refuse s false rq.sa 0xFF rq.rqk (ncSource rq) 164) (.mgmtData rq.sa 0 (mgmtStatus (some .unmapped)) false) := by
  obtain hh | ⟨dla, hh, hw⟩ := h
  · simp only [ncAccess, ncIssue, hp, hh, ncSource_eq, Bool.not_true, Bool.false_eq_true, if_false]
  · simp only [ncAccess, ncIssue, hp, hh, hw, ncSource_eq, Bool.not_true, Bool.false_eq_true, if_false, if_true]

end NonCaching

-- ===== responses that leave (R132, R150, R296) =====

/-- What leaves for a response in state `u`: an acknowledgement, or the response with the DevLoad of that moment. -/
def leaving (u : State) (r : Resp) : Out :=
  if r.kind = .conflictAck then .conflictAck r.link r.member r.sa else .resp { r with devload := leavingLoad u r }

/-- A response that has left; `req` still waits for its end. -/
def markLeft (t : State) (id : Nat) : State := { t with port := { t.port with
  resp := mapIf (fun x => x.id == id) (fun x => { x with left := true }) t.port.resp } }

theorem doHostEgress_leaves {s : State} {id p : Nat} {r : Resp} (hf : s.port.resp.find? (fun x => x.id == id) = some r)
    (hport : memberPort s r.link r.member = some p) (hleft : r.left = false) (hmay : mayLeave s r = true)
    (hup : memberUp s r.link r.member = true) (hsend : sending s p r = true) (hfirst : egressFirst s p r = true)
    (u t : State) (hu : u = account (countDev s 0x106 (1 + r.link.toNat)) r p) (ht : t = emit u (leaving u r)) :
    doHostEgress s id = if r.req.isSome then markLeft t id else dropResp t id := by
  have hgo : ¬ (r.left || !mayLeave s r || !memberUp s r.link r.member || !sending s p r || !egressFirst s p r) = true := by
    simp only [hleft, hmay, hup, hsend, hfirst, Bool.not_true, Bool.or_self, Bool.false_eq_true, not_false_eq_true]
  unfold doHostEgress
  rw [hf]
  dsimp only
  rw [hport]
  dsimp only
  rw [if_neg hgo, ← hu, ht, leaving]
  split
  · rename_i hq
    simp only [hq, Option.isSome_none, Bool.false_eq_true, if_false]
    split
    · rename_i hk
      rw [if_pos hk]
    · rename_i hk
      rw [if_neg hk]
  · rename_i hq
    simp only [hq, Option.isSome_some, if_true]
    split
    · rename_i hk
      rw [if_pos hk]
      rfl
    · rename_i hk
      rw [if_neg hk]
      rfl

/-- Settles O22, by what each command does in each of its cases. -/
theorem benchWaitsAndResponsesComplete : Obligations.BenchWaitsAndResponsesComplete := by
  unfold Obligations.BenchWaitsAndResponsesComplete
  refine ⟨?hold, ?evictions, ?ncRead, ?ncWrite, ?ncAway, ?egress⟩
  case hold =>
    intro s id r ha hr
    have he : exec (.holdExpiry id) s = .next (sameTime s (doHoldExpiry s id)) := act_sameTime s (fun s => doHoldExpiry s id) ha
    exact ⟨fun hp hh => by rw [he, doHoldExpiry_ended hr hp hh], fun hp => by rw [he, doHoldExpiry_waiting hr hp]⟩
  case evictions =>
    intro s ha
    have he : exec .evictionRateCheck s = .next (sameTime s (doEvictionRate s)) := act_sameTime s doEvictionRate ha
    exact ⟨fun h hn => by rw [he, doEvictionRate_exceeds h hn]; rfl, fun h => by rw [he, doEvictionRate_within h]; rfl⟩
  case ncRead =>
    intro s rq dla w h
    exact (act_sameTime s (fun s => ncAccess s rq .ncRead 0 0 false) h.1).trans (by rw [ncAccess_joins 0 0 false h])
  case ncWrite =>
    rintro s rq dla w data be poison op rfl h
    exact (act_sameTime s (fun s => ncAccess s rq _ data be poison) h.1).trans (by rw [ncAccess_joins data be poison h])
  case ncAway =>
    intro s rq op data be poison i ha hp hi
    have he : exec i s = .next (sameTime s (ncAccess s rq op data be poison)) := by
      obtain ⟨rfl, rfl, rfl, rfl, rfl⟩ | ⟨rfl, rfl⟩ := hi
      · exact act_sameTime s (fun s => ncAccess s rq .ncRead 0 0 false) ha
      · exact act_sameTime s (fun s => ncAccess s rq _ data be poison) ha
    have hresv : leaveResv s op rq.queue = s := by
      obtain ⟨-, rfl, -⟩ | ⟨-, rfl⟩ := hi
      · rfl
      · split <;> rfl
    rw [he]
    refine ⟨fun d dla hh hd => ?_, fun dla w hh hw hr => ?_, fun h => ?_⟩
    · rw [ncAccess_sent data be poison hp hresv hh hd]
    · rw [ncAccess_noRights data be poison hp hh hw hr, ncSource]
    · rw [ncAccess_unmapped data be poison hp h, ncSource]
  case egress =>
    intro s t u id p r ha hf hport hleft hmay hup hsend hfirst hu ht
    have he : exec (.hostResponseEgress id) s = .next (sameTime s (doHostEgress s id)) :=
      act_sameTime s (fun s => doHostEgress s id) ha
    rw [he, doHostEgress_leaves hf hport hleft hmay hup hsend hfirst u t hu ht]
    refine ⟨fun hq => ?_, fun hq => ?_⟩
    · rw [hq]; rfl
    · rw [if_pos hq]; rfl

end Sys2Proof.Machine
end

section
/-!
The set index, the block and the line key (O7): R60 inverts R59, and the numbers that R59 and R106 give.
-/

namespace Sys2Proof.Machine

-- ===== the set index and the block (R59, R60) =====

/-- The shifted tag that R59 mixes into the set index. -/
def tagMix (hi : BitVec 10) : BitVec 23 := (hi.setWidth 23 <<< 13) ^^^ (hi.setWidth 23 <<< 3)

/-- The set index that holds a bench and a local set (R60). -/
def setOf (b : Bench) (ls : BitVec 15) : BitVec 23 := ls ++ (b ^^^ ls.setWidth 8 ^^^ (ls >>> 8).setWidth 8)

theorem setOfBlk_eq_xor (blk : BitVec 33) : setOfBlk blk = blk.setWidth 23 ^^^ tagMix (tagOfBlk blk) :=
  BitVec.xor_assoc _ _ _

theorem blkOf_eq_append (b : Bench) (ls : BitVec 15) (hi : BitVec 10) :
    blkOf b ls hi = hi ++ (setOf b ls ^^^ tagMix hi) := by
  have hset : setOf b ls = (ls.setWidth 23 <<< 8) ||| (b ^^^ ls.setWidth 8 ^^^ (ls >>> 8).setWidth 8).setWidth 23 :=
    (BitVec.setWidth_eq _).symm.trans BitVec.setWidth_append_eq_shiftLeft_setWidth_or
  rw [← BitVec.setWidth_eq (hi ++ (setOf b ls ^^^ tagMix hi) : BitVec 33), BitVec.setWidth_append_eq_shiftLeft_setWidth_or,
    hset, tagMix, ← BitVec.xor_assoc]
  rfl

theorem tagOfBlk_append (hi : BitVec 10) (lo : BitVec 23) : tagOfBlk (hi ++ lo) = hi :=
  BitVec.setWidth_ushiftRight_eq_extractLsb.trans BitVec.extractLsb'_append_eq_left

theorem setOfBlk_blkOf (b : Bench) (ls : BitVec 15) (hi : BitVec 10) : setOfBlk (blkOf b ls hi) = setOf b ls := by
  rw [blkOf_eq_append, setOfBlk_eq_xor, tagOfBlk_append, BitVec.setWidth_append_eq_right, BitVec.xor_assoc, BitVec.xor_self,
    BitVec.xor_zero]

theorem lsOf_setOf (b : Bench) (ls : BitVec 15) : (setOf b ls >>> 8).setWidth 15 = ls :=
  BitVec.setWidth_ushiftRight_eq_extractLsb.trans BitVec.extractLsb'_append_eq_left

/-- Mixing the same two words in again takes them out. -/
theorem xor_xor_cancel {w : Nat} (x y z : BitVec w) : x ^^^ y ^^^ z ^^^ y ^^^ z = x := by
  rw [BitVec.xor_assoc x, BitVec.xor_assoc, BitVec.xor_assoc x, BitVec.xor_self, BitVec.xor_zero]

/-- The middle and the upper byte of a set index are those of its local set. -/
theorem benchOfSet_eq (i : BitVec 23) : benchOfSet i = i.setWidth 8 ^^^ ((i >>> 8).setWidth 15).setWidth 8 ^^^
    ((i >>> 8).setWidth 15 >>> 8).setWidth 8 := by
  have hmid : ((i >>> 8).setWidth 15).setWidth 8 = (i >>> 8).setWidth 8 := BitVec.setWidth_setWidth_of_le _ (by decide)
  have hup : ((i >>> 8).setWidth 15 >>> 8).setWidth 8 = (i >>> 16).setWidth 8 := by
    apply BitVec.eq_of_toNat_eq
    simp only [BitVec.toNat_setWidth, BitVec.toNat_ushiftRight, Nat.shiftRight_eq_div_pow]
    omega
  rw [hmid, hup, benchOfSet]

theorem benchOfSet_setOf (b : Bench) (ls : BitVec 15) : benchOfSet (setOf b ls) = b := by
  have hlow : (setOf b ls).setWidth 8 = b ^^^ ls.setWidth 8 ^^^ (ls >>> 8).setWidth 8 := BitVec.setWidth_append_eq_right
  rw [benchOfSet_eq, lsOf_setOf, hlow, xor_xor_cancel]

/-- The set index follows from its bench and its local set. -/
theorem setOf_benchOfSet (i : BitVec 23) : setOf (benchOfSet i) ((i >>> 8).setWidth 15) = i := by
  rw [setOf, benchOfSet_eq, xor_xor_cancel, BitVec.setWidth_ushiftRight_eq_extractLsb, BitVec.setWidth_eq_extractLsb' (by decide)]
  exact BitVec.extractLsb'_append_extractLsb'

theorem tagOfBlk_append_low (blk : BitVec 33) : (tagOfBlk blk ++ blk.setWidth 23 : BitVec 33) = blk := by
  rw [tagOfBlk, BitVec.setWidth_ushiftRight_eq_extractLsb, BitVec.setWidth_eq_extractLsb' (by decide)]
  exact BitVec.extractLsb'_append_extractLsb'

theorem blkOf_benchOfBlk (blk : BitVec 33) : blkOf (benchOfBlk blk) (lsOfBlk blk) (tagOfBlk blk) = blk := by
  rw [blkOf_eq_append, benchOfBlk, lsOfBlk, setOf_benchOfSet, setOfBlk_eq_xor, BitVec.xor_assoc, BitVec.xor_self,
    BitVec.xor_zero, tagOfBlk_append_low]

-- ===== the numbers that R59 and R106 give =====

theorem toNat_tagOfBlk (blk : BitVec 33) : (tagOfBlk blk).toNat = blk.toNat / 2 ^ 23 := by
  have := blk.isLt
  simp only [tagOfBlk, BitVec.toNat_setWidth, BitVec.toNat_ushiftRight, Nat.shiftRight_eq_div_pow]
  omega

theorem toNat_blkOfDla (dla : DLA) : (blkOfDla dla).toNat = dla.toNat / 2 ^ 12 := by
  have := dla.isLt
  simp only [blkOfDla, BitVec.toNat_setWidth, BitVec.toNat_ushiftRight, Nat.shiftRight_eq_div_pow]
  omega

theorem toNat_setOfBlk (blk : BitVec 33) : (setOfBlk blk).toNat =
    blk.toNat % 2 ^ 23 ^^^ (tagOfBlk blk).toNat * 2 ^ 13 ^^^ (tagOfBlk blk).toNat * 2 ^ 3 := by
  have := (tagOfBlk blk).isLt
  have shifted (n : Nat) (hn : n ≤ 13) : ((tagOfBlk blk).setWidth 23 <<< n).toNat = (tagOfBlk blk).toNat * 2 ^ n := by
    have hlt : (tagOfBlk blk).toNat * 2 ^ n < 2 ^ 23 := calc
      (tagOfBlk blk).toNat * 2 ^ n ≤ (tagOfBlk blk).toNat * 2 ^ 13 := Nat.mul_le_mul_left _ (Nat.pow_le_pow_right (by decide) hn)
      _ < 2 ^ 23 := by omega
    rw [BitVec.toNat_shiftLeft, Nat.shiftLeft_eq, BitVec.toNat_setWidth_of_le (by decide), Nat.mod_eq_of_lt hlt]
  rw [setOfBlk, BitVec.toNat_xor, BitVec.toNat_xor, BitVec.toNat_setWidth, shifted 13 (by decide), shifted 3 (by decide)]

theorem toNat_lsOfBlk (blk : BitVec 33) : (lsOfBlk blk).toNat = (setOfBlk blk).toNat / 256 := by
  have := (setOfBlk blk).isLt
  simp only [lsOfBlk, BitVec.toNat_setWidth, BitVec.toNat_ushiftRight, Nat.shiftRight_eq_div_pow]
  omega

theorem toNat_benchOfSet (i : BitVec 23) : (benchOfSet i).toNat =
    (i.toNat % 256) ^^^ (i.toNat / 256 % 256) ^^^ (i.toNat / 65536) := by
  have hup : i.toNat / 65536 % 256 = i.toNat / 65536 := Nat.mod_eq_of_lt (by have := i.isLt; omega)
  simp only [benchOfSet, BitVec.toNat_xor, BitVec.toNat_setWidth, BitVec.toNat_ushiftRight, Nat.shiftRight_eq_div_pow,
    Nat.reducePow, hup]

theorem toNat_append_eq_add {m n : Nat} (x : BitVec m) (y : BitVec n) : (x ++ y).toNat = x.toNat * 2 ^ n + y.toNat := by
  rw [BitVec.toNat_append, ← Nat.shiftLeft_add_eq_or_of_lt y.isLt, Nat.shiftLeft_eq]

theorem lineKey_eq_append (dla : DLA) : lineKey dla = lsOfDla dla ++ tagOfDla dla ++ BitVec.ofNat 6 (secOfDla dla) := by
  have hsec : (BitVec.ofNat 6 (secOfDla dla)).setWidth 31 = BitVec.ofNat 31 (secOfDla dla) := by
    apply BitVec.eq_of_toNat_eq
    simp only [BitVec.toNat_setWidth, BitVec.toNat_ofNat, secOfDla]
    omega
  rw [← BitVec.setWidth_eq (lsOfDla dla ++ tagOfDla dla ++ BitVec.ofNat 6 (secOfDla dla) : BitVec 31),
    BitVec.setWidth_append_append_eq_shiftLeft_setWidth_or, hsec]
  rfl

theorem toNat_lineKey (dla : DLA) : (lineKey dla).toNat =
    (lsOfDla dla).toNat * 2 ^ 16 + (tagOfDla dla).toNat * 2 ^ 6 + dla.toNat / 2 ^ 6 % 64 := by
  rw [lineKey_eq_append, toNat_append_eq_add, toNat_append_eq_add, BitVec.toNat_ofNat, secOfDla]
  omega

theorem sfSet_eq (key : BitVec 31) : sfSet key =
    ((key.toNat / 2 ^ 11) ^^^ (key.toNat / 2 ^ 14) ^^^ (key.toNat / 2 ^ 17)) % 8 * 2 ^ 11 + key.toNat % 2 ^ 11 := by
  simp only [sfSet, BitVec.toNat_xor, BitVec.toNat_ushiftRight, Nat.shiftRight_eq_div_pow, Nat.reducePow]

theorem toNat_sfTag (key : BitVec 31) : (sfTag key).toNat = key.toNat / 2 ^ 11 := by
  have := key.isLt
  simp only [sfTag, BitVec.toNat_setWidth, BitVec.toNat_ushiftRight, Nat.shiftRight_eq_div_pow]
  omega

/-- Settles O7, by the set index, which R59 mixes and R60 unmixes. -/
theorem setHashAndLineKey : Obligations.SetHashAndLineKey := by
  unfold Obligations.SetHashAndLineKey
  refine ⟨?_, blkOf_benchOfBlk, fun b ls hi => ⟨?_, ?_, ?_⟩, toNat_lineKey, ?_⟩
  · rintro dla blk hi lo s rfl rfl rfl rfl
    rw [tagOfDla, benchOfDla, lsOfDla, benchOfBlk, toNat_lsOfBlk, toNat_benchOfSet, toNat_setOfBlk, toNat_tagOfBlk,
      toNat_blkOfDla]
    exact ⟨rfl, rfl, rfl⟩
  · rw [benchOfBlk, setOfBlk_blkOf, benchOfSet_setOf]
  · rw [lsOfBlk, setOfBlk_blkOf, lsOf_setOf]
  · rw [blkOf_eq_append, tagOfBlk_append]
  · rintro key fold rfl
    exact ⟨sfSet_eq key, toNat_sfTag key⟩

end Sys2Proof.Machine
end

section
/-!
The state after a reset (O4): what a machine at the start of boot holds, and that neither what a reset keeps nor the entry into ROM
adds to what the reset clears (R67, R361, R451, Table 12-4).
-/

namespace Sys2Proof.Machine

theorem start_cleared (straps : Straps) : Cleared (State.start straps) :=
  ⟨rfl, rfl, rfl, rfl, rfl, rfl, rfl, rfl, rfl, rfl, rfl, rfl, rfl, rfl, rfl⟩

/-- What flash, the fuses and the sensors keep is not among what a reset clears. -/
theorem flashOnly_cleared (s : State) (straps : Straps) : Cleared (flashOnly s straps) := start_cleared straps

theorem keptOver_cleared {t : State} (s : State) (time : Bool) (h : Cleared t) : Cleared (keptOver s t time) := h

theorem countReset_cleared {s : State} (k : ResetKind) (n : Nat) (h : Cleared s) : Cleared (countReset s k n) := h

theorem enterRom_cleared {s : State} (h : Cleared s) : Cleared (enterRom s) := h

@[simp] theorem enterRom_stage (s : State) : (enterRom s).dev.stage = .rom := rfl

/-- Both resets end in the entry into ROM. -/
theorem doPowerOn_cleared (s : State) (straps : Straps) :
    Cleared (doPowerOn s straps) ∧ (doPowerOn s straps).dev.stage = .rom :=
  ⟨enterRom_cleared (flashOnly_cleared _ straps), enterRom_stage _⟩

theorem wholeReset_cleared (s : State) (k : ResetKind) (straps : Straps) (pin : Bool) :
    Cleared (wholeReset s k straps pin) ∧ (wholeReset s k straps pin).dev.stage = .rom :=
  ⟨enterRom_cleared (countReset_cleared k (resetCode k) (keptOver_cleared _ (k != .cold) (flashOnly_cleared _ straps))),
    enterRom_stage _⟩

/-- Settles O4, by what the start of boot holds and the operations of a reset leave alone. -/
theorem resetState : Obligations.ResetState := by
  unfold Obligations.ResetState
  exact ⟨⟨rfl, rfl, rfl, rfl, start_cleared _⟩, doPowerOn_cleared, wholeReset_cleared⟩

end Sys2Proof.Machine
end

section
/-!
Reads of HBM that return (O15): a set head to the requests of its set, a sector to the request that asked (R64 to R66, R255).
-/

namespace Sys2Proof.Machine

section HbmReads

variable {s : State}

/-- The head of a locked set ends the lock, whatever it reads. -/
theorem doSetHead_locked {t : State} {b : Bench} {ls : BitVec 15} {ok : Bool}
    (hlock : s.cache.setReads.contains (setKey b ls) = true) (hread : metaRead (unlockSet s b ls) b ls 0 = (t, ok)) :
    doSetHead s b ls = if ok then run (lockGone t b ls) else t := by
  simp only [doSetHead, hlock, hread, Bool.not_true, Bool.false_eq_true, if_false]
  cases ok with
  | true => rfl
  | false => rfl

variable {id : Nat} {r : Req} (hr : reqOf s id = some r) (hp : r.phase = .sector)
include hr hp

theorem doSectorRead_present {w : Nat} (hw : wayOfDla s r.dla = some w)
    (hv : (tagAt s (tagKey (benchOfDla r.dla) (lsOfDla r.dla) w)).valid.getLsbD (secOfDla r.dla) = true) :
    doSectorRead s id =
      run (afterSector (sectorRead s r.dla w (whoDetail r)).1 r w (sectorRead s r.dla w (whoDetail r)).2) := by
  simp only [doSectorRead, hr, hp, hw, hv, bne_self_eq_false, Bool.not_true, Bool.false_eq_true, if_false]

/-- No way of the set holds the sector any more. -/
theorem doSectorRead_gone (hgone : ∀ w, wayOfDla s r.dla = some w →
      (tagAt s (tagKey (benchOfDla r.dla) (lsOfDla r.dla) w)).valid.getLsbD (secOfDla r.dla) = false) :
    doSectorRead s id = run (toPhase s id .line) := by
  simp only [doSectorRead, hr, hp, bne_self_eq_false, Bool.false_eq_true, if_false]
  cases hw : wayOfDla s r.dla with
  | none => rfl
  | some w => simp only [hgone w hw, Bool.not_false, if_true]

end HbmReads

/-- Settles O15, by what each return finds: the lock of its set, the sector of its line. -/
theorem hbmReadsReturnToTheirRequests : Obligations.HbmReadsReturnToTheirRequests := by
  unfold Obligations.HbmReadsReturnToTheirRequests
  refine ⟨fun s t b ls ok ha hlock hread => ?head, fun s id r ha hr hp => ?sector⟩
  case head =>
    rw [← doSetHead_locked hlock hread]
    exact act_sameTime s (fun s => doSetHead s b ls) ha
  case sector =>
    have he : exec (.sectorReadReturn id) s = .next (sameTime s (doSectorRead s id)) :=
      act_sameTime s (fun s => doSectorRead s id) ha
    exact ⟨fun w hw hv => by rw [he, doSectorRead_present hr hp hw hv], fun hgone => by rw [he, doSectorRead_gone hr hp hgone]⟩

end Sys2Proof.Machine
end

section
/-!
Answers of expanders (O16): a read response, an acceptance and a completion timeout of a request that is outstanding (R71, R82, R154,
R156, R314, R316).
-/

namespace Sys2Proof.Machine

section ExpanderAnswers

variable {s : State} {x : XLink} {rid : Nat} {r : XReq} (hr : xreqOf s x rid = some r)
include hr

/-- The response to a read is counted, its poison is logged, a late one blames the link, and the bench that asked takes it. -/
theorem doXRead_read (hw : r.write = false) (data : Line) (poison : Bool) (load : BitVec 2) :
    doXRead s x rid data poison load = run (xRead
      (blameFor (if poison then notePoison (xAnswered s x r load).1 0 (xPort (xAnswered s x r load).1 x) r.sa
        else (xAnswered s x r load).1) r.purpose (xAnswered s x r load).2)
      x r (if poison then 0 else data) poison (xAnswered s x r load).2 (since s r.issued)) := by
  simp only [doXRead, hr, hw, Bool.false_eq_true, if_false]

theorem doXAccept_write (hw : r.write = true) (load : BitVec 2) :
    doXAccept s x rid load = run (xAccept
      (blameFor (xAnswered s x r load).1 r.purpose (xAnswered s x r load).2) x r (since s r.issued)) := by
  simp only [doXAccept, hr, hw, Bool.not_true, Bool.false_eq_true, if_false]

/-- What becomes of a request as old as the limit, and whether its link is lost with it. -/
theorem doXTimeout_old {t : State} (hold : s.port.xTimeout.toNat * 1000 ≤ since s r.issued)
    (ht : t = if r.write then xWriteAgain (xTimedOut s x r).1 x r else xReadLost (xTimedOut s x r).1 x r (since s r.issued)) :
    doXTimeout s x rid =
      if s.port.xLoss.toNat ≤ (xTimedOut s x r).2 then expanderDown t x (xPort t x) 6 0x12 else run t := by
  simp only [doXTimeout, hr, Nat.not_lt.mpr hold, if_false, ht]

end ExpanderAnswers

/-- Settles O16, by what an answer or a timeout of an outstanding request does. -/
theorem expanderAnswersReachTheirBench : Obligations.ExpanderAnswersReachTheirBench := by
  unfold Obligations.ExpanderAnswersReachTheirBench
  refine ⟨fun s x rid r data load ha hr hw => ?read, fun s x rid r load ha hr hw => ?accept,
    fun s t x rid r ha hr hold ht => ?timeout⟩
  case read =>
    have he (poison : Bool) : exec (.expanderReadResponse x ⟨rid, load⟩ data poison) s =
        .next (sameTime s (doXRead s x rid data poison load)) := act_sameTime s (fun s => doXRead s x rid data poison load) ha
    rw [he, he, doXRead_read hr hw, doXRead_read hr hw]
    exact ⟨rfl, rfl⟩
  case accept =>
    rw [← doXAccept_write hr hw]
    exact act_sameTime s (fun s => doXAccept s x rid load) ha
  case timeout =>
    have he : exec (.expanderCompletionTimeout x rid) s = .next (sameTime s (doXTimeout s x rid)) :=
      act_sameTime s (fun s => doXTimeout s x rid) ha
    rw [he, doXTimeout_old hr hold ht]
    exact ⟨fun h => by rw [if_neg (Nat.not_le.mpr h)], fun h => by rw [if_pos h]⟩

end Sys2Proof.Machine
end

section
/-!
The write buffer, the trackers and the sweep (O17): an entry drains and is freed, an answered request gives its tracker back, a bench
over its threshold sweeps (R80, R82, R83, R86, R177).
-/

namespace Sys2Proof.Machine

section WriteBuffer

variable {s : State} {b : Bench}

theorem doDrainTimeout_waited {slot : BitVec 6} {e : WEntry}
    (hf : (wEntries s b).find? (fun e => e.slot == slot && e.drain == .fresh) = some e) (hold : 250 ≤ since s e.alloc) :
    doDrainTimeout s b slot = run (startDrain s b slot) := by
  simp only [doDrainTimeout, hf, Nat.not_lt.mpr hold, if_false]

theorem doDrainComplete_accepted {slot : BitVec 6} {e : WEntry}
    (hf : (wEntries s b).find? (fun e => e.slot == slot && e.drain == .done) = some e) :
    doDrainComplete s b slot = run (wake (setW s b ((wEntries s b).filter (fun e => !(e.slot == slot && e.drain == .done))))
      (fun r => r.phase == .wbuf && atBench b r)) := by
  simp only [doDrainComplete, hf]

theorem doTrackerRelease_left {id : Nat} {r : Req} (hr : reqOf s id = some r) (hp : r.phase = .egress)
    (hgone : responseGone s r = true) : doTrackerRelease s id = run (dropReq { s with port := { s.port with
      resp := s.port.resp.filter (fun v => !(v.req == some id)) } } id) := by
  simp only [doTrackerRelease, hr, hp, hgone, beq_self_eq_true, Bool.and_self, if_true]

theorem doSweepStart_dirty (hp : presented s = true) (hon : s.cache.sweepOn = true) (hidle : (benchOf s b).sweeping = false)
    (hdirty : s.cache.sweepThreshold.toNat < dirtyBlocks s b) (hroom : (benchOf s b).pending.length < 8) :
    doSweepStart s b = setBench s b { benchOf s b with
      sweeping := true
      pending := (benchOf s b).pending ++ [deviceStep .sweep b (benchOf s b).sweepPos.toNat 64
        (min 1088 (64 + sweepSectors s b (benchOf s b).sweepPos.toNat))] } := by
  simp only [doSweepStart, hp, hon, hidle, Nat.not_le.mpr hdirty, Nat.not_le.mpr hroom, decide_false, Bool.not_true, Bool.or_self,
    Bool.false_eq_true, if_false]

end WriteBuffer

/-- Settles O17, by what each command does under its conditions. -/
theorem writeBufferAndTrackersComplete : Obligations.WriteBufferAndTrackersComplete := by
  unfold Obligations.WriteBufferAndTrackersComplete
  refine ⟨fun s b slot e ha hslot hf hold => ?drains, fun s b slot e ha hslot hf => ?freed, fun s id r ha hr hp hgone => ?tracker,
    fun s b ha hp hon hidle hdirty hroom => ?sweep⟩
  case drains =>
    rw [← doDrainTimeout_waited hf hold]
    exact actIf_sameTime _ s (fun s => doDrainTimeout s b slot) ha (decide_eq_true hslot)
  case freed =>
    rw [← doDrainComplete_accepted hf]
    exact actIf_sameTime _ s (fun s => doDrainComplete s b slot) ha (decide_eq_true hslot)
  case tracker =>
    rw [← doTrackerRelease_left hr hp hgone]
    exact act_sameTime s (fun s => doTrackerRelease s id) ha
  case sweep =>
    have he : exec (.sweepStart b) s = .next (sameTime s (doSweepStart s b)) := act_sameTime s (fun s => doSweepStart s b) ha
    rw [he, doSweepStart_dirty hp hon hidle hdirty hroom, sameTime_eq _ _ (setBench_pending ..) (setBench_now ..)]

end Sys2Proof.Machine
end

section
/-!
The start of maintenance (O18): the range and the set-and-way operations begin, or say why not, and the parameters take their values
while nothing runs (R90, R92, R93, R95, R96).
-/

namespace Sys2Proof.Machine

@[simp] theorem mswKey_entered (s : State) (acc : Accessor) : mswKey (entered s acc) = mswKey s := by
  simp only [mswKey, mswBench, mswSet, entered_cache]

@[simp] theorem tagAt_entered (s : State) (acc : Accessor) (k : Nat) : tagAt (entered s acc) k = tagAt s k := by
  simp only [tagAt, entered_cache, entered_rel]

-- ===== what a start answers (R90, R92, R93, R95) =====

theorem startRange_begins {s : State} (k : RangeKind) (hidle : s.cache.mOp = none) (h : s.cache.mbase.toNat ≤ s.cache.mlim.toNat) :
    startRange s k = (beginRange s k, .ok, 0) := by
  simp only [startRange, hidle, Nat.not_lt.mpr h, Option.isSome_none, Bool.false_eq_true, if_false]

theorem startRange_empty {s : State} (k : RangeKind) (hidle : s.cache.mOp = none) (h : s.cache.mlim.toNat < s.cache.mbase.toNat) :
    startRange s k = (s, .range, 0) := by
  simp only [startRange, hidle, h, Option.isSome_none, Bool.false_eq_true, if_false, if_true]

theorem startRange_busy {s : State} (k : RangeKind) (h : s.cache.mOp.isSome = true) : startRange s k = mBusy s := if_pos h

/-- An operation on a way that is no orphan starts; a disable needs a free entry of the retired-way list for a way that is new to
it. -/
theorem startSetWay_begins {s : State} (k : SwKind) (hidle : s.cache.mOp = none) (ho : (tagAt s (mswKey s)).state ≠ .orphan)
    (hroom : k = .disable → (tagAt s (mswKey s)).state = .retired ∨ s.cache.retiredList.length < 16384) :
    startSetWay s k = ({ s with cache := { s.cache with mOp := some (.setWay k .ok) } }, .ok, 0) := by
  have hfull : (k == .disable && (tagAt s (mswKey s)).state != .retired && decide (16384 ≤ s.cache.retiredList.length)) = false := by
    rw [Bool.eq_false_iff]
    simp only [ne_eq, Bool.and_eq_true, beq_iff_eq, bne_iff_ne, decide_eq_true_eq]
    rintro ⟨⟨hk, hnew⟩, hlen⟩
    exact (hroom hk).elim hnew (Nat.not_lt.mpr hlen)
  simp only [startSetWay, hidle, beq_eq_false_iff_ne.mpr ho, hfull, Option.isSome_none, Bool.false_eq_true, if_false]

theorem startSetWay_full {s : State} (hidle : s.cache.mOp = none) (ho : (tagAt s (mswKey s)).state ≠ .orphan)
    (hnew : (tagAt s (mswKey s)).state ≠ .retired) (hlen : 16384 ≤ s.cache.retiredList.length) :
    startSetWay s .disable = (s, .full, 0) := by
  simp only [startSetWay, hidle, beq_eq_false_iff_ne.mpr ho, bne_iff_ne.mpr hnew, hlen, Option.isSome_none, beq_self_eq_true,
    decide_true, Bool.and_self, Bool.false_eq_true, if_false, if_true]

theorem startSetWay_orphan {s : State} (k : SwKind) (hidle : s.cache.mOp = none) (ho : (tagAt s (mswKey s)).state = .orphan) :
    startSetWay s k = (s, .range, 0) := by
  simp only [startSetWay, hidle, ho, Option.isSome_none, beq_self_eq_true, Bool.false_eq_true, if_false, if_true]

theorem startSetWay_busy {s : State} (k : SwKind) (h : s.cache.mOp.isSome = true) : startSetWay s k = mBusy s := if_pos h

-- ===== the commands of the maintenance block =====

/-- The accessor of the maintenance block has the answer of its write, which BCH_MSTAT notes. -/
def mAnswered (acc : Accessor) (a : Ans) : State := replied acc a.2.1 a.2.2 (mNote a.2.1 a.1)

section MaintenanceBlock

variable {s : State} {acc : Accessor} (ha : alive s = true)
include ha

theorem exec_startRange (hpass : passes s acc (mGate 0) = true) :
    exec (.maintClean acc) s = .next (sameTime s (mAnswered acc (startRange (entered s acc) .clean))) ∧
    exec (.maintCleanInvalidate acc) s = .next (sameTime s (mAnswered acc (startRange (entered s acc) .cleanInvalidate))) := by
  have he (value : BitVec 32) : act s (fun s => maintFront s acc value) =
      .next (sameTime s (mAnswered acc (maintWrite (entered s acc) value))) := by
    rw [act_sameTime s _ ha, maintFront, front_passes s acc _ mNote _ hpass, mAnswered]
  exact ⟨he 1, he 2⟩

theorem exec_startUnlocked (hpass : passesWl s acc (mGate 4) = true) :
    exec (.maintInvalidate acc) s = .next (sameTime s (mAnswered acc (startRange (entered s acc) .invalidate))) ∧
    exec (.cleanInvalidateWay acc) s = .next (sameTime s (mAnswered acc (startSetWay (entered s acc) .cleanInvalidate))) ∧
    exec (.disableWay acc) s = .next (sameTime s (mAnswered acc (startSetWay (entered s acc) .disable))) ∧
    exec (.enableWay acc) s = .next (sameTime s (mAnswered acc (startSetWay (entered s acc) .enable))) := by
  have he (value : BitVec 32) : act s (fun s => maintxFront s acc value) =
      .next (sameTime s (mAnswered acc (maintxWrite true (entered s acc) value))) := by
    rw [act_sameTime s _ ha, maintxFront, frontWl_passes s acc _ mNote _ _ hpass, mAnswered]
  exact ⟨he 1, he 2, he 3, he 4⟩

theorem exec_maintParamWrite {reg : BitVec 2} (value : BitVec 64) (hreg : reg.toNat ≤ 2)
    (hpass : passes s acc (mGate (if reg = 0 then 0x08 else if reg = 1 then 0x10 else 0x18)) = true) :
    exec (.maintParamWrite acc reg value) s =
      .next (sameTime s (mAnswered acc (maintParamOp (entered s acc) reg.toNat value))) := by
  refine (actIf_sameTime _ s _ ha (decide_eq_true hreg)).trans ?_
  rw [front_passes s acc _ mNote _ hpass, mAnswered]

end MaintenanceBlock

-- ===== the parameters (R96) =====

theorem maintParamOp_takes {s : State} {reg : BitVec 2} (value : BitVec 64) (hidle : s.cache.mOp = none) :
    maintParamOp s reg.toNat value = ({ s with cache :=
      (if reg = 0 then { s.cache with mbase := (value.setWidth 45 >>> 12) <<< 12 }
       else if reg = 1 then { s.cache with mlim := (value.setWidth 45 >>> 12) <<< 12 }
       else { s.cache with msw := value.setWidth 27 }) }, .ok, 0) := by
  have hreg : reg = 0 ∨ reg = 1 ∨ reg = 2 ∨ reg = 3 := by bv_omega
  obtain rfl | rfl | rfl | rfl := hreg <;> simp only [maintParamOp, hidle, Option.isSome_none] <;> rfl

theorem maintParamOp_busy {s : State} (reg : Nat) (value : BitVec 64) (h : s.cache.mOp.isSome = true) :
    maintParamOp s reg value = (s, .quiesceRequired, 0) := if_pos h

/-- Settles O18, by what each start and each parameter write answers in the state entered. -/
theorem maintenanceOperationsStart : Obligations.MaintenanceOperationsStart := by
  unfold Obligations.MaintenanceOperationsStart
  refine ⟨fun s acc ha hpass => ?range, fun s acc ha hpass => ?unlocked, fun s acc reg value ha hreg hpass => ?params⟩
  case range =>
    obtain ⟨hclean, hcleanInv⟩ := exec_startRange ha hpass
    rw [← entered_cache s acc, hclean, hcleanInv]
    refine ⟨fun hidle h => ?_, fun hidle h => ?_, fun h => ?_⟩
    · rw [startRange_begins _ hidle h, startRange_begins _ hidle h]
      exact ⟨rfl, rfl⟩
    · rw [startRange_empty _ hidle h, startRange_empty _ hidle h]
      exact ⟨rfl, rfl⟩
    · rw [startRange_busy _ h, startRange_busy _ h]
      exact ⟨rfl, rfl⟩
  case unlocked =>
    obtain ⟨hinv, hcleanWay, hdisable, henable⟩ := exec_startUnlocked ha hpass
    have hway : ∀ i, i = Instr.cleanInvalidateWay acc ∨ i = .disableWay acc ∨ i = .enableWay acc →
        ∃ k, exec i s = .next (sameTime s (mAnswered acc (startSetWay (entered s acc) k))) := by
      rintro i (rfl | rfl | rfl)
      · exact ⟨_, hcleanWay⟩
      · exact ⟨_, hdisable⟩
      · exact ⟨_, henable⟩
    rw [← tagAt_entered s acc, ← mswKey_entered s acc, ← entered_cache s acc, hinv, hcleanWay, hdisable, henable]
    refine ⟨fun hidle h => ?_, fun hidle ho => ⟨?_, ?_, fun hroom => ?_, fun hnew hlen => ?_⟩, fun hidle ho i hi => ?_, fun h i hi => ?_⟩
    · rw [startRange_begins _ hidle h]; rfl
    · rw [startSetWay_begins .cleanInvalidate hidle ho nofun]; rfl
    · rw [startSetWay_begins .enable hidle ho nofun]; rfl
    · rw [startSetWay_begins .disable hidle ho fun _ => hroom]; rfl
    · rw [startSetWay_full hidle ho hnew hlen]; rfl
    · obtain ⟨k, he⟩ := hway i hi
      rw [he, startSetWay_orphan k hidle ho]; rfl
    · obtain rfl | hi := hi
      · rw [hinv, startRange_busy _ h]; rfl
      · obtain ⟨k, he⟩ := hway i hi
        rw [he, startSetWay_busy k h]; rfl
  case params =>
    rw [← entered_cache s acc, exec_maintParamWrite ha value hreg hpass]
    exact ⟨fun hidle => by rw [maintParamOp_takes value hidle]; rfl, fun h => by rw [maintParamOp_busy _ value h]; rfl⟩

end Sys2Proof.Machine
end

section
/-!
The end of maintenance (O19): a clean-invalidate of a way that has become an orphan completes with OK, where R93 has RANGE.
-/

namespace Sys2Proof.Machine

theorem eq_mk_true {α : Type} {p : α × Bool} (h : p.2 = true) : p = (p.1, true) := Prod.ext rfl h

/-- A clean-invalidate of way 0 of set 0 of bench 0 runs, and the way's block has become an orphan since it started. -/
def orphanedWay : State := { State.reset with
  dev := { State.reset.dev with stage := .memoryActive }
  cache := { CacheS.init with
    mOp := some (.setWay .cleanInvalidate .ok)
    tags := [(0, { TagRec.init with state := .orphan, valid := 1, dirty := 1 })]
    orphans := [0] } }

/-- The set, then the record, of the way have been read. -/
def orphanedSet : State × Bool := setRead orphanedWay (mswBench orphanedWay) (mswSet orphanedWay)
def orphanedRec : State × Bool :=
  recRead orphanedSet.1 (mswBench orphanedWay) (mswSet orphanedWay) (orphanedWay.cache.msw.toNat % 16)

/-- BCH_MSTAT.LASTERR after a command. -/
def lasterrAfter : Host.Outcome State Fault Refusal → Option DStatus
  | .next t => some t.cache.mLasterr
  | _ => none

/-- Its reads find no fault, and find the orphan. -/
theorem orphanedWay_reads : setLocked orphanedWay (mswBench orphanedWay) (mswSet orphanedWay) = false ∧
    orphanedSet.2 = true ∧ orphanedRec.2 = true ∧ (tagAt orphanedRec.1 (mswKey orphanedRec.1)).state = .orphan := by
  decide +kernel

/-- A clean-invalidate takes any way that is not valid as one with nothing to clean. -/
theorem setAndWayComplete_orphanedWay : lasterrAfter (exec .setAndWayComplete orphanedWay) = some .ok := by decide +kernel

theorem lasterr_setWayEnd_range :
    lasterrAfter (.next (sameTime orphanedWay (setWayEnd orphanedRec.1 .cleanInvalidate .range))) = some .range := by
  decide +kernel

/-- Refutes O19: a clean-invalidate whose way has become an orphan by the time its record is read completes with OK and leaves OK in
BCH_MSTAT.LASTERR; only a disable answers RANGE there. -/
theorem not_maintenanceOperationsEnd : ¬ Obligations.MaintenanceOperationsEnd := by
  unfold Obligations.MaintenanceOperationsEnd
  rintro ⟨-, -, hset, -⟩
  obtain ⟨hlock, hread, hrec, horphan⟩ := orphanedWay_reads
  obtain ⟨-, -, -, hrange, -⟩ := hset orphanedWay orphanedSet.1 orphanedRec.1 .cleanInvalidate .ok _ rfl rfl hlock
    (eq_mk_true hread) (eq_mk_true hrec) rfl
  have hok := setAndWayComplete_orphanedWay
  rw [hrange nofun horphan, lasterr_setWayEnd_range] at hok
  exact absurd hok (by decide)

end Sys2Proof.Machine
end

section
/-!
What answers a snoop (O21): the ways of a write-back, a BIRsp and a BIConflict to the home of their snoop, stray answers, and a
snoop whose time has passed (R112 to R115, R295, R335).
-/

namespace Sys2Proof.Machine

-- ===== write-backs (R113, R115, R335) =====

section Noted

variable {s t : State} (h : Noted s t)
include h

theorem Noted.presented_eq : presented t = presented s := by obtain ⟨c, r, f, e, o, b, -, rfl⟩ := h; rfl
theorem Noted.memberUp_eq (l : HLink) (m : BitVec 2) : memberUp t l m = memberUp s l m := by
  obtain ⟨c, r, f, e, o, b, -, rfl⟩ := h; rfl
theorem Noted.snoopOf_eq (hs : HostSock) (tag : BitVec 16) : snoopOf t hs tag = snoopOf s hs tag := by
  obtain ⟨c, r, f, e, o, b, -, rfl⟩ := h; rfl

end Noted

/-- A write-back that the port has completed; poison that came with it is logged. -/
def portCompleted (s : State) (m : HostMsg) (e : SnoopTab) (poison : Bool) : State :=
  pushResp (poisonNoted s m poison) (portResp (poisonNoted s m poison) m (.cmp .cmp) false e.sa)

theorem devId_portCompleted (s : State) (m : HostMsg) (e : SnoopTab) (poison : Bool) :
    devId (portCompleted s m e poison) = devId s := (poisonNoted_noted s m poison).devId_eq

theorem snoopOf_portCompleted (s : State) (m : HostMsg) (e : SnoopTab) (poison : Bool) (hs : HostSock) (tag : BitVec 16) :
    snoopOf (portCompleted s m e poison) hs tag = snoopOf s hs tag := (poisonNoted_noted s m poison).snoopOf_eq hs tag

/-- The way of a completed write-back to the home of its snoop. -/
def writeBackToHome (t : State) (e : SnoopTab) (hs : HostSock) (data : Line) (be : BitVec 64) (poison : Bool) : State :=
  if e.home = devId t then
    match snoopOf t hs e.tag with
    | some v => snoopWbHome t v data be poison
    | none => lateWrite t hs e.sa data be poison
  else peerSend t e.home (.rsp (snoopMsg t e (.snoopWb (be == BitVec.allOnes 64)) data be poison)) none

section WriteBack

variable {t : State} {e : SnoopTab} {hs : HostSock} (data : Line) (be : BitVec 64) (poison : Bool)

theorem writeBackToHome_performed {v : Snoop} (hh : e.home = devId t) (hv : snoopOf t hs e.tag = some v) :
    writeBackToHome t e hs data be poison = snoopWbHome t v data be poison := by
  rw [writeBackToHome, if_pos hh, hv]

theorem writeBackToHome_late (hh : e.home = devId t) (hv : snoopOf t hs e.tag = none) :
    writeBackToHome t e hs data be poison = lateWrite t hs e.sa data be poison := by
  rw [writeBackToHome, if_pos hh, hv]

theorem writeBackToHome_sent (hh : e.home ≠ devId t) : writeBackToHome t e hs data be poison =
    peerSend t e.home (.rsp (snoopMsg t e (.snoopWb (be == BitVec.allOnes 64)) data be poison)) none := if_neg hh

/-- A host write of a line whose snoop is outstanding at the socket is its write-back, whichever write it is. -/
theorem hostWrite_writeBack {s : State} {m : HostMsg} (op : ReqOp) {sa : SA} (hp : presented s = true)
    (hup : memberUp s m.link m.member = true) (hsa : saOfMsg s m = some sa) (hsock : socketEntry s m.link sa = some e) :
    hostWrite s m op data be poison =
      writeBackToHome (portCompleted s m e poison) e (hlinkOf s m.link).hsock data be poison := by
  have hn := poisonNoted_noted s m poison
  have hb : (saOfMsg (poisonNoted s m poison) m).bind (socketEntry (poisonNoted s m poison) m.link) = some e := by
    rw [hn.saOfMsg_eq, hsa, Option.bind_some, hn.socketEntry_eq, hsock]
  have hgo : ¬ (!memberUp (poisonNoted s m poison) m.link m.member ||
      !(presented (poisonNoted s m poison) || (poisonNoted s m poison).dev.stage == .containment)) = true := by
    simp only [hn.memberUp_eq, hup, hn.presented_eq, hp, Bool.true_or, Bool.not_true, Bool.or_self, Bool.false_eq_true,
      not_false_eq_true]
  rw [← hn.hlinkOf_eq m.link]
  unfold hostWrite
  extract_lets u
  rw [show u = poisonNoted s m poison from rfl, hb]
  exact if_neg hgo

end WriteBack

-- ===== BIRsp and BIConflict (R112, R114, R335) =====

/-- A BIRsp has freed the entry of its link's snoop table and is noted. -/
def birspTaken (s : State) (l : HLink) (e : SnoopTab) : State :=
  answered (tableFree (countFlit s l) e) (hlinkOf s l).hsock e.sa

section Answers

variable {s : State} {l : HLink} {mb : BitVec 2} {sa : SA} {e : SnoopTab} (hup : memberUp s l mb = true)
include hup

theorem doBirsp_home (rsp : BIRsp) (he : tableEntry (countFlit s l) l sa = some e) (hh : e.home = devId (birspTaken s l e)) :
    doBirsp s l mb sa rsp = homeBirsp (birspTaken s l e) (hlinkOf s l).hsock e.tag rsp := by
  simp only [doBirsp, hup, he, Bool.not_true, Bool.false_eq_true, if_false]
  exact if_pos hh

theorem doBirsp_sent (rsp : BIRsp) (he : tableEntry (countFlit s l) l sa = some e) (hh : e.home ≠ devId (birspTaken s l e)) :
    doBirsp s l mb sa rsp =
      peerSend (birspTaken s l e) e.home (.rsp (snoopMsg (birspTaken s l e) e (.birsp rsp) 0 0 false)) none := by
  simp only [doBirsp, hup, he, Bool.not_true, Bool.false_eq_true, if_false]
  exact if_neg hh

theorem doBirsp_stray (rsp : BIRsp) (he : tableEntry (countFlit s l) l sa = none) :
    doBirsp s l mb sa rsp = strayRsp (countFlit s l) (hlinkOf s l).hsock sa false := by
  simp only [doBirsp, hup, he, Bool.not_true, Bool.false_eq_true, if_false]

theorem doBiconflict_home (he : tableEntry s l sa = some e) (hh : e.home = devId s) :
    doBiconflict s l mb sa = conflictAck s l (hlinkOf s l).hsock sa := by
  simp only [doBiconflict, hup, he, hh, Bool.not_true, Bool.false_eq_true, if_false, if_true]

theorem doBiconflict_sent (he : tableEntry s l sa = some e) (hh : e.home ≠ devId s) :
    doBiconflict s l mb sa = peerSend s e.home (.rsp (snoopMsg s e .biConflict 0 0 false)) none := by
  simp only [doBiconflict, hup, he, hh, Bool.not_true, Bool.false_eq_true, if_false]

theorem doBiconflict_stray (he : tableEntry s l sa = none) :
    doBiconflict s l mb sa = conflictAck (strayRsp s (hlinkOf s l).hsock sa true) l (hlinkOf s l).hsock sa := by
  simp only [doBiconflict, hup, he, Bool.not_true, Bool.false_eq_true, if_false]

end Answers

-- ===== timeouts and unsupported opcodes (R115, R295) =====

theorem doBisnpTimeout_passed {s : State} {id : Nat} {v : Snoop} (hv : s.snoop.snoops.find? (fun v => v.id == id) = some v)
    (ht : v.timeout.toNat * 1000 ≤ since s v.issued) : doBisnpTimeout s id = run (snoopTimeout s v) := by
  rw [doBisnpTimeout, hv]
  exact if_neg (Nat.not_lt.mpr ht)

theorem doUnsupported_up {s : State} {m : HostMsg} (rd : Bool) (hup : memberUp s m.link m.member = true) :
    doUnsupported s m rd = portAnswer (violation s (hlinkOf s m.link).hsock false) m
      (if rd then .memRd .i else .memWr .i) (refusedSa s m) := by
  rw [doUnsupported, hup, Bool.not_true, if_neg Bool.false_ne_true]

/-- Settles O21, by the way of each answer: to the snoop here, to its home device, or to the count of strays. -/
theorem snoopAnswersReachTheHome : Obligations.SnoopAnswersReachTheHome := by
  unfold Obligations.SnoopAnswersReachTheHome
  refine ⟨?writeBack, ?birsp, ?biconflict, ?timeout, ?unsupported⟩
  case writeBack =>
    rintro s t m sa e data be poison ha hp hup hsa hsock rfl i hi
    have he : exec i s = .next (sameTime s
        (writeBackToHome (portCompleted s m e poison) e (hlinkOf s m.link).hsock data be poison)) := by
      have write : ∀ op, act s (fun s => hostWrite s m op data be poison) = .next (sameTime s
          (writeBackToHome (portCompleted s m e poison) e (hlinkOf s m.link).hsock data be poison)) := fun op =>
        (act_sameTime s _ ha).trans (by rw [hostWrite_writeBack data be poison op hp hup hsa hsock])
      obtain rfl | ⟨mv, rfl⟩ | ⟨rfl, mv, rfl⟩ := hi
      · exact write _
      · exact write _
      · exact write _
    have hd := devId_portCompleted s m e poison
    have hv := snoopOf_portCompleted s m e poison (hlinkOf s m.link).hsock e.tag
    rw [he]
    refine ⟨fun v hh hs => ?_, fun hh hs => ?_, fun hh => ?_⟩
    · rw [writeBackToHome_performed data be poison (hh.trans hd.symm) (hv.trans hs)]; rfl
    · rw [writeBackToHome_late data be poison (hh.trans hd.symm) (hv.trans hs)]; rfl
    · rw [writeBackToHome_sent data be poison (hd.symm ▸ hh)]; rfl
  case birsp =>
    intro s t l mb sa rsp ha hup
    have he : exec (.birsp l mb sa rsp) s = .next (sameTime s (doBirsp s l mb sa rsp)) :=
      act_sameTime s (fun s => doBirsp s l mb sa rsp) ha
    rw [he]
    refine ⟨?_, fun hn => by rw [doBirsp_stray hup rsp hn]⟩
    rintro e hf rfl
    exact ⟨fun hh => by rw [doBirsp_home hup rsp hf hh]; rfl, fun hh => by rw [doBirsp_sent hup rsp hf hh]; rfl⟩
  case biconflict =>
    intro s l mb sa ha hup
    have he : exec (.biconflict l mb sa) s = .next (sameTime s (doBiconflict s l mb sa)) :=
      act_sameTime s (fun s => doBiconflict s l mb sa) ha
    rw [he]
    exact ⟨fun e hf => ⟨fun hh => by rw [doBiconflict_home hup hf hh], fun hh => by rw [doBiconflict_sent hup hf hh]⟩,
      fun hn => by rw [doBiconflict_stray hup hn]⟩
  case timeout =>
    intro s id v ha hv ht
    exact (act_sameTime s (fun s => doBisnpTimeout s id) ha).trans (by rw [doBisnpTimeout_passed hv ht])
  case unsupported =>
    intro s m rd ha hup
    exact (act_sameTime s (fun s => doUnsupported s m rd) ha).trans (by rw [doUnsupported_up rd hup])

end Sys2Proof.Machine
end

section
/-!
The token bucket (O24): what a BUCKET_UPDATE gains, and what it leaves alone (R138).
-/

-- In order: each declaration that waits for another in a thread of its own adds to the memory of the whole compile.
set_option Elab.async false

namespace Sys2Proof.Machine

/-- A bucket that is not running is left as it is. -/
theorem bucketStep_stopped (now : Time) {c : ContractS} (h : c.running = false) : bucketStep now c = c := by
  simp only [bucketStep, h, Bool.not_false, if_true]

/-- A running bucket gains the difference of the two floors, up to its burst, and notes its elapsed time. -/
theorem bucketStep_running (now : Time) {c : ContractS} (h : c.running = true) : bucketStep now c = { c with
    rate16 := min (c.rate16 + (bucketGain c.ctr.rate.toNat (now - c.ctr.admitted).toNat - bucketGain c.ctr.rate.toNat c.lastT.toNat))
      (c.ctr.burst.toNat * 65536)
    lastT := now - c.ctr.admitted } := by
  simp only [bucketStep, h, Bool.not_true, Bool.false_eq_true, if_false]

/-- Settles O24, by the two cases of a bucket: running or not. -/
theorem tokenBucketsFillToTheirBurst : Obligations.TokenBucketsFillToTheirBurst := by
  unfold Obligations.TokenBucketsFillToTheirBurst
  refine ⟨fun s ha => act_sameTime s doBucketUpdate ha, fun now c h => ?_, fun now c => bucketStep_stopped now⟩
  rw [bucketStep_running now h]
  exact ⟨rfl, Nat.min_le_right _ _, rfl, rfl⟩

end Sys2Proof.Machine
end

section
/-!
Issue slots (O31): what R148 and R174 choose, and what the command of a slot does with each choice.
-/

-- In order: each declaration that waits for another in a thread of its own adds to the memory of the whole compile.
set_option Elab.async false

namespace Sys2Proof.Machine

-- ===== the choice (R148, R174) =====

theorem pickSlot_urgent {n : Nat} (slot ashRun : Nat) (ash device haul : Bool) (h : n < 200) :
    pickSlot slot ashRun (some n) ash device haul = .contracted := by
  simp only [pickSlot, h, decide_true, Bool.or_true, if_true]

theorem pickSlot_ordinarySlot {slot : Nat} (ashRun n : Nat) (ash device haul : Bool) (h : slot % 8 ≠ 0) :
    pickSlot slot ashRun (some n) ash device haul = .contracted := by
  simp only [pickSlot, beq_eq_false_iff_ne.mpr h, Bool.false_and, Bool.not_false, Bool.true_or, if_true]

theorem pickSlot_noAsh (slot ashRun n : Nat) (device haul : Bool) :
    pickSlot slot ashRun (some n) false device haul = .contracted := by
  simp only [pickSlot, Bool.and_false, Bool.not_false, Bool.true_or, if_true]

theorem pickSlot_floor {slot : Nat} (ashRun : Nat) (ash haul : Bool) (h : slot % 64 = 4) :
    pickSlot slot ashRun none ash true haul = .floorOp := by
  simp only [pickSlot, h, beq_self_eq_true, Bool.and_self, Bool.false_eq_true, if_false, if_true]

/-- Without a contracted request, outside the device floor slot, Ash requests and haul work share the slots. -/
theorem pickSlot_shared {slot : Nat} (ashRun : Nat) (ash device haul : Bool) (h : slot % 64 ≠ 4) :
    pickSlot slot ashRun none ash device haul =
      if ash && (ashRun < 3 || !haul) then .ash else if haul then .haul else .nothing := by
  simp only [pickSlot, beq_eq_false_iff_ne.mpr h, Bool.false_and, Bool.false_eq_true, if_false]

-- ===== the command (R148, R174, R372, R373) =====

/-- A bench that is held issues nothing (R372, R373). -/
theorem doIssueSlot_held {s : State} {b : Bench} (h : benchHeld s b = true) : doIssueSlot s b = s := by
  simp only [doIssueSlot, h, Bool.or_true, if_true]

/-- What a slot issues for a choice, from the state in which the slot is counted. -/
def slotIssue (t : State) (b : Bench) (p : Pick) (con ash : Option Req) : State :=
  match p, con, ash with
  | .contracted, some r, _ => run (serve (countBench t b 0x017 (classQual r.cls)) r.id)
  | .ash, con, some r =>
    let u := countBench (modBench t b (fun v => { v with ashRun := v.ashRun + 1 })) b 0x018 0
    run (serve (if con.isSome then countBench u b 0x019 0 else u) r.id)
  | .floorOp, _, _ => floorSlot t b
  | .haul, _, _ => (haulOp (modBench t b (fun v => { v with ashRun := 0 })) b false).1
  | _, _, _ => t

/-- A presented device's bench whose clock runs issues what it chooses. -/
theorem doIssueSlot_issues {s t : State} {b : Bench} {con ash : Option Req} {p : Pick} (hp : presented s = true)
    (hh : benchHeld s b = false) (hcon : con = earliest s ((readyAt s b).filter (fun r => r.cls != .ash)))
    (hash : ash = ((readyAt s b).filter (fun r => r.cls == .ash)).head?)
    (hpick : p = pickSlot (benchOf s b).slot (benchOf s b).ashRun (con.bind (timeLeft s)) ash.isSome
      (deviceRuns s b || (floorStep s b).isSome) (benchOf s b).running.isSome)
    (ht : t = setBench s b { benchOf s b with slot := (benchOf s b).slot + 1 }) :
    doIssueSlot s b = slotIssue t b p con ash := by
  simp only [doIssueSlot, hp, hh, Bool.not_true, Bool.or_self, Bool.false_eq_true, if_false, ← hcon, ← hash, ← hpick, ← ht]
  cases p with
  | contracted => cases con <;> rfl
  | ash => cases ash <;> rfl
  | floorOp | haul | nothing => rfl

/-- Settles O31, by the cases of the choice and what the command does in each. -/
theorem issueSlotChoosesByClass : Obligations.IssueSlotChoosesByClass := by
  unfold Obligations.IssueSlotChoosesByClass
  refine ⟨fun slot ashRun n ash device haul => pickSlot_urgent slot ashRun ash device haul,
    fun slot ashRun n ash device haul => pickSlot_ordinarySlot ashRun n ash device haul, pickSlot_noAsh,
    fun slot ashRun haul ash => pickSlot_floor ashRun ash haul, ?fewAsh, ?manyAsh, ?onlyHaul, ?issue, ?held⟩
  case fewAsh =>
    intro slot ashRun haul device hs hr
    rw [pickSlot_shared ashRun true device haul hs]
    simp only [hr, decide_true, Bool.true_or, Bool.and_self, if_true]
  case manyAsh =>
    intro slot ashRun device hs hr
    rw [pickSlot_shared ashRun true device true hs]
    simp only [Nat.not_lt.mpr hr, decide_false, Bool.not_true, Bool.or_self, Bool.and_false, Bool.false_eq_true, if_false, if_true]
  case onlyHaul =>
    intro slot ashRun device hs
    rw [pickSlot_shared ashRun false device true hs]
    simp only [Bool.false_and, Bool.false_eq_true, if_false, if_true]
  case issue =>
    intro s t b con ash p ha hp hh hcon hash hpick ht
    have he : exec (.issueSlot b) s = .next (sameTime s (slotIssue t b p con ash)) :=
      (act_sameTime s (fun s => doIssueSlot s b) ha).trans (by rw [doIssueSlot_issues hp hh hcon hash hpick ht])
    rw [he]
    refine ⟨fun r h hr => ?_, fun r u h hr hu => ⟨fun hc => ?_, fun hc => ?_⟩, fun h => ?_, fun h => ?_, fun h => ?_⟩
    · rw [h, hr]; rfl
    · rw [h, hr, hc, hu]; rfl
    · obtain ⟨c, rfl⟩ := Option.ne_none_iff_exists'.mp hc
      rw [h, hr, hu]; rfl
    · rw [h]; rfl
    · rw [h]; rfl
    · rw [h, ht]; rfl
  case held =>
    intro s b ha hh
    exact (act_sameTime s (fun s => doIssueSlot s b) ha).trans (by rw [doIssueSlot_held hh]; rfl)

end Sys2Proof.Machine
end

section
/-!
Running steps of each opcode (O28): the bench after two writes, and the haul operation of an issue slot (R172 to R174).
-/

-- In order: each declaration that waits for another in a thread of its own adds to the memory of the whole compile.
set_option Elab.async false

namespace Sys2Proof.Machine

/-- Of two writes of values other than the default, the second remains. -/
theorem tput_tput {α : Type} [DecidableEq α] (d : α) (t : Tab α) (n : Nat) {v w : α} (hv : v ≠ d) (hw : w ≠ d) :
    tput d (tput d t n v) n w = tput d t n w := by
  induction t with
  | nil => simp only [tput, hv, hw, if_false, Nat.lt_irrefl, if_true]
  | cons a t ih =>
    obtain ⟨k, x⟩ := a
    by_cases hlt : n < k
    · simp only [tput, hv, hw, hlt, if_false, if_true, Nat.lt_irrefl]
    · by_cases heq : n = k
      · simp only [tput, hv, hw, heq, if_false, if_true, Nat.lt_irrefl]
      · simp only [tput, hlt, heq, if_false, ih]

theorem benchOf_setBench_of_ne (s : State) (b : Bench) {v : BenchS} (hv : v ≠ BenchS.init) : benchOf (setBench s b v) b = v :=
  tget_tput_new BenchS.init s.cache.bench b.toNat v hv

theorem modBench_setBench (s : State) (b : Bench) {v : BenchS} (f : BenchS → BenchS) (hv : v ≠ BenchS.init)
    (hf : f v ≠ BenchS.init) : modBench (setBench s b v) b f = setBench s b (f v) := by
  rw [modBench, benchOf_setBench_of_ne s b hv]
  simp only [setBench, tput_tput BenchS.init s.cache.bench b.toNat hv hf]

theorem ne_init_of_slot {v : BenchS} (h : v.slot ≠ 0) : v ≠ BenchS.init := fun he => h (by rw [he]; rfl)

/-- A slot that goes to haul work is counted, and ends the run of Ash requests. -/
theorem slotTaken_eq (s : State) (b : Bench) :
    modBench (setBench s b { benchOf s b with slot := (benchOf s b).slot + 1 }) b (fun v => { v with ashRun := 0 }) =
      slotTaken s b :=
  modBench_setBench s b _ (ne_init_of_slot (Nat.succ_ne_zero _)) (ne_init_of_slot (Nat.succ_ne_zero _))

@[simp] theorem runOf_slotTaken (s : State) (b : Bench) : runOf (slotTaken s b) b = runOf s b := by
  simp only [runOf, slotTaken, benchOf_setBench_of_ne s b (ne_init_of_slot (v := { benchOf s b with
    slot := (benchOf s b).slot + 1, ashRun := 0 }) (Nat.succ_ne_zero _))]

@[simp] theorem jobOf_slotTaken (s : State) (b : Bench) (q : QueueId) (n : JobSeq) : jobOf (slotTaken s b) q n = jobOf s q n := rfl

/-- A JOB step makes one haul operation in a slot, or has to wait. -/
theorem haulOp_job {s : State} {b : Bench} {r : Run} {x : Job} (hr : runOf s b = some r) (hk : r.step.kind = .job)
    (hx : jobOf s r.step.queue r.step.jobseq = some x) :
    (haulOp s b false).1 = if runOf (jobOp s b x.d r) b = some r then s else countOp (jobOp s b x.d r) b false := by
  simp only [haulOp, hr, hk, hx, beq_iff_eq]
  split <;> rfl

/-- The slot of a running step's opcode goes to one operation of it. -/
theorem opcodeOp_ready {s : State} {b : Bench} {op : Byte} {x : Job} {r : Run} (h : StepReady s b op x r) :
    opcodeOp s b op = haulOne s b x r := by
  obtain ⟨-, hp, hh, hslot, hr, hk, hx, hop⟩ := h
  have hrun : (benchOf s b).running.isSome = true := Option.isSome_of_eq_some hr
  have hissue := doIssueSlot_issues hp hh rfl rfl rfl rfl
  rw [hrun, hslot] at hissue
  have hc : (r.step.kind == .job && x.d.opcode == op) = true := by rw [hk, hop, beq_self_eq_true, beq_self_eq_true]; rfl
  simp only [opcodeOp, hr, hx, hc, if_true]
  rw [hissue, slotIssue, slotTaken_eq, haulOp_job ((runOf_slotTaken s b).trans hr) hk hx]
  rfl

theorem act_opcodeOp {s : State} {b : Bench} {op : Byte} {x : Job} {r : Run} (h : StepReady s b op x r) :
    act s (fun s => opcodeOp s b op) = .next (sameTime s (haulOne s b x r)) := by
  rw [act_sameTime s _ h.1, opcodeOp_ready h]

/-- Settles O28, by the one meaning that all nine opcodes share. -/
theorem opcodesOfRunningStepsOperate : Obligations.OpcodesOfRunningStepsOperate := by
  unfold Obligations.OpcodesOfRunningStepsOperate
  intro s b x r
  exact ⟨act_opcodeOp, act_opcodeOp, act_opcodeOp, act_opcodeOp, act_opcodeOp, act_opcodeOp, act_opcodeOp, act_opcodeOp, act_opcodeOp⟩

end Sys2Proof.Machine
end

section
/-!
Assays (O27): the start of an assay, its end, and the disqualification of a link (R153, R155, R157).
-/

-- In order: each declaration that waits for another in a thread of its own adds to the memory of the whole compile.
set_option Elab.async false

namespace Sys2Proof.Machine

@[simp] theorem xlinkOf_entered (s : State) (acc : Accessor) (x : XLink) : xlinkOf (entered s acc) x = xlinkOf s x := by
  simp only [xlinkOf, entered_port]

theorem reachedReadyX_eq (s : State) : assayWrite.reachedReadyX s = reachedReady s := rfl

theorem assayWrite_starts {s : State} {x : XLink} (hs : reachedReady s = true)
    (h : (xlinkOf s x).state = .ready ∨ (xlinkOf s x).state = .qualified ∨ (xlinkOf s x).state = .unqualified) :
    assayWrite s x.toNat = (assayRun s x, .ok, 0) := by
  obtain h | h | h := h <;>
    simp only [assayWrite, reachedReadyX_eq, hs, Nat.not_le.mpr x.isLt, BitVec.ofNat_toNat, BitVec.setWidth_eq, h, Bool.not_true,
      Bool.false_eq_true, if_false]

theorem assayWrite_runs {s : State} {x : XLink} (hs : reachedReady s = true) (h : (xlinkOf s x).state = .assay) :
    assayWrite s x.toNat = (s, .ok, 0) := by
  simp only [assayWrite, reachedReadyX_eq, hs, Nat.not_le.mpr x.isLt, BitVec.ofNat_toNat, BitVec.setWidth_eq, h, Bool.not_true,
    Bool.false_eq_true, if_false]

theorem doAssayStart_ready {s : State} {x : XLink} (hs : s.dev.stage = .localReady ∨ presented s = true)
    (h : (xlinkOf s x).state = .ready) : doAssayStart s x = assayRun s x := by
  have hstage : (s.dev.stage == .localReady || presented s) = true := by
    obtain hs | hs := hs <;> rw [hs]
    · rfl
    · exact Bool.or_true _
  simp only [doAssayStart, h, hstage, beq_self_eq_true, Bool.and_self, if_true]

/-- The measurement window of a running assay has ended, with samples. -/
theorem doAssayDone_ended {s : State} {x : XLink} {t : Time}
    (hf : s.contract.assaying.find? (fun p => p.1 == x) = some (x, t)) (hw : s.contract.window.toNat * 1000000 ≤ since s t)
    (hn : (assayOf s x).samples ≠ []) (h : (xlinkOf s x).state = .assay) :
    doAssayDone s x = assayEnd s x (assayOf s x) (assayResult s (assayOf s x)) := by
  simp only [doAssayDone, hf, h, Nat.not_lt.mpr hw, List.isEmpty_eq_false_iff.mpr hn, decide_false, bne_self_eq_false,
    Bool.or_self, Bool.false_eq_true, if_false]

/-- The exceedances of the present second exceed the threshold. -/
theorem doDisqualify_exceeds {s : State} {x : XLink} {n mx : Nat}
    (he : tget ((0 : BitVec 64), 0, 0) s.contract.excSec x.toNat = (BitVec.ofNat 64 (s.now.toNat / 1000000000), n, mx))
    (hn : s.contract.disq.toNat < n) : doDisqualify s x = disqualify s x mx := by
  simp only [doDisqualify, he, Nat.not_le.mpr hn, decide_false, bne_self_eq_false, Bool.or_self, Bool.false_eq_true, if_false]

/-- Settles O27, by what each command does under its conditions. -/
theorem assaysRunAndDecide : Obligations.AssaysRunAndDecide := by
  unfold Obligations.AssaysRunAndDecide
  refine ⟨?write, ?start, ?complete, ?disqualified⟩
  case write =>
    intro s acc x ha hp hs
    have hse : reachedReady (entered s acc) = true := (reachedReady_entered s acc).trans hs
    rw [← xlinkOf_entered s acc x]
    exact ⟨fun h => act_front ha hp (assayWrite_starts hse h), fun h => act_front ha hp (assayWrite_runs hse h)⟩
  case start =>
    intro s x ha hs h
    rw [← doAssayStart_ready hs h]
    exact act_sameTime s (fun s => doAssayStart s x) ha
  case complete =>
    intro s x t ha hf hw hn h
    rw [← doAssayDone_ended hf hw hn h]
    exact ⟨act_sameTime s (fun s => doAssayDone s x) ha, rfl, rfl⟩
  case disqualified =>
    intro s x n mx ha he hn
    rw [← doDisqualify_exceeds he hn]
    exact act_sameTime s (fun s => doDisqualify s x) ha

end Sys2Proof.Machine
end

section
/-!
Admissions (O25): the messages of the contract unit, a proposed record at its origin, and what each message and each bench
does to an admission (R142, R146, R147).
-/

-- In order: each declaration that waits for another in a thread of its own adds to the memory of the whole compile.
set_option Elab.async false

namespace Sys2Proof.Machine

-- ===== messages leave the device's identity alone =====

@[simp] theorem countSent_dev (s : State) (d : DevId) (c : Nat) : (countSent s d c).dev = s.dev := by rw [countSent_frame]
@[simp] theorem countSent_port (s : State) (d : DevId) (c : Nat) : (countSent s d c).port = s.port := by rw [countSent_frame]
@[simp] theorem shareSend_dev (s : State) (d : DevId) (step : Nat) (i : CIdx) (body : List (BitVec 64)) :
    (shareSend s d step i body).dev = s.dev := by
  unfold shareSend ctlSend peerSend; exact countSent_dev _ _ _
@[simp] theorem shareSend_port (s : State) (d : DevId) (step : Nat) (i : CIdx) (body : List (BitVec 64)) :
    (shareSend s d step i body).port = s.port := by
  unfold shareSend ctlSend peerSend; exact countSent_port _ _ _

@[simp] theorem foldl_shareSend_dev (step : Nat) (i : CIdx) (body : List (BitVec 64)) (l : List DevId) (s : State) :
    (l.foldl (fun s d => shareSend s d step i body) s).dev = s.dev := by
  induction l generalizing s with
  | nil => rfl
  | cons d l ih => rw [List.foldl_cons, ih, shareSend_dev]

/-- Sending leaves the links alone, so that every home gets the same proposal. -/
theorem foldl_proposals (i : CIdx) (c : Contract) (l : List DevId) (s : State) :
    l.foldl (fun s d => shareSend s d 1 i (contractBody c (hlinkOf s c.link).cls)) s =
      l.foldl (fun s' d => shareSend s' d 1 i (contractBody c (hlinkOf s c.link).cls)) s := by
  induction l generalizing s with
  | nil => rw [List.foldl_nil, List.foldl_nil]
  | cons d l ih =>
    have hlink : hlinkOf (shareSend s d 1 i (contractBody c (hlinkOf s c.link).cls)) c.link = hlinkOf s c.link :=
      congrArg (fun p : PortS => tget HLinkS.init p.host c.link.toNat) (shareSend_port s d 1 i _)
    simp only [List.foldl_cons, ih, hlink]

@[simp] theorem homes_setContract (s : State) (i : CIdx) (v : ContractS) (c : Contract) :
    homes (setContract s i v) c = homes s c := rfl

/-- The pending entry of a record whose admission begins. -/
def pendingEntry (s : State) (w : Accessor) (c : Contract) (n : Nat) : State :=
  setContract s (BitVec.ofNat 12 n) { ContractS.init with
    ctr := { c with state := 1 }, phase := .proposing, started := s.now, by_ := some (w, none) }

theorem proposed_eq (s : State) (w : Accessor) (c : Contract) (n : Nat) : proposed s w c n = (homes s c).foldl
    (fun t d => shareSend t d 1 (BitVec.ofNat 12 n) (contractBody c (hlinkOf s c.link).cls)) (pendingEntry s w c n) :=
  foldl_proposals _ c _ (pendingEntry s w c n)

theorem devId_proposed (s : State) (w : Accessor) (c : Contract) (n : Nat) : devId (proposed s w c n) = devId s := by
  rw [devId, proposed_eq, foldl_shareSend_dev]; rfl

-- ===== a share held as tentative (R142 step 4) =====

/-- A share held as tentative. -/
def tentative (src : DevId) (i : CIdx) (c : Contract) (l : LClass) : Share :=
  { origin := src, entry := i, ctr := c, linkClass := l, state := .tentative, admitted := 0, reason := 0, setAside := [] }

theorem homePropose_holds {s : State} {src : DevId} {i : CIdx} {c : Contract} {l : LClass} (h : homeCheck s src c l = none) :
    homePropose s src i c l = (setShares s (s.contract.shares ++ [tentative src i c l]), none) := by
  simp only [homePropose, h]; rfl

theorem homePropose_fails {s : State} {src : DevId} {i : CIdx} {c : Contract} {l : LClass} {y : Why}
    (h : homeCheck s src c l = some y) : homePropose s src i c l = (s, some y) := by
  simp only [homePropose, h]

-- ===== the origin's turn (R142 steps 2 to 4) =====

/-- With no admission in progress or waiting a written record takes its turn at once (R391). -/
theorem admitWrite_turn {s : State} (w : Accessor × Option Frame) (c : Contract) (hw : s.contract.waiting = [])
    (ha : admitting s = false) : admitWrite s w c = admitOne s w c := by
  have hs : { s with contract := { s.contract with waiting := [] } } = s := by rw [← hw]
  have ha' : admitting { s with contract := { s.contract with waiting := [] ++ [(w, c)] } } = false := ha
  simp only [admitWrite, settleAdmissions, hw, List.nil_append, List.length_singleton, admitLoop] at ha' ⊢
  rw [ha']
  simp only [List.isEmpty_cons, Bool.or_self, Bool.false_eq_true, if_false, nextAdmission, hs]

section AdmitOne

variable {s : State} {c : Contract} (w : Accessor) (hp : presented s = true)
include hp

theorem admitOne_refused {y : Why} (h : originCheck s c = some y) : admitOne s (w, none) c =
    answerLate (refused s 0xFF y) (some (w, none)) (reasonStatus y.1) 8 0 := by
  simp only [admitOne, hp, h, Bool.not_true, Bool.false_eq_true, if_false]

theorem admitOne_unreachable {d : DevId} (h : originCheck s c = none) (hr : noRoute s c = some d) : admitOne s (w, none) c =
    answerLate (refused s d.toNat (13, 0, noBench)) (some (w, none)) .full 8 0 := by
  simp only [admitOne, hp, h, hr, Bool.not_true, Bool.false_eq_true, if_false]

variable {n : Nat} (h : originCheck s c = none) (hr : noRoute s c = none) (hn : freeEntry s = some n)
include h hr hn

theorem admitOne_elsewhere (hc : covers c (devId s) = false) : admitOne s (w, none) c = proposed s w c n := by
  rw [← devId_proposed s w c n] at hc
  simp only [proposed_eq, pendingEntry] at hc ⊢
  simp only [admitOne, hp, h, hr, hn, homes_setContract, hc, Bool.not_true, Bool.false_eq_true, if_false]

section Here

variable (hc : covers c (devId s) = true)
include hc

theorem admitOne_accepts (hy : homeCheck (proposed s w c n) (devId s) c (hlinkOf s c.link).cls = none) :
    admitOne s (w, none) c = accepted (setShares (proposed s w c n) ((proposed s w c n).contract.shares ++
      [tentative (devId s) (BitVec.ofNat 12 n) c (hlinkOf s c.link).cls])) (BitVec.ofNat 12 n) (devId s) := by
  rw [← devId_proposed s w c n] at hc hy ⊢
  have hh := homePropose_holds (i := BitVec.ofNat 12 n) hy
  simp only [proposed_eq, pendingEntry] at hc hh ⊢
  simp only [admitOne, hp, h, hr, hn, homes_setContract, hc, hh, Bool.not_true, Bool.false_eq_true, if_false, if_true]
  rfl

theorem admitOne_aborts {y : Why} (hy : homeCheck (proposed s w c n) (devId s) c (hlinkOf s c.link).cls = some y) :
    admitOne s (w, none) c = originAbort (proposed s w c n) (BitVec.ofNat 12 n) (devId s).toNat y := by
  rw [← devId_proposed s w c n] at hc hy ⊢
  have hh := homePropose_fails (i := BitVec.ofNat 12 n) hy
  simp only [proposed_eq, pendingEntry] at hc hh ⊢
  simp only [admitOne, hp, h, hr, hn, homes_setContract, hc, hh, Bool.not_true, Bool.false_eq_true, if_false, if_true]

end Here

end AdmitOne

/-- A command that presents a proposed record takes its turn in the state entered. -/
theorem act_contractAdmit {s : State} {acc : Accessor} {c : Contract} (ha : alive s = true) (hp : passes s acc plainGate = true)
    (hw : s.contract.waiting = []) (had : admitting s = false) : exec (.contractAdmit acc c) s =
      .next (sameTime s (admitOne (entered s acc) (normAcc acc, none) c)) := by
  have hw' : (entered s acc).contract.waiting = [] := (congrArg ContractUnit.waiting (entered_contract s acc)).trans hw
  have had' : admitting (entered s acc) = false := by rw [admitting, entered_contract]; exact had
  rw [← admitWrite_turn (normAcc acc, none) c hw' had']
  exact (act_sameTime s (fun s => frontLate s acc plainGate (fun s => (admitWrite s (normAcc acc, none) c, none))) ha).trans
    (by rw [frontLate_passes s acc plainGate _ hp])

-- ===== a proposal at a home (R142 step 4) =====

section Proposal

variable {s : State} {src : DevId} {i : CIdx} {c : Contract} {l : LClass} (hm : fromMember s src = true) (hd : src ≠ devId s)
  (hs : shareOf s src i = none)
include hm hd hs

theorem doProposal_holds (hp : presented s = true) (hy : homeCheck s src c l = none) : doProposal s src i c l =
    shareSend (setShares s (s.contract.shares ++ [tentative src i c l])) src 2 i [0, 0, 0xFFFF] := by
  simp only [doProposal, hm, hs, hp, beq_eq_false_iff_ne.mpr hd, homePropose_holds hy, Option.isSome_none, Bool.not_true,
    Bool.or_self, Bool.false_eq_true, if_false]

theorem doProposal_fails {y : Why} (hp : presented s = true) (hy : homeCheck s src c l = some y) : doProposal s src i c l =
    shareSend s src 2 i [BitVec.ofNat 64 y.1, BitVec.ofNat 64 y.2.1, BitVec.ofNat 64 y.2.2] := by
  simp only [doProposal, hm, hs, hp, beq_eq_false_iff_ne.mpr hd, homePropose_fails hy, Option.isSome_none, Bool.not_true,
    Bool.or_self, Bool.false_eq_true, if_false]

/-- Outside MEMORY_ACTIVE a home is unreachable (log entry 114). -/
theorem doProposal_unready (hp : presented s = false) : doProposal s src i c l = shareSend s src 2 i [13, 0, 0xFFFF] := by
  simp only [doProposal, hm, hs, hp, beq_eq_false_iff_ne.mpr hd, Option.isSome_none, Bool.not_true, Bool.not_false,
    Bool.or_self, Bool.false_eq_true, if_false, if_true]

end Proposal

-- ===== answers, timeouts and confirmations at the origin (R142, R147) =====

section Answers

variable {s : State} {src : DevId} {i : CIdx} (hph : (contractOf s i).phase = .proposing)
  (hc : covers (contractOf s i).ctr src = true) (ha : (contractOf s i).answered.getLsbD src.toNat = false)
include hph hc ha

theorem doAccept_accepts (hd : src ≠ devId s) (res : Byte) (bench : BitVec 16) :
    doAccept s src i 0 res bench = accepted s i src := by
  simp only [doAccept, hph, hc, ha, beq_eq_false_iff_ne.mpr hd, bne_self_eq_false, Bool.not_true, Bool.or_self,
    Bool.false_eq_true, if_false, if_true]

theorem doAccept_refuses (hd : src ≠ devId s) {reason : Byte} (res : Byte) (bench : BitVec 16) (hr : reason ≠ 0) :
    doAccept s src i reason res bench =
      settleAdmissions (originAbort s i src.toNat (reason.toNat, res.toNat, bench.toNat)) := by
  simp only [doAccept, hph, hc, ha, hr, beq_eq_false_iff_ne.mpr hd, bne_self_eq_false, Bool.not_true, Bool.or_self,
    Bool.false_eq_true, if_false]

theorem doAdmitTimeout_aborts (ht : 1000000 ≤ since s (contractOf s i).started) : doAdmitTimeout s i src =
    settleAdmissions (originAbort s i
      (((bitsOf ((contractOf s i).ctr.homemask &&& ~~~(contractOf s i).answered)).head?).getD src.toNat) (13, 0, noBench)) := by
  simp only [doAdmitTimeout, hph, hc, ha, Nat.not_lt.mpr ht, bne_self_eq_false, decide_false, Bool.not_true, Bool.or_self,
    Bool.false_eq_true, if_false]

end Answers

/-- The last acceptance commits. -/
theorem accepted_last {s t : State} {i : CIdx} {d : DevId} {m : BitVec 8} (hm : m = (contractOf s i).answered ||| bit d.toNat)
    (ht : t = setContract s i { contractOf s i with answered := m }) :
    accepted s i d = if m = (contractOf s i).ctr.homemask then originCommit t i else t := by
  simp only [accepted, ← hm, ← ht, beq_iff_eq]

section Confirmation

variable {s t : State} {src : DevId} {i : CIdx} {m : BitVec 8} (hc : covers (contractOf s i).ctr src = true) (hd : src ≠ devId s)
  (hm : m = (contractOf s i).confirmed ||| bit src.toNat) (ht : t = setContract s i { contractOf s i with confirmed := m })
include hc hd hm ht

theorem doConfirm_commit (hph : (contractOf s i).phase = .committing) : doConfirm s src i =
    if m = (contractOf s i).ctr.homemask then settleAdmissions (admitDone t i) else t := by
  simp only [doConfirm, hph, hc, beq_eq_false_iff_ne.mpr hd, ← hm, ht, beq_iff_eq, Bool.not_true, Bool.or_self,
    Bool.false_eq_true, if_false]

theorem doConfirm_release (hph : (contractOf s i).phase = .releasing) : doConfirm s src i =
    if m = (contractOf s i).ctr.homemask then deleteDone t i else t := by
  simp only [doConfirm, hph, hc, beq_eq_false_iff_ne.mpr hd, ← hm, ht, beq_iff_eq, Bool.not_true, Bool.or_self,
    Bool.false_eq_true, if_false]

end Confirmation

-- ===== a share at its home (R142 step 5) =====

section Share

variable {s : State} {src : DevId} {i : CIdx} {h : Share} (hs : shareOf s src i = some h)
include hs

theorem doSetAside_confirms {b : Bench} (hst : h.state = .settingAside) (hb : h.setAside.contains b = true)
    (ho : overShared s b = false) : doSetAside s b src i =
      if (h.setAside.filter (· != b)).isEmpty then settleAdmissions (homeConfirm s src i)
      else modShare s src i (fun h' => { h' with setAside := h.setAside.filter (· != b) }) := by
  simp only [doSetAside, hs, hst, hb, ho, bne_self_eq_false, Bool.not_true, Bool.or_self, Bool.false_eq_true, if_false]

/-- A tentative share has taken no reservations. -/
theorem dropShare_tentative (hst : h.state = .tentative) :
    dropShare s src i = setShares s (s.contract.shares.filter (fun h => !(h.origin == src && h.entry == i))) := by
  simp only [dropShare, hs, hst, beq_self_eq_true, if_true]

theorem doAbort_drops (hst : h.state = .tentative) (hd : src ≠ devId s) :
    doAbort s src i = setShares s (s.contract.shares.filter (fun h => !(h.origin == src && h.entry == i))) := by
  rw [← dropShare_tentative hs hst]
  simp only [doAbort, hs, hst, beq_self_eq_true, bne_iff_ne.mpr hd, Bool.and_self, if_true]

end Share

/-- A message of a contract unit acts on what its count leaves. -/
theorem act_ctlIn {u s : State} {src : DevId} (hs : s = ctlIn u src) (ha : alive s = true) (f : State → State) :
    act u (fun s => f (ctlIn s src)) = .next (sameTime s (f s)) := by
  have hu : alive u = true := by rw [← ctlIn_alive u src, ← hs]; exact ha
  rw [act_sameTime u _ hu, ← hs]
  simp only [sameTime, hs, ctlIn_pending, ctlIn_now]

/-- Settles O25, by what the origin's turn, each message and each bench do to an admission. -/
theorem admissionProposalsAndAnswers : Obligations.AdmissionProposalsAndAnswers := by
  unfold Obligations.AdmissionProposalsAndAnswers
  refine ⟨?admission, ?proposal, ?answer, ?commit, ?setAside, ?confirm, ?abort, ?timeout⟩
  case admission =>
    rintro s _ _ acc c ha hpass hp hw had rfl
    have hpe : presented (entered s acc) = true := by rw [presented, entered_dev]; exact hp
    have hd : devId s = devId (entered s acc) := by rw [devId, devId, entered_dev]
    rw [act_contractAdmit ha hpass hw had, hd]
    refine ⟨fun y h => ?_, fun d h hr => ?_, fun n h hr hn ht => ⟨fun hc => ?_, fun hc hy => ?_, fun y hc hy => ?_⟩⟩
    · rw [admitOne_refused _ hpe h]
    · rw [admitOne_unreachable _ hpe h hr]
    · rw [admitOne_elsewhere _ hpe h hr hn hc, ht]
    · rw [ht] at hy ⊢
      rw [admitOne_accepts _ hpe h hr hn hc hy]; rfl
    · rw [ht] at hy ⊢
      rw [admitOne_aborts _ hpe h hr hn hc hy]
  case proposal =>
    intro u s src i c l hs ha hm hd hn
    have he : exec (.shareProposal src i c l) u = .next (sameTime s (doProposal s src i c l)) :=
      act_ctlIn hs ha (fun s => doProposal s src i c l)
    rw [he]
    refine ⟨fun hp hy => ?_, fun y hp hy => ?_, fun hp => ?_⟩
    · rw [doProposal_holds hm hd hn hp hy]; rfl
    · rw [doProposal_fails hm hd hn hp hy]
    · rw [doProposal_unready hm hd hn hp]
  case answer =>
    intro u s t src i res bench m hs ha hph hc hans hd hm ht
    have he : ∀ reason, exec (.shareAccept src i reason res bench) u = .next (sameTime s (doAccept s src i reason res bench)) :=
      fun reason => act_ctlIn hs ha (fun s => doAccept s src i reason res bench)
    refine ⟨fun hl => ?_, fun hl => ?_, fun reason hr => ?_⟩
    · rw [he, doAccept_accepts hph hc hans hd, accepted_last hm ht, if_pos hl]
    · rw [he, doAccept_accepts hph hc hans hd, accepted_last hm ht, if_neg hl, ht]; rfl
    · rw [he, doAccept_refuses hph hc hans hd res bench hr]
  case commit =>
    intro u s src i t h hs ha hd hshare hst
    have hu : alive u = true := by rw [← ctlIn_alive u src, ← hs]; exact ha
    have hdu : (src == devId u) = false := beq_eq_false_iff_ne.mpr (by rw [← ctlIn_devId u src, ← hs]; exact hd)
    have he : exec (.shareCommit src i t) u = .next (sameTime u (if src == devId u then u else homeCommit (ctlIn u src) src i t)) :=
      act_sameTime u (fun s => if src == devId s then s else homeCommit (ctlIn s src) src i t) hu
    rw [he, hdu, if_neg Bool.false_ne_true, ← hs]
    simp only [sameTime, hs, ctlIn_pending, ctlIn_now]
  case setAside =>
    intro s b src i h ha hs hst hb ho
    have he : exec (.setAsideComplete b src i) s = .next (sameTime s (doSetAside s b src i)) :=
      act_sameTime s (fun s => doSetAside s b src i) ha
    rw [he, doSetAside_confirms hs hst hb ho]
    exact ⟨fun hl => by rw [if_neg (by rw [List.isEmpty_iff]; exact hl)], fun hl => by rw [hl]; rfl⟩
  case confirm =>
    intro u s t src i m hs ha hc hd hm ht
    have he : exec (.shareConfirm src i) u = .next (sameTime s (doConfirm s src i)) := act_ctlIn hs ha (fun s => doConfirm s src i)
    rw [he]
    refine ⟨?_, fun hph hl => ?_, fun hph hl => ?_⟩
    · rintro (hph | hph) hl
      · rw [doConfirm_commit hc hd hm ht hph, if_neg hl, ht]; rfl
      · rw [doConfirm_release hc hd hm ht hph, if_neg hl, ht]; rfl
    · rw [doConfirm_commit hc hd hm ht hph, if_pos hl]
    · rw [doConfirm_release hc hd hm ht hph, if_pos hl]
  case abort =>
    intro u s src i h hs ha hshare hst hd
    rw [← doAbort_drops hshare hst hd]
    exact (act_ctlIn hs ha (fun s => doAbort s src i)).trans (by rw [doAbort_drops hshare hst hd]; rfl)
  case timeout =>
    intro s i d ha hph ht hc hans
    rw [← doAdmitTimeout_aborts hph hc hans ht]
    exact act_sameTime s (fun s => doAdmitTimeout s i d) ha

end Sys2Proof.Machine
end

section
/-!
What the benches do leaves the device's straps alone, and so its number and mode: the base of R147's releases, which serve what
waits for their reservations. One lemma for each operation that `run` reaches, in the order of the definitions.

Where an operation branches on a tag lookup, its proof takes the called operations as arbitrary functions of which only what
they keep is known (`generalize`, and `id` seals that form): otherwise the kernel compares the branches by evaluating the lookup.
-/

-- In order: each declaration that waits for another in a thread of its own adds to the memory of the whole compile.
set_option Elab.async false

namespace Sys2Proof.Machine

/-- The straps of a state's device: by a function of their own, two operations are compared before they are unfolded. -/
def strapsOf (s : State) : Straps := s.dev.straps

theorem strapsOf_congr {s t : State} (h : t.dev = s.dev) : strapsOf t = strapsOf s := congrArg DevS.straps h

-- ===== folds, branches and pairs =====

theorem foldl_straps {α : Type} (f : State → α → State) (h : ∀ s a, strapsOf (f s a) = strapsOf s) (l : List α)
    (s : State) : strapsOf (l.foldl f s) = strapsOf s := by
  induction l generalizing s with
  | nil => rfl
  | cons a l ih => rw [List.foldl_cons, ih, h]

theorem foldl_pair_straps {α β : Type} (f : State × β → α → State × β) (h : ∀ p a, strapsOf (f p a).1 = strapsOf p.1)
    (l : List α) (p : State × β) : strapsOf (l.foldl f p).1 = strapsOf p.1 := by
  induction l generalizing p with
  | nil => rfl
  | cons a l ih => rw [List.foldl_cons, ih, h]

theorem ite_straps (c : Prop) [Decidable c] (s t : State) :
    strapsOf (if c then s else t) = if c then strapsOf s else strapsOf t := by split <;> rfl

theorem ite_fst_straps {β : Type} (c : Prop) [Decidable c] (s t : State × β) :
    strapsOf (if c then s else t).1 = if c then strapsOf s.1 else strapsOf t.1 := by split <;> rfl

theorem strapsOf_fst {β : Type} (s : State) (x : β) : strapsOf (s, x).1 = strapsOf s := rfl

/-- The state of an answer that an operation has given. -/
theorem straps_of_eq {β : Type} {p : State × β} {t : State} {x : β} {s : State} (h : p = (t, x))
    (hp : strapsOf p.1 = strapsOf s) : strapsOf t = strapsOf s := by
  rw [h] at hp; exact hp

-- ===== the operations of the state =====

@[simp] theorem countBench_straps (s : State) (b : Bench) (c q : Nat) :
    strapsOf (countBench s b c q) = strapsOf s :=
  strapsOf_congr (countBench_dev s b c q)

@[simp] theorem countDev_straps (s : State) (c q : Nat) :
    strapsOf (countDev s c q) = strapsOf s :=
  strapsOf_congr (countDev_dev s c q)

@[simp] theorem countSent_straps (s : State) (d : DevId) (c : Nat) :
    strapsOf (countSent s d c) = strapsOf s :=
  strapsOf_congr (countSent_dev s d c)

@[simp] theorem emit_straps (s : State) (o : Out) :
    strapsOf (emit s o) = strapsOf s :=
  strapsOf_congr (emit_dev s o)

@[simp] theorem logRec_straps (s : State) (r : LogRec) :
    strapsOf (logRec s r) = strapsOf s :=
  strapsOf_congr (logRec_dev s r)

@[simp] theorem modBench_straps (s : State) (b : Bench) (f : BenchS → BenchS) :
    strapsOf (modBench s b f) = strapsOf s :=
  strapsOf_congr (modBench_dev s b f)

@[simp] theorem modJob_straps (s : State) (q : QueueId) (j : JobSeq) (f : Job → Job) :
    strapsOf (modJob s q j f) = strapsOf s :=
  strapsOf_congr (modJob_dev s q j f)

@[simp] theorem modReq_straps (s : State) (id : Nat) (f : Req → Req) :
    strapsOf (modReq s id f) = strapsOf s :=
  strapsOf_congr (modReq_dev s id f)

@[simp] theorem modRun_straps (s : State) (b : Bench) (f : Run → Run) :
    strapsOf (modRun s b f) = strapsOf s :=
  strapsOf_congr (modRun_dev s b f)

@[simp] theorem raise_straps (s : State) (e i : Nat) (f : Fields) :
    strapsOf (raise s e i f) = strapsOf s :=
  strapsOf_congr (raise_dev s e i f)

@[simp] theorem setBench_straps (s : State) (b : Bench) (v : BenchS) :
    strapsOf (setBench s b v) = strapsOf s :=
  strapsOf_congr (setBench_dev s b v)

@[simp] theorem setCnt_straps (s : State) (k : Nat) (c : Counter) :
    strapsOf (setCnt s k c) = strapsOf s :=
  strapsOf_congr (setCnt_dev s k c)

@[simp] theorem setFn_straps (s : State) (l : HLink) (m : BitVec 2) (v : FnS) :
    strapsOf (setFn s l m v) = strapsOf s :=
  strapsOf_congr (setFn_dev s l m v)

@[simp] theorem setPlink_straps (s : State) (l : Nat) (v : PLinkS) :
    strapsOf (setPlink s l v) = strapsOf s :=
  strapsOf_congr (setPlink_dev s l v)

@[simp] theorem setQueue_straps (s : State) (q : QueueId) (v : QueueS) :
    strapsOf (setQueue s q v) = strapsOf s :=
  strapsOf_congr (setQueue_dev s q v)

@[simp] theorem setReqs_straps (s : State) (l : List Req) :
    strapsOf (setReqs s l) = strapsOf s :=
  strapsOf_congr (setReqs_dev s l)

@[simp] theorem strapsOf_region (s : State) (x : RegionS) : strapsOf { s with region := x } = strapsOf s := rfl

@[simp] theorem strapsOf_cache (s : State) (x : CacheS) : strapsOf { s with cache := x } = strapsOf s := rfl

@[simp] theorem strapsOf_snoop (s : State) (x : SnoopS) : strapsOf { s with snoop := x } = strapsOf s := rfl

@[simp] theorem strapsOf_contract (s : State) (x : ContractUnit) : strapsOf { s with contract := x } = strapsOf s := rfl

@[simp] theorem strapsOf_rel (s : State) (x : RelS) : strapsOf { s with rel := x } = strapsOf s := rfl

@[simp] theorem strapsOf_port (s : State) (x : PortS) : strapsOf { s with port := x } = strapsOf s := rfl

@[simp] theorem strapsOf_peer (s : State) (x : PeerS) : strapsOf { s with peer := x } = strapsOf s := rfl

@[simp] theorem strapsOf_obs (s : State) (x : ObsS) : strapsOf { s with obs := x } = strapsOf s := rfl

-- ===== trackers =====

@[simp] theorem noteEvent_straps (s : State) (b : Bench) :
    strapsOf (noteEvent s b) = strapsOf s := by simp only [noteEvent, ite_straps, ite_self, strapsOf_obs]

@[simp] theorem takeTracker_straps (s : State) (r : Req) (p : Pool) :
    strapsOf (takeTracker s r p) = strapsOf s := by
  simp only [takeTracker, noteEvent_straps, countBench_straps, setReqs_straps]

@[simp] theorem grantTrackers_straps (n : Nat) (s : State) : strapsOf (grantTrackers n s) = strapsOf s := by
  induction n generalizing s with
  | zero => rfl
  | succ n ih =>
    unfold grantTrackers
    split
    · rw [ih, takeTracker_straps]
    · rfl

-- ===== the error log, resets of the device and containment =====

@[simp] theorem msix_straps (s : State) (l : HLink) (m : BitVec 2) (vec : Nat) :
    strapsOf (msix s l m vec) = strapsOf s := by
  simp only [msix, emit_straps, setFn_straps, ite_straps, ite_self]

@[simp] theorem logIrq_straps (s : State) (l : HLink) (m : BitVec 2) (k : Nat) :
    strapsOf (logIrq s l m k) = strapsOf s := by simp only [logIrq, msix_straps, ite_straps, ite_self]

@[simp] theorem mirrorLog_straps (s : State) (r : LogRec) : strapsOf (mirrorLog s r) = strapsOf s := by
  unfold mirrorLog; exact foldl_straps _ (fun s a => by simp only [logIrq_straps, setFn_straps, ite_straps, ite_self])
    _ _

@[simp] theorem logWrite_straps (s : State) (r : LogRec) :
    strapsOf (logWrite s r) = strapsOf s := by
  simp only [logWrite, mirrorLog_straps, raise_straps, ite_straps, ite_self, strapsOf_rel]

@[simp] theorem poisonBuffer_straps (s : State) (b : Bench) (k : Nat) (dla : DLA) :
    strapsOf (poisonBuffer s b k dla) = strapsOf s := by simp only [poisonBuffer, logRec_straps, modBench_straps]

@[simp] theorem setStage_straps (s : State) (st : Stage) (k : Nat) : strapsOf (setStage s st k) = strapsOf s := rfl

@[simp] theorem ctlEmit_straps (s : State) (l : Nat) (op : Byte) (body : List (BitVec 64)) :
    strapsOf (ctlEmit s l op body) = strapsOf s := by
  unfold ctlEmit
  rw [emit_straps]
  split
  · rw [countSent_straps]
  · rfl

@[simp] theorem modLink_straps (s : State) (p : Nat) (f : LinkS → LinkS) : strapsOf (modLink s p f) = strapsOf s :=
    strapsOf_congr rfl

@[simp] theorem ctlOut_straps (s : State) (l : Nat) (op : Byte) (body : List (BitVec 64)) :
    strapsOf (ctlOut s l op body) = strapsOf s := by
  unfold ctlOut; dsimp only; split <;> simp only [ctlEmit_straps, modLink_straps, setPlink_straps, ite_straps, ite_self]

@[simp] theorem halt_straps (s : State) (cause : Nat) : strapsOf (halt s cause) = strapsOf s := by
  unfold halt
  dsimp only
  generalize List.range 14 = links
  have hsend : ∀ t : State, strapsOf (links.foldl (fun s l => if (plinkOf s l).checked && !(plinkOf s l).cross
      then ctlOut s l 7 [6] else s) t) = strapsOf t :=
    foldl_straps _ (fun s l => by rw [ite_straps, ctlOut_straps, ite_self]) links
  split
  · split
    · exact hsend _
    · exact hsend _
  · rfl

@[simp] theorem clearResv_straps (s : State) (cause : Nat) (p : Resv → Bool) (b : Nat) :
    strapsOf (clearResv s cause p b) = strapsOf s := by
  unfold clearResv
  extract_lets bs lost u
  split
  · rfl
  · exact (countBench_straps _ _ _ _).trans (strapsOf_congr rfl)

@[simp] theorem dropHaul_straps (s : State) : strapsOf (dropHaul s) = strapsOf s := by
  unfold dropHaul; exact foldl_straps _ (fun s a => by simp only [clearResv_straps]) _ _

@[simp] theorem excuseAll_straps (s : State) : strapsOf (excuseAll s) = strapsOf s := strapsOf_congr rfl

@[simp] theorem contain_straps (s : State) (cause island : Nat) : strapsOf (contain s cause island) = strapsOf s := by
  unfold contain
  dsimp only
  generalize List.range 14 = links
  have hsend : ∀ t : State, strapsOf (links.foldl (fun s l => if (plinkOf s l).checked && !(plinkOf s l).cross
      then ctlOut s l 0x10 [] else s) t) = strapsOf t :=
    foldl_straps _ (fun s l => by rw [ite_straps, ctlOut_straps, ite_self]) links
  split
  · exact halt_straps s cause
  · split
    · rfl
    · rw [raise_straps, logRec_straps, dropHaul_straps, excuseAll_straps, hsend]; rfl

@[simp] theorem sramCheck_straps (s : State) (b : Bench) : strapsOf (sramCheck s b) = strapsOf s := by
  unfold sramCheck
  dsimp only
  have hbad : ∀ (l : List (Nat × Bench × DLA)) (t : State), strapsOf (l.foldl (fun s e => poisonBuffer s b e.1 e.2.2)
    t) =
      strapsOf t := foldl_straps _ fun s e => poisonBuffer_straps _ _ _ _
  split
  · rw [ite_straps, contain_straps, ite_self]
  · rw [ite_straps, contain_straps, hbad, strapsOf_rel, ite_self]

@[simp] theorem toPhase_straps (s : State) (id : Nat) (p : Phase) : strapsOf (toPhase s id p) = strapsOf s :=
    strapsOf_congr rfl

-- ===== codewords, tag records and sectors =====

@[simp] theorem cwWrite_straps (s : State) (st cw : Nat) (data : Line) (poison hit : Bool) (tgt : Nat) (dla : DLA) :
    strapsOf (cwWrite s st cw data poison hit tgt dla) = strapsOf s := by
  simp only [cwWrite, raise_straps, ite_straps, ite_self, strapsOf_rel]

@[simp] theorem metaWrite_straps (s : State) (b : Bench) (ls : BitVec 15) (m : Nat) :
    strapsOf (metaWrite s b ls m) = strapsOf s := by
  simp only [metaWrite, cwWrite_straps, ite_straps, ite_self]

@[simp] theorem tagDrop_straps (s : State) (k : Nat) :
    strapsOf (tagDrop s k) = strapsOf s := by
  simp only [tagDrop, contain_straps, metaWrite_straps, logRec_straps, ite_straps, ite_self, strapsOf_rel]

@[simp] theorem tagCheck_straps (s : State) (k : Nat) :
    strapsOf (tagCheck s k).1 = strapsOf s := by
  simp only [tagCheck, contain_straps, tagDrop_straps, logRec_straps, ite_fst_straps, ite_self]

@[simp] theorem residentCheck_straps (s : State) (b : Bench) (ls : BitVec 15) :
    strapsOf (residentCheck s b ls).1 = strapsOf s := by
  exact foldl_pair_straps _ (fun a w => by rw [ite_fst_straps, tagCheck_straps, ite_self]) _ _

@[simp] theorem storeTag_straps (s : State) (k : Nat) (t : TagRec) : strapsOf (storeTag s k t) = strapsOf s :=
    strapsOf_congr rfl

@[simp] theorem deliverMeta_straps (s : State) (b : Bench) (ls : BitVec 15) (m : Nat) :
    strapsOf (deliverMeta s b ls m) = strapsOf s := by
  unfold deliverMeta
  dsimp only
  split
  · rfl
  · exact foldl_straps _ (fun s w => by rw [ite_straps, storeTag_straps, ite_self]) _ _

@[simp] theorem outcomeCount_straps (s : State) (st k : Nat) : strapsOf (outcomeCount s st k) = strapsOf s :=
    strapsOf_congr rfl

@[simp] theorem raiseFirst_straps (s : State) (e island : Nat) (f : Fields) :
    strapsOf (raiseFirst s e island f) = strapsOf s := by
  simp only [raiseFirst, raise_straps, ite_straps, ite_self]

@[simp] theorem noteCorrected_straps (s : State) (b : Bench) (r : LogRec) (o : Outcome2) (meta_ : Bool) (m : Nat) :
    strapsOf (noteCorrected s b r o meta_ m) = strapsOf s := by
  unfold noteCorrected
  dsimp only
  split <;> simp only [outcomeCount_straps, raiseFirst_straps, logRec_straps, ite_straps, ite_self, strapsOf_rel]

@[simp] theorem metaReadAs_straps (scrub : Bool) (s : State) (b : Bench) (ls : BitVec 15) (m : Nat) :
    strapsOf (metaReadAs scrub s b ls m).1 = strapsOf s := by
  unfold metaReadAs
  dsimp only
  split
  · exact deliverMeta_straps _ _ _ _
  · rw [deliverMeta_straps, noteCorrected_straps]
  · rw [deliverMeta_straps, noteCorrected_straps]
  · rw [contain_straps, logRec_straps, outcomeCount_straps]

@[simp] theorem metaRead_straps (s : State) (b : Bench) (ls : BitVec 15) (m : Nat) :
    strapsOf (metaRead s b ls m).1 = strapsOf s := by simp only [metaRead, metaReadAs_straps]

@[simp] theorem setRead_straps (s : State) (b : Bench) (ls : BitVec 15) : strapsOf (setRead s b ls).1 = strapsOf s := by
  unfold setRead
  split
  · next h => exact straps_of_eq h (residentCheck_straps s b ls)
  · next t h =>
    have ht : strapsOf t = strapsOf s := straps_of_eq h (residentCheck_straps s b ls)
    split
    · exact ht
    · exact (metaRead_straps t b ls 0).trans ht

@[simp] theorem tagInstall_straps (s : State) (k : Nat) : strapsOf (tagInstall s k) = strapsOf s := by
  unfold tagInstall
  dsimp only
  split
  · rfl
  · split
    · rfl
    · split
      · rfl
      · exact tagDrop_straps _ _

@[simp] theorem recRead_straps (s : State) (b : Bench) (ls : BitVec 15) (w : Nat) :
    strapsOf (recRead s b ls w).1 = strapsOf s := by
  unfold recRead
  dsimp only
  split
  · exact tagCheck_straps _ _
  · split
    · next h => exact straps_of_eq h (metaRead_straps _ _ _ _)
    · next h => rw [tagCheck_straps, tagInstall_straps, straps_of_eq h (metaRead_straps _ _ _ _)]

@[simp] theorem poisonAdd_straps (s : State) (sa : SA) :
    strapsOf (poisonAdd s sa) = strapsOf s := by simp only [poisonAdd, raise_straps, ite_straps, ite_self, strapsOf_rel]

@[simp] theorem loseBlock_straps (s : State) (blk : BitVec 33) :
    strapsOf (loseBlock s blk) = strapsOf s := by simp only [loseBlock, clearResv_straps]

@[simp] theorem tagPut_straps (s : State) (k : Nat) (t : TagRec) :
    strapsOf (tagPut s k t) = strapsOf s := by
  simp only [tagPut, metaWrite_straps, storeTag_straps, tagInstall_straps, raise_straps, setBench_straps, ite_straps,
    ite_self, strapsOf_rel]

@[simp] theorem makeOrphan_straps (s : State) (k : Nat) : strapsOf (makeOrphan s k) = strapsOf s := by
  unfold makeOrphan
  have hPoisonAdd := poisonAdd_straps
  have hTagPut := tagPut_straps
  have hLoseBlock := loseBlock_straps
  have hRaise := raise_straps
  have hLogRec := logRec_straps
  have hRaiseFirst := raiseFirst_straps
  revert hPoisonAdd hTagPut hLoseBlock hRaise hLogRec hRaiseFirst
  generalize poisonAdd = poisonAdd', tagPut = tagPut', loseBlock = loseBlock', raise = raise', logRec = logRec',
    raiseFirst = raiseFirst'
  revert poisonAdd' tagPut' loseBlock' raise' logRec' raiseFirst'
  refine id fun poisonAdd' tagPut' loseBlock' raise' logRec' raiseFirst' hPoisonAdd hTagPut hLoseBlock hRaise hLogRec
    hRaiseFirst => ?_
  extract_lets t b n blk u v w rel x y z
  have hu : strapsOf u = strapsOf s := foldl_straps _ (fun s i => hPoisonAdd _ _) _ _
  have hx : strapsOf x = strapsOf s :=
    (strapsOf_rel _ _).trans ((hTagPut _ _ _).trans ((hLoseBlock _ _).trans hu))
  split
  · rfl
  · split
    · exact (hRaise _ _ _ _).trans ((hLogRec _ _).trans hx)
    · exact (hRaiseFirst _ _ _ _).trans (hTagPut _ _ _)

@[simp] theorem sectorWrite_straps (s : State) (dla : DLA) (w : Nat) (data : Line) (poison : Bool) :
    strapsOf (sectorWrite s dla w data poison) = strapsOf s := by simp only [sectorWrite, cwWrite_straps]

@[simp] theorem poisonSector_straps (s : State) (dla : DLA) (w : Nat) (r : LogRec) (who : Nat) :
    strapsOf (poisonSector s dla w r who) = strapsOf s := by
  simp only [poisonSector, outcomeCount_straps, poisonAdd_straps, sectorWrite_straps, logRec_straps, raise_straps]

@[simp] theorem sectorReadAs_straps (scrub : Bool) (s : State) (dla : DLA) (w : Nat) (who : Nat) :
    strapsOf (sectorReadAs scrub s dla w who).1 = strapsOf s := by
  unfold sectorReadAs
  have hCorrected := noteCorrected_straps
  have hOutcome := outcomeCount_straps
  have hPoison := poisonSector_straps
  have hPut := tagPut_straps
  have hLog := logRec_straps
  revert hCorrected hOutcome hPoison hPut hLog
  generalize noteCorrected = noteCorrected', outcomeCount = outcomeCount', poisonSector = poisonSector',
    tagPut = tagPut', logRec = logRec', retainedAt = retainedAt', decode = decode'
  revert noteCorrected' outcomeCount' poisonSector' tagPut' logRec' retainedAt' decode'
  refine id fun noteCorrected' outcomeCount' poisonSector' tagPut' logRec' retainedAt' decode' hCorrected hOutcome
    hPoison hPut hLog => ?_
  extract_lets b ls k t cw c r dirty lost u v
  generalize decode' c = d
  cases d with
  | clean => rfl
  | corrected d => exact hCorrected _ _ _ _ _ _
  | checkOnly d => exact hCorrected _ _ _ _ _ _
  | poison => exact hOutcome _ _ _
  | uncorrectable =>
    have hv : strapsOf v = strapsOf s := (hOutcome _ _ _).trans (hPut _ _ _)
    simp only [ite_fst_straps, hPoison, hLog, hv, ite_self]

@[simp] theorem sectorRead_straps (s : State) (dla : DLA) (w : Nat) (who : Nat) :
    strapsOf (sectorRead s dla w who).1 = strapsOf s := by simp only [sectorRead, sectorReadAs_straps]

-- ===== eviction, sweeps, scrub and examinations =====

@[simp] theorem xsend_straps (s : State) (x : XLink) (write : Bool) (dla : DLA) (sa : SA) (dpa : BitVec 64)
    (data : Line) (be : BitVec 64) (poison : Bool) (p : XPurpose) :
    strapsOf (xsend s x write dla sa dpa data be poison p) = strapsOf s := by
  simp only [xsend, countDev_straps, emit_straps, ite_straps, ite_self, strapsOf_cache]

@[simp] theorem evict_straps (s : State) (dla : DLA) (x : XLink) (dpa : BitVec 64) (data : Line) (poison : Bool) :
    strapsOf (evict s dla x dpa data poison) = strapsOf s := by
  simp only [evict, poisonAdd_straps, xsend_straps, countBench_straps, modBench_straps, ite_straps, ite_self]

@[simp] theorem cleanSector_straps (blk : BitVec 33) (w : Nat) (a : State × List Nat) (i : Nat) :
    strapsOf (cleanSector blk w a i).1 = strapsOf a.1 := by
  unfold cleanSector
  dsimp only
  split
  · split
    · next h => exact (evict_straps _ _ _ _ _ _).trans (straps_of_eq h (sectorRead_straps _ _ _ _))
    · next h => exact (evict_straps _ _ _ _ _ _).trans (straps_of_eq h (sectorRead_straps _ _ _ _))
  · rfl

@[simp] theorem cleanBlock_straps (s : State) (k : Nat) : strapsOf (cleanBlock s k).1 = strapsOf s := by
  unfold cleanBlock
  exact (tagPut_straps _ _ _).trans (foldl_pair_straps _ (cleanSector_straps _ _) _ _)

@[simp] theorem sweepWay_straps (b : Bench) (ls : BitVec 15) (a : State × Bool) (w : Nat) :
    strapsOf (sweepWay b ls a w).1 = strapsOf a.1 := by
  unfold sweepWay
  dsimp only
  split
  · rfl
  · split
    · next h => exact straps_of_eq h (recRead_straps _ _ _ _)
    · next h =>
      rw [ite_fst_straps, makeOrphan_straps, cleanBlock_straps, ite_self, straps_of_eq h (recRead_straps _ _ _ _)]

@[simp] theorem sweepSet_straps (s : State) (b : Bench) (ls : BitVec 15) :
    strapsOf (sweepSet s b ls).1 = strapsOf s := by
  unfold sweepSet
  split
  · next h => exact straps_of_eq h (setRead_straps _ _ _)
  · next h => rw [foldl_pair_straps _ (sweepWay_straps b ls), straps_of_eq h (setRead_straps _ _ _)]

@[simp] theorem addItems_straps (s : State) (b : Bench) (i n : Nat) :
    strapsOf (addItems s b i n) = strapsOf s := by simp only [addItems, setCnt_straps, ite_straps, ite_self,
      strapsOf_obs]

@[simp] theorem countItems_straps (s : State) (b : Bench) (code q n : Nat) :
    strapsOf (countItems s b code q n) = strapsOf s := by
  rw [countItems_frame, strapsOf_obs]

@[simp] theorem takeSpare_straps (s : State) (st cw spare : Nat) : strapsOf (takeSpare s st cw spare) = strapsOf s :=
    strapsOf_congr rfl

@[simp] theorem remapStart_straps (s : State) (st cw : Nat) (auto : Bool) :
    strapsOf (remapStart s st cw auto).1 = strapsOf s := by
  unfold remapStart
  dsimp only
  split
  · rfl
  · split
    · rfl
    · next spare _ => exact takeSpare_straps s st cw spare

@[simp] theorem autoRemap_straps (s : State) (st cw : Nat) :
    strapsOf (autoRemap s st cw) = strapsOf s := by
  simp only [autoRemap, remapStart_straps, ite_straps, ite_self, strapsOf_rel]

@[simp] theorem hardFault_straps (s : State) (st cw : Nat) (r : LogRec) :
    strapsOf (hardFault s st cw r) = strapsOf s := by
  simp only [hardFault, outcomeCount_straps, autoRemap_straps, logRec_straps, raise_straps, ite_straps, ite_self]

@[simp] theorem scrubData_straps (s : State) (b : Bench) (ls : BitVec 15) (w sec : Nat) :
    strapsOf (scrubData s b ls w sec) = strapsOf s := by
  simp only [scrubData, cwWrite_straps, outcomeCount_straps, noteCorrected_straps, sectorReadAs_straps,
    hardFault_straps, logRec_straps, ite_straps, ite_self]

@[simp] theorem scrubMeta_straps (s : State) (b : Bench) (ls : BitVec 15) (m : Nat) :
    strapsOf (scrubMeta s b ls m).1 = strapsOf s := by
  unfold scrubMeta
  dsimp only
  split
  · rfl
  · split
    · next h => exact straps_of_eq h (metaReadAs_straps _ _ _ _ _)
    · next h =>
      have ht := straps_of_eq h (metaReadAs_straps _ _ _ _ _)
      split
      · exact ht
      · rw [ite_fst_straps, hardFault_straps, metaWrite_straps, ite_self, ht]

@[simp] theorem scrubSet_straps (s : State) (b : Bench) (ls : BitVec 15) : strapsOf (scrubSet s b ls) = strapsOf s := by
  unfold scrubSet
  dsimp only
  split
  · rfl
  · refine (foldl_pair_straps _ (fun a m => by rw [ite_fst_straps, scrubMeta_straps, ite_self]) _ _).trans ?_
    refine foldl_straps _ (fun s w => ?_) _ _
    rw [ite_straps, foldl_straps _ (fun s sec => scrubData_straps s b ls w sec), ite_self]

@[simp] theorem scrubExam_straps (s : State) (b : Bench) (pass n : Nat) :
    strapsOf (scrubExam s b pass n) = strapsOf s := by
  simp only [scrubExam, countItems_straps, scrubSet_straps, modBench_straps, ite_straps, ite_self]

@[simp] theorem countBlock_straps (s : State) (p : Nat) : strapsOf (countBlock s p) = strapsOf s := by
  unfold countBlock; dsimp only; split <;> simp only [ite_straps, ite_self, strapsOf_cache]

@[simp] theorem dropBlock_straps (s : State) (k : Nat) (st : BState) :
    strapsOf (dropBlock s k st) = strapsOf s := by simp only [dropBlock, loseBlock_straps, tagPut_straps]

@[simp] theorem addDiscard_straps (s : State) (n : Nat) : strapsOf (addDiscard s n) = strapsOf s := strapsOf_congr rfl

@[simp] theorem addSkip_straps (s : State) : strapsOf (addSkip s) = strapsOf s := strapsOf_congr rfl

@[simp] theorem rangeWay_straps (s : State) (p k : Nat) : strapsOf (rangeWay s p k).1 = strapsOf s := by
  unfold rangeWay
  have hDropBlock := dropBlock_straps
  have hAddDiscard := addDiscard_straps
  have hAddSkip := addSkip_straps
  have hMakeOrphan := makeOrphan_straps
  have hCleanBlock := cleanBlock_straps
  revert hDropBlock hAddDiscard hAddSkip hMakeOrphan hCleanBlock
  generalize tagAt = tagAt', unwritable = unwritable', dropBlock = dropBlock', addDiscard = addDiscard',
    addSkip = addSkip', makeOrphan = makeOrphan', cleanBlock = cleanBlock'
  revert tagAt' unwritable' dropBlock' addDiscard' addSkip' makeOrphan' cleanBlock'
  refine id fun tagAt' unwritable' dropBlock' addDiscard' addSkip' makeOrphan' cleanBlock' hDropBlock hAddDiscard
    hAddSkip hMakeOrphan hCleanBlock => ?_
  dsimp only
  split
  · rw [hDropBlock, hAddDiscard]
  · split
    · rw [ite_straps, hAddSkip, ite_self]
    · split
      · rw [hDropBlock]
      · split
        · rw [ite_straps, hAddSkip, hMakeOrphan, ite_self]
        · have hc : strapsOf (if (tagAt' s k).dirty = 0 then (s, true) else cleanBlock' s k).1 = strapsOf s := by
            rw [ite_fst_straps, hCleanBlock, strapsOf_fst, ite_self]
          split
          · next h => exact straps_of_eq h hc
          · next h => rw [ite_straps, hDropBlock, ite_self, straps_of_eq h hc]

@[simp] theorem rangeBlock_straps (s : State) (p blk : Nat) : strapsOf (rangeBlock s p blk).1 = strapsOf s := by
  unfold rangeBlock
  have hSetRead := setRead_straps
  have hCountBlock := countBlock_straps
  have hRecRead := recRead_straps
  have hRangeWay := rangeWay_straps
  revert hSetRead hCountBlock hRecRead hRangeWay
  generalize findWay = findWay', setRead = setRead', countBlock = countBlock', recRead = recRead',
    rangeWay = rangeWay'
  revert findWay' setRead' countBlock' recRead' rangeWay'
  refine id fun findWay' setRead' countBlock' recRead' rangeWay' hSetRead hCountBlock hRecRead hRangeWay => ?_
  dsimp only
  split
  · next h => exact straps_of_eq h (hSetRead _ _ _)
  · next h =>
    have ht := straps_of_eq h (hSetRead _ _ _)
    split
    · exact (hCountBlock _ _).trans ht
    · split
      · next h => exact (straps_of_eq h (hRecRead _ _ _ _)).trans ht
      · next h =>
        have hu := (straps_of_eq h (hRecRead _ _ _ _)).trans ht
        split
        · next h => exact (hCountBlock _ _).trans ((straps_of_eq h (hRangeWay _ _ _)).trans hu)
        · next h => exact (straps_of_eq h (hRangeWay _ _ _)).trans hu

@[simp] theorem emptyBlock_straps (s : State) (blk : Nat) : strapsOf (emptyBlock s blk).1 = strapsOf s := by
  unfold emptyBlock
  have hSetRead := setRead_straps
  have hRecRead := recRead_straps
  have hDropBlock := dropBlock_straps
  revert hSetRead hRecRead hDropBlock
  generalize findWay = findWay', setRead = setRead', recRead = recRead', dropBlock = dropBlock'
  revert findWay' setRead' recRead' dropBlock'
  refine id fun findWay' setRead' recRead' dropBlock' hSetRead hRecRead hDropBlock => ?_
  dsimp only
  split
  · next h => exact straps_of_eq h (hSetRead _ _ _)
  · next h =>
    have ht := straps_of_eq h (hSetRead _ _ _)
    split
    · exact ht
    · split
      · next h => exact (straps_of_eq h (hRecRead _ _ _ _)).trans ht
      · next h =>
        rw [ite_straps, hDropBlock, ite_self]
        exact (straps_of_eq h (hRecRead _ _ _ _)).trans ht

@[simp] theorem examWork_straps (s : State) (b : Bench) (k : StepKind) (p n : Nat) :
    strapsOf (examWork s b k p n).1 = strapsOf s := by
  unfold examWork; split <;> simp only [sweepSet_straps, scrubExam_straps, rangeBlock_straps, emptyBlock_straps]

-- ===== answers =====

@[simp] theorem judge_straps (s : State) (r : Req) :
    strapsOf (judge s r).1 = strapsOf s := by unfold judge; split <;> rfl

@[simp] theorem starveCheck_straps (s : State) (cl : LClass) (ns : Nat) :
    strapsOf (starveCheck s cl ns) = strapsOf s := by
  simp only [starveCheck, raiseFirst_straps, ite_straps, ite_self, strapsOf_contract]

@[simp] theorem dropReq_straps (s : State) (id : Nat) : strapsOf (dropReq s id) = strapsOf s := strapsOf_congr rfl

@[simp] theorem peerSend_straps (s : State) (dst : DevId) (m : PeerMsg) (dl : Option Time) :
    strapsOf (peerSend s dst m dl) = strapsOf s := by
  unfold peerSend
  exact (countSent_straps _ _ _).trans (strapsOf_peer _ _)

@[simp] theorem jobFail_straps (s : State) (q : QueueId) (j : JobSeq) (off n : Nat) (st : JStatus) :
    strapsOf (jobFail s q j off n st) = strapsOf s := strapsOf_congr rfl

@[simp] theorem stepFail_straps (s : State) (b : Bench) (off n : Nat) (e : JStatus) :
    strapsOf (stepFail s b off n e) = strapsOf s := by
  unfold stepFail; split <;> simp only [jobFail_straps, modRun_straps]

@[simp] theorem storeRefused_straps (s : State) (b : Bench) (sa : SA) (e : JStatus) :
    strapsOf (storeRefused s b sa e) = strapsOf s := by
  unfold storeRefused
  split
  · rfl
  · split
    · rfl
    · rw [modJob_straps, stepFail_straps]

@[simp] theorem stepAnswer_straps (s : State) (op : ReqOp) (sa : SA) (b : Bench) (data : Line) (bad : Option JStatus) :
    strapsOf (stepAnswer s op sa b data bad) = strapsOf s := by
  unfold stepAnswer
  dsimp only
  split
  · split
    · rw [storeRefused_straps]; rfl
    · rfl
  · rfl

@[simp] theorem modQueue_straps (s : State) (q : QueueId) (f : QueueS → QueueS) :
    strapsOf (modQueue s q f) = strapsOf s := strapsOf_congr rfl

@[simp] theorem recordRefused_straps (s : State) (q : QueueId) :
    strapsOf (recordRefused s q) = strapsOf s := by
  simp only [recordRefused, raise_straps, setQueue_straps, ite_straps, ite_self]

@[simp] theorem recordDone_straps (s : State) (q : QueueId) (j : JobSeq) (bad : Option JStatus) :
    strapsOf (recordDone s q j bad) = strapsOf s := by
  unfold recordDone
  dsimp only
  split
  · rfl
  · split
    · rw [recordRefused_straps, ite_straps]; split <;> rfl
    · rw [ite_straps]; split <;> rfl

@[simp] theorem mboxReply_straps (s : State) (l : HLink) (m : BitVec 2) (code : BitVec 16) (payload : List Byte) :
    strapsOf (mboxReply s l m code payload) = strapsOf s := by
  simp only [mboxReply, msix_straps, emit_straps, setFn_straps, ite_straps, ite_self]

@[simp] theorem ringRefused_straps (s : State) (sa : SA) (st : DStatus) :
    strapsOf (ringRefused s sa st) = strapsOf s := by
  simp only [ringRefused, raise_straps, ite_straps, ite_self, strapsOf_obs]

@[simp] theorem answer_straps (s : State) (r : Req) (g : Grant) (wr : Bool) (data : Line) (poison : Bool) (bad :
    Option JStatus) :
    strapsOf (answer s r g wr data poison bad) = strapsOf s := by
  unfold answer
  dsimp only
  generalize r.org = o
  cases o <;> simp only [ite_straps, dropReq_straps, stepAnswer_straps, modQueue_straps, recordDone_straps, emit_straps,
    mboxReply_straps, ringRefused_straps, setReqs_straps, strapsOf_port, peerSend_straps, starveCheck_straps,
      modBench_straps, judge_straps, ite_self]

@[simp] theorem examine_straps (s : State) (r : Req) (k : StepKind) (p n : Nat) :
    strapsOf (examine s r k p n) = strapsOf s := by
  simp only [examine, toPhase_straps, examWork_straps, answer_straps, ite_straps, ite_self]

-- ===== lookups, reservations and marks =====

@[simp] theorem sfCheck_straps (s : State) (dla : DLA) : strapsOf (sfCheck s dla).1 = strapsOf s := by
  unfold sfCheck
  dsimp only
  generalize List.range 16 = ways
  refine foldl_pair_straps _ (fun a w => ?_) ways (s, true)
  simp only [ite_fst_straps, raiseFirst_straps, strapsOf_snoop, contain_straps, raise_straps, logRec_straps, ite_self]

@[simp] theorem lookup_straps (s : State) (r : Req) : strapsOf (lookup s r).1 = strapsOf s := by
  unfold lookup
  have hToPhase := toPhase_straps
  have hCountBench := countBench_straps
  have hResidentCheck := residentCheck_straps
  have hModReq := modReq_straps
  revert hToPhase hCountBench hResidentCheck hModReq
  generalize noLookup = noLookup', setLocked = setLocked', findWay = findWay', toPhase = toPhase',
    countBench = countBench', residentCheck = residentCheck', modReq = modReq'
  revert noLookup' setLocked' findWay' toPhase' countBench' residentCheck' modReq'
  refine id fun noLookup' setLocked' findWay' toPhase' countBench' residentCheck' modReq' hToPhase hCountBench
    hResidentCheck hModReq => ?_
  dsimp only
  split
  · rfl
  · split
    · rw [hModReq]
    · split
      · rw [hToPhase, hCountBench]
      · split
        · next h => exact straps_of_eq h (hResidentCheck _ _ _)
        · next h =>
          simp only [ite_fst_straps, hModReq, hCountBench, strapsOf_cache, ite_self]
          exact straps_of_eq h (hResidentCheck _ _ _)

@[simp] theorem takeResv_straps (s : State) (r : Req) : strapsOf (takeResv s r).1 = strapsOf s := by
  unfold takeResv
  extract_lets b dev mine t u good ok v
  have hu : strapsOf u = strapsOf s := (clearResv_straps _ _ _ _).trans (clearResv_straps _ _ _ _)
  rw [strapsOf_fst]
  exact (foldl_straps _ (fun s k => clearResv_straps s 6 mine k) _ _).trans ((modBench_straps _ _ _).trans hu)

@[simp] theorem modWin_straps (s : State) (w : WinId) (f : Win → Win) : strapsOf (modWin s w f) = strapsOf s :=
    strapsOf_congr rfl

@[simp] theorem markReq_straps (s : State) (r : Req) (dirty : Bool) : strapsOf (markReq s r dirty) = strapsOf s :=
    strapsOf_congr rfl

@[simp] theorem resvOk_straps (s : State) (r : Req) : strapsOf (resvOk s r).1 = strapsOf s := by
  unfold resvOk
  split
  · split
    · next h => have ht := straps_of_eq h (takeResv_straps s r); exact ht
    · next h => rw [answer_straps, markReq_straps, countBench_straps, straps_of_eq h (takeResv_straps s r)]
  · rfl

-- ===== back-invalidates and the snoop filter =====

@[simp] theorem countFlit_straps (s : State) (l : HLink) : strapsOf (countFlit s l) = strapsOf s := strapsOf_congr rfl

@[simp] theorem snpOut_straps (s : State) (e : SnoopTab) : strapsOf (snpOut s e) = strapsOf s := strapsOf_congr rfl

@[simp] theorem snpArrive_straps (s : State) (m : PeerSnp) : strapsOf (snpArrive s m) = strapsOf s := by
  unfold snpArrive; dsimp only; split <;> simp only [snpOut_straps, ite_straps, ite_self, strapsOf_snoop]

@[simp] theorem issueSnoop_straps (s : State) (r : Nat) (dla : DLA) (hs : HostSock) (k : SnpKind) (evict wasAny :
    Bool) :
    strapsOf (issueSnoop s r dla hs k evict wasAny) = strapsOf s := by
  simp only [issueSnoop, peerSend_straps, snpArrive_straps, countBench_straps, ite_straps, ite_self, strapsOf_snoop]

@[simp] theorem loseResv_straps (s : State) (r : Req) (c : Nat) (own : Bool) :
    strapsOf (loseResv s r c own) = strapsOf s := by simp only [loseResv, clearResv_straps]

@[simp] theorem sendSnoops_straps (s : State) (r : Req) (dla : DLA) (l : List (HostSock × SnpKind)) (ev wasAny : Bool) :
    strapsOf (sendSnoops s r dla l ev wasAny) = strapsOf s := by
  unfold sendSnoops
  dsimp only
  rw [modReq_straps, toPhase_straps, loseResv_straps]
  exact foldl_straps _ (fun s t => issueSnoop_straps _ _ _ _ _ _ _) _ _

@[simp] theorem refuse_straps (s : State) (rights : Bool) (sa : SA) (w : Nat) (k : RqKind) (src island : Nat) :
    strapsOf (refuse s rights sa w k src island) = strapsOf s := by
  simp only [refuse, raiseFirst_straps, ite_straps, ite_self, strapsOf_region]

@[simp] theorem grantRefused_straps (s : State) (r : Req) :
    strapsOf (grantRefused s r) = strapsOf s := by simp only [grantRefused, answer_straps, refuse_straps]

@[simp] theorem sendMark_straps (s : State) (r : Req) (seg : BitVec 6) (island : Nat) :
    strapsOf (sendMark s r seg island) = strapsOf s := strapsOf_congr rfl

@[simp] theorem trapNow_straps (s : State) (r : Req) : strapsOf (trapNow s r) = strapsOf s := strapsOf_congr rfl

@[simp] theorem sfWrite_straps (s : State) (b : Bench) (set w : Nat) (e : SfEntry) :
    strapsOf (sfWrite s b set w e) = strapsOf s := by
  simp only [sfWrite, raise_straps, setBench_straps, ite_straps, ite_self, strapsOf_snoop]

@[simp] theorem sfEvict_straps (s : State) (r : Req) :
    strapsOf (sfEvict s r) = strapsOf s := by
  simp only [sfEvict, sendSnoops_straps, sfWrite_straps, countBench_straps, modReq_straps, ite_straps, ite_self,
    strapsOf_snoop]

@[simp] theorem useRecord_straps (s : State) (r : Req) : strapsOf (useRecord s r).1 = strapsOf s := by
  unfold useRecord; dsimp only
  split
  · rfl
  · split <;> simp only [recRead_straps]

-- ===== writes and their drains =====

@[simp] theorem discardLost_straps (s : State) (w : WinId) (b : Bench) (dla : DLA) :
    strapsOf (discardLost s w b dla) = strapsOf s := by simp only [discardLost, raiseFirst_straps, logRec_straps,
      strapsOf_rel]

@[simp] theorem setW_straps (s : State) (b : Bench) (l : List WEntry) : strapsOf (setW s b l) = strapsOf s :=
    strapsOf_congr rfl

@[simp] theorem modW_straps (s : State) (b : Bench) (slot : BitVec 6) (f : WEntry → WEntry) :
    strapsOf (modW s b slot f) = strapsOf s := strapsOf_congr rfl

@[simp] theorem placeMerge_straps (s : State) (b : Bench) (e : WEntry) (data : Line) (be : BitVec 64) (poison : Bool) :
    strapsOf (placeMerge s b e data be poison) = strapsOf s := strapsOf_congr rfl

@[simp] theorem placeNew_straps (s : State) (r : Req) (slot : Nat) (data : Line) (be : BitVec 64) (poison : Bool) :
    strapsOf (placeNew s r slot data be poison) = strapsOf s := strapsOf_congr rfl

@[simp] theorem scanCount_straps (s : State) (b : Bench) (w : WinId) (up : Bool) :
    strapsOf (scanCount s b w up) = strapsOf s := strapsOf_congr rfl

@[simp] theorem onHit_straps (s : State) (k : Nat) : strapsOf (onHit s k) = strapsOf s := by
  unfold onHit
  dsimp only
  split
  · exact tagPut_straps _ _ _
  · split
    · rw [scanCount_straps, tagPut_straps]
    · exact tagPut_straps _ _ _

@[simp] theorem chooseVictim_straps (n : Nat) (s : State) (b : Bench) (ls : BitVec 15) :
    strapsOf (chooseVictim n s b ls).1 = strapsOf s := by
  induction n generalizing s with
  | zero => rfl
  | succ n ih =>
    rw [chooseVictim]
    have hPut := tagPut_straps
    have hOrphan := makeOrphan_straps
    revert ih hPut hOrphan
    generalize chooseVictim n = victim', tagPut = tagPut', makeOrphan = makeOrphan', tagAt = tagAt',
      unwritable = unwritable', candidate = candidate'
    revert victim' tagPut' makeOrphan' tagAt' unwritable' candidate'
    refine id fun victim' tagPut' makeOrphan' tagAt' unwritable' candidate' ih hPut hOrphan => ?_
    split
    · rfl
    · split
      · rfl
      · extract_lets top t
        have ht : strapsOf t = strapsOf s := by
          rw [ite_straps, foldl_straps _ (fun s w => hPut _ _ _), ite_self]
        clear_value t
        split
        · exact ht
        · split
          · exact (ih _).trans ((hOrphan _ _).trans ht)
          · exact ht

@[simp] theorem evictWay_straps (s : State) (k : Nat) : strapsOf (evictWay s k).1 = strapsOf s := by
  unfold evictWay
  extract_lets t b
  split
  · rfl
  · split
    · next h => exact straps_of_eq h (recRead_straps _ _ _ _)
    · next u h =>
      have hu : strapsOf u = strapsOf s := straps_of_eq h (recRead_straps _ _ _ _)
      dsimp only
      rw [cleanBlock_straps, loseBlock_straps]
      split
      · rw [countBench_straps, hu]
      · split
        · rw [scanCount_straps, countBench_straps, countBench_straps, hu]
        · rw [countBench_straps, countBench_straps, hu]

@[simp] theorem allocate_straps (s : State) (dla : DLA) (w : WinId) (ins : BitVec 2) :
    strapsOf (allocate s dla w ins).1 = strapsOf s := by
  unfold allocate
  have hResidentCheck := residentCheck_straps
  have hChooseVictim := chooseVictim_straps
  have hEvictWay := evictWay_straps
  have hTagPut := tagPut_straps
  have hCountBench := countBench_straps
  revert hResidentCheck hChooseVictim hEvictWay hTagPut hCountBench
  generalize residentCheck = residentCheck', chooseVictim = chooseVictim', evictWay = evictWay', tagPut = tagPut',
    countBench = countBench'
  revert residentCheck' chooseVictim' evictWay' tagPut' countBench'
  refine id fun residentCheck' chooseVictim' evictWay' tagPut' countBench' hResidentCheck hChooseVictim hEvictWay
    hTagPut hCountBench => ?_
  dsimp only
  split
  · next h => exact straps_of_eq h (hResidentCheck _ _ _)
  · next h =>
    have ht := straps_of_eq h (hResidentCheck _ _ _)
    split
    · next h => exact (straps_of_eq h (hChooseVictim _ _ _ _)).trans ht
    · next h =>
      have hu := (straps_of_eq h (hChooseVictim _ _ _ _)).trans ht
      split
      · next h => exact (straps_of_eq h (hEvictWay _ _)).trans hu
      · next h =>
        rw [hTagPut, ite_straps, hCountBench, hCountBench, ite_self]
        exact (straps_of_eq h (hEvictWay _ _)).trans hu

@[simp] theorem drainWay_straps (s : State) (e : WEntry) : strapsOf (drainWay s e).1 = strapsOf s := by
  unfold drainWay
  have hRecRead := recRead_straps
  have hOnHit := onHit_straps
  have hSetRead := setRead_straps
  have hAllocate := allocate_straps
  revert hRecRead hOnHit hSetRead hAllocate
  generalize wayOfDla = wayOfDla', recRead = recRead', onHit = onHit', setRead = setRead', allocate = allocate'
  revert wayOfDla' recRead' onHit' setRead' allocate'
  refine id fun wayOfDla' recRead' onHit' setRead' allocate' hRecRead hOnHit hSetRead hAllocate => ?_
  dsimp only
  split
  · rfl
  · split
    · split
      · next h => exact straps_of_eq h (hRecRead _ _ _ _)
      · next h => exact (hOnHit _ _).trans (straps_of_eq h (hRecRead _ _ _ _))
    · split
      · next h => exact straps_of_eq h (hSetRead _ _ _)
      · next h =>
        rw [ite_fst_straps, hAllocate, ite_self]
        exact straps_of_eq h (hSetRead _ _ _)

@[simp] theorem holdReads_straps (s : State) (dla : DLA) : strapsOf (holdReads s dla) = strapsOf s := by
  unfold holdReads; exact foldl_straps _ (fun s a => by simp only [toPhase_straps]) _ _

@[simp] theorem storeSector_straps (s : State) (dla : DLA) (w : Nat) (data : Line) (poison dirty : Bool) :
    strapsOf (storeSector s dla w data poison dirty) = strapsOf s := by
  simp only [storeSector, poisonAdd_straps, tagPut_straps, sectorWrite_straps, ite_straps, ite_self]

@[simp] theorem voidFill_straps (s : State) (b : Bench) (e : WEntry) : strapsOf (voidFill s b e) = strapsOf s :=
    strapsOf_congr rfl

@[simp] theorem drainWrite_straps (s : State) (b : Bench) (e : WEntry) (data : Line) (be : BitVec 64) (poison : Bool) :
    strapsOf (drainWrite s b e data be poison) = strapsOf s := by
  simp only [drainWrite, xsend_straps, modW_straps, voidFill_straps]

@[simp] theorem drainPlace_straps (s : State) (b : Bench) (e : WEntry) (way : Option Nat) (data : Line) (poison :
    Bool) :
    strapsOf (drainPlace s b e way data poison) = strapsOf s := by
  unfold drainPlace
  split <;>
    simp only [makeOrphan_straps, discardLost_straps, modW_straps, storeSector_straps, drainWrite_straps, ite_straps,
      ite_self]

@[simp] theorem drainFetch_straps (s : State) (b : Bench) (e : WEntry) :
    strapsOf (drainFetch s b e) = strapsOf s := by unfold drainFetch; split <;> simp only [xsend_straps, modW_straps]

@[simp] theorem drainMerge_straps (s : State) (b : Bench) (e : WEntry) (w : Nat) :
    strapsOf (drainMerge s b e w) = strapsOf s := by
  unfold drainMerge
  split
  · split
    · next h => rw [drainPlace_straps, straps_of_eq h (sectorRead_straps _ _ _ _)]
    · next h => rw [drainPlace_straps, straps_of_eq h (sectorRead_straps _ _ _ _)]
    · next h => rw [drainFetch_straps, straps_of_eq h (sectorRead_straps _ _ _ _)]
  · split
    · rw [drainPlace_straps]
    · split
      · rw [drainPlace_straps]
      · rw [drainFetch_straps]

@[simp] theorem startDrain_straps (s : State) (b : Bench) (slot : BitVec 6) :
    strapsOf (startDrain s b slot) = strapsOf s := by
  unfold startDrain
  split
  · rfl
  · next e _ =>
    have hw : strapsOf (drainWay (holdReads (countBench s b 0x00B 0) e.dla) e).1 = strapsOf s := by
      rw [drainWay_straps, holdReads_straps, countBench_straps]
    split
    · next h => exact straps_of_eq h hw
    · next h =>
      have ht := straps_of_eq h hw
      split
      · rw [drainPlace_straps, ht]
      · split
        · rw [drainMerge_straps, ht]
        · rw [ite_straps, modW_straps, discardLost_straps, drainWrite_straps, ite_self, ht]

@[simp] theorem forceDrain_straps (s : State) (b : Bench) (l : List Nat) :
    strapsOf (forceDrain s b l) = strapsOf s := by unfold forceDrain; split <;> simp only [startDrain_straps]

@[simp] theorem placeWrite_straps (s : State) (r : Req) (data : Line) (be : BitVec 64) (poison : Bool) :
    strapsOf (placeWrite s r data be poison).1 = strapsOf s := by
  unfold placeWrite
  dsimp only
  split
  · rw [discardLost_straps]
  · split
    · rw [modReq_straps, toPhase_straps]
    · split
      · rw [countBench_straps, placeMerge_straps]
      · split
        · rw [toPhase_straps]
        · split
          · rw [placeNew_straps]
          · rw [toPhase_straps, forceDrain_straps, countBench_straps]

-- ===== the order of a line =====

@[simp] theorem poisonDel_straps (s : State) (sa : SA) : strapsOf (poisonDel s sa) = strapsOf s := strapsOf_congr rfl

@[simp] theorem performed_straps (s : State) (r : Req) (full poison : Bool) :
    strapsOf (performed s r full poison) = strapsOf s := by
  unfold performed
  split
  · rfl
  · extract_lets t u v c w
    have hv : strapsOf v = strapsOf s := by
      simp only [v, u, t, ite_straps, poisonAdd_straps, poisonDel_straps, loseResv_straps, markReq_straps, ite_self]
    have hw : strapsOf w = strapsOf s := by simp only [w, ite_straps, strapsOf_cache, ite_self, hv]
    clear_value w
    split
    · split
      · rw [ite_straps, modLink_straps, ite_self, hw]
      · exact hw
    · exact hw

@[simp] theorem sfTouch_straps (s : State) (b : Bench) (set w : Nat) : strapsOf (sfTouch s b set w) = strapsOf s :=
    strapsOf_congr rfl

@[simp] theorem sfSetWays_straps (s : State) (dla : DLA) (st : SfState) (p : BitVec 16) (ways : List Nat) :
    strapsOf (sfSetWays s dla st p ways) = strapsOf s := by
  unfold sfSetWays
  dsimp only
  split
  · simp only [ite_straps, sfTouch_straps, sfWrite_straps, ite_self]
  · split
    · rfl
    · split
      · rw [sfTouch_straps, sfWrite_straps]
      · rfl

@[simp] theorem startHold_straps (s : State) (dla : DLA) : strapsOf (startHold s dla) = strapsOf s := strapsOf_congr rfl

@[simp] theorem sfRemove_straps (s : State) (dla : DLA) (hs : HostSock) :
    strapsOf (sfRemove s dla hs) = strapsOf s := by unfold sfRemove; split <;> simp only [sfWrite_straps]

@[simp] theorem sfSetLine_straps (s : State) (dla : DLA) (st : SfState) (p : BitVec 16) :
    strapsOf (sfSetLine s dla st p) = strapsOf s := by simp only [sfSetLine, sfSetWays_straps]

@[simp] theorem sfAfter_straps (s : State) (r : Req) : strapsOf (sfAfter s r).1 = strapsOf s := by
  unfold sfAfter
  dsimp only
  split <;>
    simp only [sfSetWays_straps, startHold_straps, sfRemove_straps, sfSetLine_straps, ite_fst_straps, ite_self]

@[simp] theorem writePath_straps (s : State) (r : Req) : strapsOf (writePath s r) = strapsOf s := by
  unfold writePath
  split
  · next h => exact straps_of_eq h (placeWrite_straps _ _ _ _ _)
  · next h => rw [answer_straps, sfAfter_straps, performed_straps, straps_of_eq h (placeWrite_straps _ _ _ _ _)]

@[simp] theorem drained_straps (s : State) (r : Req) : strapsOf (drained s r).1 = strapsOf s := by
  unfold drained; split <;> simp only [toPhase_straps, startDrain_straps, ite_fst_straps, ite_self]

@[simp] theorem finish_straps (s : State) (r : Req) (data : Line) (poison : Bool) :
    strapsOf (finish s r data poison) = strapsOf s := by
  unfold finish
  split
  · rw [answer_straps]
  · extract_lets n o old msk new
    split
    · rw [answer_straps, markReq_straps]
    · split
      · rw [answer_straps, countBench_straps, markReq_straps]
      · split
        · next h => exact straps_of_eq h (placeWrite_straps _ _ _ _ _)
        · next h => rw [answer_straps, performed_straps, countBench_straps, straps_of_eq h (placeWrite_straps _ _ _ _
          _)]
  · extract_lets n b dev mine t u v w
    have ht : strapsOf t = strapsOf s :=
      foldl_straps _ (fun s k => by rw [clearResv_straps, clearResv_straps]) _ s
    have hu : strapsOf u = strapsOf s := by
      dsimp only [u]
      split
      · rw [ite_straps, clearResv_straps, ite_self, ht]
      · exact ht
    split
    · rw [answer_straps, markReq_straps]
    · rw [answer_straps, markReq_straps, countBench_straps, modBench_straps, hu]
  · dsimp only
    rw [answer_straps, ite_straps, markReq_straps, sfAfter_straps, ite_self]

@[simp] theorem fetchSectors_straps (s : State) (dla : DLA) (w : WinId) (c : LClass) (way : Option Nat) (l : List Nat) :
    strapsOf (fetchSectors s dla w c way l) = strapsOf s := by
  induction l generalizing s with
  | nil => rfl
  | cons i t ih =>
    unfold fetchSectors
    cases way with
    | none =>
      dsimp only
      rw [ih]
      split
      · rfl
      · cases evqOf s (dlaOfBlk (blkOfDla dla) i) with
        | none => exact (xsend_straps ..).trans (countBench_straps _ _ _ _)
        | some e => rfl
    | some y =>
      dsimp only
      rw [ih]
      split
      · rfl
      · cases evqOf s (dlaOfBlk (blkOfDla dla) i) with
        | none => exact (xsend_straps ..).trans (countBench_straps _ _ _ _)
        | some e => exact (tagPut_straps _ _ _).trans (sectorWrite_straps _ _ _ _ _)

@[simp] theorem farRead_straps (s : State) (r : Req) (way : Option Nat) (secs : List Nat) :
    strapsOf (farRead s r way secs) = strapsOf s := by
  simp only [farRead, toPhase_straps, finish_straps, fetchSectors_straps, modReq_straps, ite_straps, ite_self]

@[simp] theorem readMiss_straps (s : State) (r : Req) (way : Option Nat) (secs : List Nat) :
    strapsOf (readMiss s r way secs) = strapsOf s := by
  unfold readMiss; split <;> simp only [finish_straps, farRead_straps, countBench_straps]

@[simp] theorem readCache_straps (s : State) (r : Req) : strapsOf (readCache s r) = strapsOf s := by
  unfold readCache
  have hReadMiss := readMiss_straps
  have hToPhase := toPhase_straps
  have hOnHit := onHit_straps
  have hFarRead := farRead_straps
  have hAllocate := allocate_straps
  revert hReadMiss hToPhase hOnHit hFarRead hAllocate
  generalize findWay = findWay', readMiss = readMiss', toPhase = toPhase', onHit = onHit', farRead = farRead',
    allocate = allocate'
  revert findWay' readMiss' toPhase' onHit' farRead' allocate'
  refine id fun findWay' readMiss' toPhase' onHit' farRead' allocate' hReadMiss hToPhase hOnHit hFarRead hAllocate =>
    ?_
  dsimp only
  split
  · rw [hReadMiss]
  · split
    · rw [ite_straps, hToPhase, hReadMiss, ite_self, hOnHit]
    · split
      · rw [hReadMiss]
      · split
        · next h => rw [hFarRead, straps_of_eq h (hAllocate _ _ _ _)]
        · next h => rw [ite_straps, hFarRead, ite_self, straps_of_eq h (hAllocate _ _ _ _)]

@[simp] theorem readPath_straps (s : State) (r : Req) : strapsOf (readPath s r) = strapsOf s := by
  unfold readPath
  split <;> simp only [toPhase_straps, finish_straps, readCache_straps, countBench_straps, ite_straps, ite_self]

@[simp] theorem releaseSectors_straps (s : State) (r : Req) (mask : BitVec 64) (orphanOnly keep : Bool) :
    strapsOf (releaseSectors s r mask orphanOnly keep) = strapsOf s := by
  rw [(by delta releaseSectors; rfl : @releaseSectors = _)]
  split
  · rfl
  · extract_lets k t v d
    split
    · rfl
    · split
      · rw [tagPut_straps, loseBlock_straps]
      · rw [tagPut_straps]

@[simp] theorem flushPath_straps (s : State) (r : Req) (inval : Bool) : strapsOf (flushPath s r inval) = strapsOf s :=
    by
  unfold flushPath
  have hDrained := drained_straps
  have hToPhase := toPhase_straps
  have hAnswer := answer_straps
  have hReleaseSectors := releaseSectors_straps
  have hMakeOrphan := makeOrphan_straps
  have hTagPut := tagPut_straps
  have hEvict := evict_straps
  have hSectorRead := sectorRead_straps
  revert hDrained hToPhase hAnswer hReleaseSectors hMakeOrphan hTagPut hEvict hSectorRead
  generalize evqOf = evqOf', tagAt = tagAt', wayOfDla = wayOfDla', writeTarget = writeTarget', drained = drained',
    toPhase = toPhase', answer = answer', releaseSectors = releaseSectors', makeOrphan = makeOrphan', tagPut = tagPut',
    evict = evict', sectorRead = sectorRead'
  revert evqOf' tagAt' wayOfDla' writeTarget' drained' toPhase' answer' releaseSectors' makeOrphan' tagPut' evict'
    sectorRead'
  refine id fun evqOf' tagAt' wayOfDla' writeTarget' drained' toPhase' answer' releaseSectors' makeOrphan' tagPut'
    evict' sectorRead' hDrained hToPhase hAnswer hReleaseSectors hMakeOrphan hTagPut hEvict hSectorRead => ?_
  dsimp only
  split
  · next h => exact straps_of_eq h (hDrained _ _)
  · next h =>
    have ht := straps_of_eq h (hDrained _ _)
    split
    · rw [hToPhase, ht]
    · split
      · rw [hAnswer, ht]
      · split
        · rw [hAnswer, ite_straps, hReleaseSectors, ite_self, ht]
        · split
          · rw [hAnswer, ht]
          · split
            · rw [hToPhase, ht]
            · split
              · rw [hAnswer, hMakeOrphan, ht]
              · rw [hToPhase, hTagPut]
                split
                · rw [hEvict, hSectorRead, ht]
                · rw [hEvict, hSectorRead, ht]

@[simp] theorem dropBuffered_straps (s : State) (r : Req) (m : BitVec 64) :
    strapsOf (dropBuffered s r m) = strapsOf s := strapsOf_congr rfl

@[simp] theorem perform_straps (s : State) (r : Req) : strapsOf (perform s r) = strapsOf s := by
  unfold perform
  split
  · rw [writePath_straps]
  · rw [writePath_straps]
  · rw [writePath_straps]
  · rw [writePath_straps]
  · rw [answer_straps, markReq_straps, sfAfter_straps]
  · rw [answer_straps, markReq_straps, sfAfter_straps]
  · split
    · next h => rw [readPath_straps, straps_of_eq h (drained_straps _ _)]
    · next h => exact straps_of_eq h (drained_straps _ _)
  · split
    · next h => rw [readPath_straps, straps_of_eq h (drained_straps _ _)]
    · next h => exact straps_of_eq h (drained_straps _ _)
  · split
    · next h => exact straps_of_eq h (drained_straps _ _)
    · next h =>
      have ht := straps_of_eq h (drained_straps _ _)
      extract_lets n
      split
      · next h => exact (straps_of_eq h (placeWrite_straps _ _ _ _ _)).trans ht
      · next h =>
        rw [answer_straps, performed_straps, countBench_straps]
        exact (straps_of_eq h (placeWrite_straps _ _ _ _ _)).trans ht
  · rw [flushPath_straps]
  · extract_lets valid ins
    split
    · rw [answer_straps]
    · rw [readPath_straps]
  · split
    · next h => exact straps_of_eq h (drained_straps _ _)
    · next h => rw [answer_straps, releaseSectors_straps, straps_of_eq h (drained_straps _ _)]
  · split
    · rw [toPhase_straps]
    · rw [answer_straps, releaseSectors_straps, dropBuffered_straps]
  · rw [readPath_straps]
  · rw [readPath_straps]
  · rw [readPath_straps]
  · rw [readPath_straps]

@[simp] theorem proceed_straps (s : State) (r : Req) (e : SfEntry) : strapsOf (proceed s r e) = strapsOf s := by
  unfold proceed
  dsimp only
  split
  · rw [grantRefused_straps]
  · split
    · rw [trapNow_straps]
    · split
      · rw [sfEvict_straps]
      · split
        · rw [toPhase_straps]
        · split
          · next h => rw [perform_straps, straps_of_eq h (useRecord_straps _ _)]
          · next h => exact straps_of_eq h (useRecord_straps _ _)

@[simp] theorem serveLine_straps (s : State) (r : Req) : strapsOf (serveLine s r) = strapsOf s := by
  unfold serveLine
  extract_lets id b s1
  split
  · next h => rw [straps_of_eq h (sfCheck_straps _ _), countBench_straps]
  · next t h =>
    have ht : strapsOf t = strapsOf s := by rw [straps_of_eq h (sfCheck_straps _ _), countBench_straps]
    extract_lets e u
    have hu : strapsOf u = strapsOf s := by simp only [u, ite_straps, countBench_straps, ite_self, ht]
    clear_value u
    split
    · exact hu
    · split
      · next h => exact (straps_of_eq h (lookup_straps _ _)).trans hu
      · next v h =>
        have hv : strapsOf v = strapsOf s := (straps_of_eq h (lookup_straps _ _)).trans hu
        split
        · next h => exact (straps_of_eq h (resvOk_straps _ _)).trans hv
        · next w h =>
          have hw : strapsOf w = strapsOf s := (straps_of_eq h (resvOk_straps _ _)).trans hv
          extract_lets r sn
          split
          · split
            · rw [modReq_straps, toPhase_straps, countBench_straps]; exact hw
            · split
              · exact hw
              · rw [sendSnoops_straps, hw]
          · rw [proceed_straps, hw]

@[simp] theorem serve_straps (s : State) (id : Nat) : strapsOf (serve s id) = strapsOf s := by
  unfold serve
  dsimp only
  split
  · rfl
  · split
    · rfl
    · split
      · rw [sramCheck_straps]
      · split
        · rw [examine_straps, sramCheck_straps]
        · rw [serveLine_straps, sramCheck_straps]

@[simp] theorem settleFuel_straps (n : Nat) (s : State) : strapsOf (settleFuel n s) = strapsOf s := by
  induction n generalizing s with
  | zero => rfl
  | succ n ih =>
    unfold settleFuel
    dsimp only
    split
    · rfl
    · split
      · rw [grantTrackers_straps]
      · rw [ite_straps, ih, ite_self, foldl_straps serve serve_straps, grantTrackers_straps]

@[simp] theorem settle_straps (s : State) : strapsOf (settle s) = strapsOf s := by simp only [settle, settleFuel_straps]

@[simp] theorem tableFree_straps (s : State) (e : SnoopTab) : strapsOf (tableFree s e) = strapsOf s := by
  unfold tableFree; dsimp only; split <;> simp only [snpArrive_straps, strapsOf_snoop]

@[simp] theorem snoopDone_straps (s : State) (v : Snoop) (timedOut : Bool) :
    strapsOf (snoopDone s v timedOut) = strapsOf s := by
  simp only [snoopDone, toPhase_straps, modReq_straps, ite_straps, ite_self, strapsOf_snoop]

@[simp] theorem snoopTimeout_straps (s : State) (v : Snoop) : strapsOf (snoopTimeout s v) = strapsOf s := by
  unfold snoopTimeout
  have hPoisonAdd := poisonAdd_straps
  have hModW := modW_straps
  have hStoreSector := storeSector_straps
  have hSetW := setW_straps
  have hSnoopDone := snoopDone_straps
  have hRaise := raise_straps
  have hLogRec := logRec_straps
  have hTableFree := tableFree_straps
  have hSfRemove := sfRemove_straps
  revert hPoisonAdd hModW hStoreSector hSetW hSnoopDone hRaise hLogRec hTableFree hSfRemove
  generalize wFresh = wFresh', wDraining = wDraining', setLocked = setLocked', wayOfDla = wayOfDla',
    windowAt = windowAt', poisonAdd = poisonAdd', modW = modW', storeSector = storeSector', setW = setW',
    snoopDone = snoopDone', raise = raise', logRec = logRec', tableFree = tableFree', sfRemove = sfRemove'
  revert wFresh' wDraining' setLocked' wayOfDla' windowAt' poisonAdd' modW' storeSector' setW' snoopDone' raise'
    logRec' tableFree' sfRemove'
  refine id fun wFresh' wDraining' setLocked' wayOfDla' windowAt' poisonAdd' modW' storeSector' setW' snoopDone'
    raise' logRec' tableFree' sfRemove' hPoisonAdd hModW hStoreSector hSetW hSnoopDone hRaise hLogRec hTableFree
    hSfRemove => ?_
  extract_lets b p n t u v
  have hp : strapsOf p = strapsOf s := hPoisonAdd _ _
  have ht : strapsOf t = strapsOf s := by
    dsimp only [t]
    split
    · split
      · rw [hModW, hp]
      · rw [hStoreSector, hp]
      · split
        · rw [hSetW, hp]
        · exact hp
    · rfl
  rw [hSnoopDone, hRaise, hLogRec, strapsOf_snoop]
  exact (foldl_straps _ hTableFree _ _).trans ((hSfRemove _ _ _).trans ht)

@[simp] theorem unreachableSnoops_straps (s : State) : strapsOf (unreachableSnoops s) = strapsOf s := by
  unfold unreachableSnoops; exact foldl_straps _ (fun s a => by simp only [snoopTimeout_straps]) _ _

@[simp] theorem run_straps (s : State) :
    strapsOf (run s) = strapsOf s := by
  simp only [run, settle_straps, unreachableSnoops_straps, ite_straps, ite_self]

end Sys2Proof.Machine
end

section
/-!
Deletion, parameters and revocation (O26): what each command does to contracts and shares (R147, R165, R166, R169).
-/

-- In order: each declaration that waits for another in a thread of its own adds to the memory of the whole compile.
set_option Elab.async false

namespace Sys2Proof.Machine

@[simp] theorem contractOf_entered (s : State) (acc : Accessor) (i : CIdx) : contractOf (entered s acc) i = contractOf s i := by
  simp only [contractOf, entered_contract]

@[simp] theorem homes_entered (s : State) (acc : Accessor) (c : Contract) : homes (entered s acc) c = homes s c := by
  simp only [homes, devId, entered_dev]

-- ===== deletion (R147) =====

/-- The homes of a contract other than this device depend on the device's number alone. -/
theorem homes_of_straps {s t : State} (c : Contract) (h : strapsOf t = strapsOf s) : homes t c = homes s c := by
  have hid : devId t = devId s := congrArg (·.bid) h
  rw [homes, homes, hid]

@[simp] theorem setPools_straps (s : State) : strapsOf (setPools s) = strapsOf s := by
  unfold setPools
  generalize benchList = benches
  refine foldl_straps _ (fun _ _ => ?_) benches s
  rfl

@[simp] theorem dropShare_straps (s : State) (src : DevId) (i : CIdx) : strapsOf (dropShare s src i) = strapsOf s := by
  unfold dropShare
  split
  · rfl
  · dsimp only
    rw [ite_straps, run_straps, setPools_straps, ite_self]
    exact strapsOf_congr (setShares_dev _ _)

@[simp] theorem stopBucket_straps (s : State) (i : CIdx) : strapsOf (stopBucket s i) = strapsOf s := by
  simp only [stopBucket, ite_straps, strapsOf_contract, strapsOf_congr (setContract_dev _ _ _), ite_self]

/-- An entry whose bucket has stopped: an entry in use is no free one, so that its table entry reads back. -/
theorem contractOf_stopBucket {s : State} {i : CIdx} (h : (contractOf s i).ctr.state ≠ 0) :
    contractOf (stopBucket s i) i = { contractOf s i with running := false } := by
  unfold stopBucket
  dsimp only
  split
  · next hr => rw [Bool.not_eq_true'] at hr; rw [← hr]
  · refine tget_tput_new ContractS.init s.contract.table i.toNat _ fun he => h ?_
    exact congrArg (fun c : ContractS => c.ctr.state) he

/-- The other homes have been told of the release, and the share of this device is still held. -/
def releaseTold (s : State) (w : Accessor) (i : CIdx) : State :=
  let t := stopBucket s i
  let c := contractOf t i
  (homes t c.ctr).foldl (fun s d => shareSend s d 6 i []) (setContract t i { c with
    phase := .releasing, started := t.now, by_ := some (w, none), confirmed := c.ctr.homemask &&& bit (devId t).toNat })

theorem released_eq (s : State) (w : Accessor) (i : CIdx) :
    released s w i = dropShare (releaseTold s w i) (devId (releaseTold s w i)) i := by
  have hd : devId (releaseTold s w i) = devId (stopBucket s i) := by
    simp only [releaseTold, devId, foldl_shareSend_dev, setContract_dev]
  rw [hd]; rfl

theorem releaseTold_straps (s : State) (w : Accessor) (i : CIdx) : strapsOf (releaseTold s w i) = strapsOf s := by
  unfold releaseTold
  extract_lets t c
  have hsent := strapsOf_congr (foldl_shareSend_dev 6 i [] (homes t c.ctr) (setContract t i { c with
    phase := .releasing, started := t.now, by_ := some (w, none), confirmed := c.ctr.homemask &&& bit (devId t).toNat }))
  rw [hsent, strapsOf_congr (setContract_dev _ _ _), stopBucket_straps]

theorem released_straps (s : State) (w : Accessor) (i : CIdx) : strapsOf (released s w i) = strapsOf s := by
  rw [released_eq, dropShare_straps, releaseTold_straps]

section Delete

variable {s : State} (w : Accessor) {i : CIdx}

theorem deleteWrite_revoked (h : (contractOf s i).ctr.state = 3) :
    deleteWrite s (w, none) i.toNat = (freeContract s i, some (.ok, 0)) := by
  simp only [deleteWrite, Nat.not_le.mpr i.isLt, BitVec.ofNat_toNat, BitVec.setWidth_eq, h, beq_self_eq_true, if_false, if_true]

/-- An admitted entry is released: the deletion is over when the contract has no home but this device. -/
theorem deleteWrite_released (h : (contractOf s i).ctr.state = 2) (hph : (contractOf s i).phase ≠ .releasing) :
    deleteWrite s (w, none) i.toNat =
      (if (homes (released s w i) (contractOf (stopBucket s i) i).ctr).isEmpty then deleteDone (released s w i) i
        else released s w i, none) := by
  have hrevoked : ((contractOf s i).ctr.state == 3) = false := by rw [h]; rfl
  have hother : ((contractOf s i).ctr.state != 2 || (contractOf s i).phase == .releasing) = false := by
    rw [h, beq_eq_false_iff_ne.mpr hph]; rfl
  rw [released_eq]
  simp only [deleteWrite, Nat.not_le.mpr i.isLt, BitVec.ofNat_toNat, BitVec.setWidth_eq, hrevoked, hother, Bool.false_eq_true,
    if_false]
  rfl

theorem deleteWrite_admitted (h : (contractOf s i).ctr.state = 2) (hph : (contractOf s i).phase ≠ .releasing) :
    deleteWrite s (w, none) i.toNat =
      (if homes s (contractOf s i).ctr = [] then deleteDone (released s w i) i else released s w i, none) := by
  have hh : homes (released s w i) (contractOf (stopBucket s i) i).ctr = homes s (contractOf s i).ctr := by
    rw [contractOf_stopBucket (by rw [h]; decide), homes_of_straps _ (released_straps s w i)]
  simp only [deleteWrite_released w h hph, hh, List.isEmpty_iff]

/-- Any other entry. -/
theorem deleteWrite_range (h : (contractOf s i).ctr.state = 0 ∨ (contractOf s i).ctr.state = 1 ∨
    ((contractOf s i).ctr.state = 2 ∧ (contractOf s i).phase = .releasing)) :
    deleteWrite s (w, none) i.toNat = (s, some (.range, 0)) := by
  have hrevoked : ((contractOf s i).ctr.state == 3) = false := by
    obtain h | h | ⟨h, -⟩ := h <;> rw [h] <;> rfl
  have hother : ((contractOf s i).ctr.state != 2 || (contractOf s i).phase == .releasing) = true := by
    obtain h | h | ⟨h, hph⟩ := h
    · rw [h]; rfl
    · rw [h]; rfl
    · rw [h, hph]; rfl
  simp only [deleteWrite, Nat.not_le.mpr i.isLt, BitVec.ofNat_toNat, BitVec.setWidth_eq, hrevoked, hother, Bool.false_eq_true,
    if_false, if_true]

end Delete

/-- A command that presents a deletion which passes is answered where nothing starts. -/
theorem act_contractDelete {s : State} {acc : Accessor} {i : CIdx} (ha : alive s = true) (hp : passes s acc plainGate = true) :
    exec (.contractDelete acc i) s = .next (sameTime s
      (match deleteWrite (entered s acc) (normAcc acc, none) i.toNat with
        | (t, some (e, aux)) => replied acc e aux t
        | (t, none) => t)) :=
  (act_sameTime s (fun s => frontLate s acc plainGate (fun s => deleteWrite s (normAcc acc, none) i.toNat)) ha).trans
    (congrArg (fun t => Host.Outcome.next (sameTime s t))
      (frontLate_passes s acc plainGate (fun s => deleteWrite s (normAcc acc, none) i.toNat) hp))

theorem doShareRelease_member {s : State} {src : DevId} (i : CIdx) (hd : src ≠ devId s) (hm : fromMember s src = true) :
    doShareRelease s src i = shareSend (dropShare s src i) src 4 i [] := by
  simp only [doShareRelease, beq_eq_false_iff_ne.mpr hd, hm, Bool.not_true, Bool.or_self, Bool.false_eq_true, if_false]

theorem doDeleteTimeout_waited {s : State} {i : CIdx} (hph : (contractOf s i).phase = .releasing)
    (ht : 1000000 ≤ since s (contractOf s i).started) : doDeleteTimeout s i = deleteDone s i := by
  simp only [doDeleteTimeout, hph, ht, beq_self_eq_true, decide_true, Bool.and_self, if_true]

-- ===== parameters (R169) =====

/-- The contract unit with parameter `item` at `v`. -/
def withParam (c : ContractUnit) (item v : Nat) : ContractUnit :=
  match item with
  | 2 => { c with spread := BitVec.ofNat 9 v }
  | 3 => { c with ceil := BitVec.ofNat 7 v }
  | 4 => { c with margin := BitVec.ofNat 7 v }
  | 5 => { c with window := BitVec.ofNat 16 v }
  | _ => { c with disq := BitVec.ofNat 16 v }

/-- Parameter `item` takes values from `lo` to `hi` (Table 15-3). -/
def paramRange (item lo hi : Nat) : Prop :=
  (item, lo, hi) ∈ [(2, 1, 256), (3, 50, 90), (4, 10, 100), (5, 500, 60000), (6, 1, 65535)]

theorem setParam_eq (s : State) {item lo hi : Nat} (v : Nat) (h : paramRange item lo hi) : setParam s item v =
    if lo ≤ v && v ≤ hi then some { s with contract := withParam s.contract item v } else none := by
  simp only [paramRange, List.mem_cons, Prod.mk.injEq, List.not_mem_nil, or_false] at h
  obtain ⟨rfl, rfl, rfl⟩ | ⟨rfl, rfl, rfl⟩ | ⟨rfl, rfl, rfl⟩ | ⟨rfl, rfl, rfl⟩ | ⟨rfl, rfl, rfl⟩ := h <;> rfl

theorem paramRange_item {item lo hi : Nat} (h : paramRange item lo hi) : 2 ≤ item ∧ item ≤ 6 := by
  simp only [paramRange, List.mem_cons, Prod.mk.injEq, List.not_mem_nil, or_false] at h
  omega

theorem paramWrite_takes {s : State} {item lo hi v : Nat} (h : paramRange item lo hi) (hlo : lo ≤ v) (hhi : v ≤ hi) :
    paramWrite s item v = (capChange { s with contract := withParam s.contract item v } .param, .ok, 0) := by
  obtain ⟨h2, h6⟩ := paramRange_item h
  simp only [paramWrite, setParam_eq s v h, Nat.not_lt.mpr h2, Nat.not_lt.mpr h6, hlo, hhi, decide_true, decide_false,
    Bool.and_self, Bool.or_self, Bool.false_eq_true, if_false, if_true]

theorem paramWrite_outside {s : State} {item lo hi v : Nat} (h : paramRange item lo hi) (hv : v < lo ∨ hi < v) :
    paramWrite s item v = (s, .range, 0) := by
  obtain ⟨h2, h6⟩ := paramRange_item h
  have hout : (decide (lo ≤ v) && decide (v ≤ hi)) = false := by
    rw [← Bool.not_eq_true, Bool.and_eq_true, decide_eq_true_eq, decide_eq_true_eq]; omega
  simp only [paramWrite, setParam_eq s v h, hout, Nat.not_lt.mpr h2, Nat.not_lt.mpr h6, decide_false, Bool.or_self,
    Bool.false_eq_true, if_false]

-- ===== revocation (R165, R166) =====

theorem doPass_oldest {s : State} {c : PassCause} {rest : List PassCause} (h : s.contract.passes = c :: rest) :
    doPass s = settleAdmissions (doPass.setPoolsIf (passOne { s with contract := { s.contract with passes := rest } } c)) := by
  simp only [doPass, h]

theorem doRevoke_member {s : State} {src : DevId} {i : CIdx} (reason : Byte) (hd : src ≠ devId s) (hm : fromMember s src = true)
    (hc : covers (contractOf s i).ctr src = true) : doRevoke s src i reason =
      settleAdmissions (ctlSend (originRevoke s i reason.toNat src) src 0x0E [1, i.setWidth 64]) := by
  simp only [doRevoke, beq_eq_false_iff_ne.mpr hd, hm, hc, Bool.not_true, Bool.or_self, Bool.false_eq_true, if_false]

theorem doRevokeAnswer_revoking {s : State} {src : DevId} {i : CIdx} {h : Share} (hs : shareOf s src i = some h)
    (hst : h.state = .revoking) : doRevokeAnswer s src i = dropShare s src i := by
  simp only [doRevokeAnswer, hs, hst, beq_self_eq_true, if_true]

theorem doGraceEnd_ended {s : State} {t : Time} (h : s.contract.lastStop = some t) (ht : 10000 ≤ since s t) :
    doGraceEnd s = { s with contract := { s.contract with lastStop := none } } := by
  simp only [doGraceEnd, h, ht, if_true]

/-- Settles O26, by the state of the entry, the range of the parameter and what each message finds. -/
theorem deletionAndRevocationComplete : Obligations.DeletionAndRevocationComplete := by
  unfold Obligations.DeletionAndRevocationComplete
  refine ⟨?delete, ?release, ?deleteTimeout, ?param, ?pass, ?revoke, ?revokeAnswer, ?grace⟩
  case delete =>
    intro s acc i ha hp
    rw [act_contractDelete ha hp, ← contractOf_entered s acc i, ← homes_entered s acc]
    refine ⟨fun h => ?_, fun h hph => ⟨fun hh => ?_, fun hh => ?_⟩, fun h => ?_⟩
    · rw [deleteWrite_revoked _ h]
    · rw [deleteWrite_admitted _ h hph, if_pos hh]
    · rw [deleteWrite_admitted _ h hph, if_neg hh]
    · rw [deleteWrite_range _ h]
  case release =>
    intro u s src i hs ha hd hm
    rw [← doShareRelease_member i hd hm]
    exact act_ctlIn hs ha (fun s => doShareRelease s src i)
  case deleteTimeout =>
    intro s i ha hph ht
    rw [← doDeleteTimeout_waited hph ht]
    exact act_sameTime s (fun s => doDeleteTimeout s i) ha
  case param =>
    intro s acc v item lo hi t ha hp hitem
    have hr : paramRange item.toNat lo hi ∧
        t = { entered s acc with contract := withParam (entered s acc).contract item.toNat v.toNat } := by
      rw [entered_contract]
      obtain ⟨rfl, rfl, rfl, rfl⟩ | ⟨rfl, rfl, rfl, rfl⟩ | ⟨rfl, rfl, rfl, rfl⟩ | ⟨rfl, rfl, rfl, rfl⟩ |
        ⟨rfl, rfl, rfl, rfl⟩ := hitem <;> exact ⟨by simp [paramRange], rfl⟩
    obtain ⟨hr, rfl⟩ := hr
    exact ⟨fun hlo hhi => act_front ha hp (paramWrite_takes hr hlo hhi), fun hv => act_front ha hp (paramWrite_outside hr hv)⟩
  case pass =>
    intro s c rest ha h
    rw [← doPass_oldest h]
    exact act_sameTime s doPass ha
  case revoke =>
    intro u s src i reason hs ha hd hm hc
    rw [← doRevoke_member reason hd hm hc]
    exact act_ctlIn hs ha (fun s => doRevoke s src i reason)
  case revokeAnswer =>
    intro u s src i h hs ha hshare hst
    rw [← doRevokeAnswer_revoking hshare hst]
    exact act_ctlIn hs ha (fun s => doRevokeAnswer s src i)
  case grace =>
    intro s t ha h ht
    exact (act_sameTime s doGraceEnd ha).trans (by rw [doGraceEnd_ended h ht]; rfl)

end Sys2Proof.Machine
end

section
/-!
Haul steps (O29): slack, the release of JOB steps, and the start, the cut, the end and the purge of a step at its bench (R172,
R176 to R178, R187, R189, R233, R243, R244).
-/

-- In order: each declaration that waits for another in a thread of its own adds to the memory of the whole compile.
set_option Elab.async false

namespace Sys2Proof.Machine

theorem doSlack_presented {s : State} (hp : presented s = true) :
    doSlack s = { noteDrained (grantAll (feed (creditSlack s))) with
      clk := { (noteDrained (grantAll (feed (creditSlack s)))).clk with
        usClock := (noteDrained (grantAll (feed (creditSlack s)))).clk.clock } } := by
  simp only [doSlack, hp, Bool.not_true, Bool.false_eq_true, if_false]

-- ===== the release of JOB steps (R187) =====

/-- The first queue in turn has weight left in the round and a step that its bench takes. -/
theorem releasePass_first {s t : State} {q : QueueId} (rest : List QueueId)
    (hw : tget 0 s.job.rrRound q.toNat < weightOf s q) (hr : queueReady s q = true) (ht : releaseOf s q = (t, true)) :
    releasePass s (q :: rest) none =
      ({ t with job := { t.job with
        rrStep := q, rrRound := tput 0 t.job.rrRound q.toNat (tget 0 s.job.rrRound q.toNat + 1) } }, true) := by
  simp only [releasePass, Nat.not_le.mpr hw, hr, ht, decide_false, Bool.not_true, Bool.or_self, Bool.false_eq_true, if_false,
    Option.getD_none]

/-- A release of this round, else one of the next. -/
theorem doStepRelease_presented {s t : State} {ok : Bool} (hp : presented s = true)
    (h : releasePass s (queueOrder s s.job.rrStep.toNat) none = (t, ok)) :
    doStepRelease s = noteDrained (if ok then t else
      (releasePass { s with job := { s.job with rrRound := [] } } (queueOrder s (s.job.rrStep.toNat + 1)) none).1) := by
  cases ok <;> simp only [doStepRelease, hp, h, Bool.not_true, Bool.false_eq_true, if_false, if_true]

-- ===== the start of a step (R178, R189, R233, R244) =====

/-- What becomes of the step `t` at the head of a deque. -/
def startHead (s : State) (b : Bench) (t : StepRec) : State :=
  if stale s t then
    setLive (creditK (modBench s b (fun v => { v with deque := v.deque.tail })) b t.estimate.toNat) t
      (fun x => { x with open_ := x.open_ - 1 })
  else if isCheck s t then
    if !anyEngine s (b.toNat / 16) then moveCheck s b t
    else match freeEngine s (b.toNat / 16) with
      | some e => takeStep s b t (some e)
      | none => waitEngine s b t
  else takeStep s b t none

/-- An idle bench of a presented device starts the head of its deque. -/
theorem doStepStart_head {s : State} {b : Bench} {t : StepRec} {rest : List StepRec} (hp : presented s = true)
    (hr : runOf s b = none) (hd : (benchOf s b).deque = t :: rest) : doStepStart s b = startHead s b t := by
  simp only [doStepStart, hp, hr, hd, Bool.not_true, Option.isSome_none, Bool.or_self, Bool.false_eq_true, if_false]
  rfl

/-- A free engine of a cluster is in service there. -/
theorem anyEngine_of_freeEngine {s : State} {c e : Nat} (h : freeEngine s c = some e) : anyEngine s c = true :=
  List.any_eq_true.mpr ⟨e, List.mem_of_find?_eq_some h, (Bool.and_eq_true_iff.mp (List.find?_some h :)).1⟩

-- ===== the end and the cut of a step, purges (R172, R189, R243) =====

theorem doStepEnd_finished {s : State} {b : Bench} {r : Run} (hr : runOf s b = some r) (hd : runDone s b r = true)
    (hroom : r.parity = false ∨ hasRoom s b .job = true) : doStepEnd s b = endStep s b r := by
  have hmay : mayEnd s b r = true := by
    obtain h | h := hroom <;> simp only [mayEnd, hd, h, Bool.not_false, Bool.true_or, Bool.or_true, Bool.and_self]
  simp only [doStepEnd, hr, hmay, if_true]

theorem doStepCut_old {s : State} {b : Bench} {r : Run} {t : Time} (hr : runOf s b = some r) (ht : r.started = some t)
    (h : 2000 ≤ since s t) : doStepCut s b = doStepEnd (modRun s b (fun r => { r with stop := true })) b := by
  simp only [doStepCut, hr, ht, Nat.not_lt.mpr h, if_false]

theorem doPurge_current {s : State} (b : Bench) {q : QueueId} {e : Byte} (h : e = (queueOf s q).epoch) :
    doPurge s b q e = noteDrained (purgeBench s b (fun t => t.queue == q && t.epoch != e)) := by
  simp only [doPurge, ← h, bne_self_eq_false, Bool.false_eq_true, if_false]

theorem doPurge_other {s : State} (b : Bench) {q : QueueId} {e : Byte} (h : e ≠ (queueOf s q).epoch) : doPurge s b q e = s := by
  simp only [doPurge, bne_iff_ne.mpr h.symm, if_true]

/-- Settles O29, by what each command does with the bench, the queue or the step that it finds. -/
theorem haulStepsRunAndEnd : Obligations.HaulStepsRunAndEnd := by
  unfold Obligations.HaulStepsRunAndEnd
  refine ⟨?slack, ?first, ?release, ?start, ?finish, ?cut, ?purge⟩
  case slack =>
    intro s t ha hp ht
    rw [ht, ← doSlack_presented hp]
    exact act_sameTime s doSlack ha
  case first =>
    intro s t q rest ha hp hq hw hr ht
    have hpass := releasePass_first rest hw hr ht
    rw [← hq] at hpass
    exact (act_sameTime s doStepRelease ha).trans (by rw [doStepRelease_presented hp hpass, if_pos rfl])
  case release =>
    intro s t ok ha hp h
    rw [← doStepRelease_presented hp h]
    exact act_sameTime s doStepRelease ha
  case start =>
    intro s b t rest ha hp hr hd
    have he : exec (.stepStart b) s = .next (sameTime s (noteDrained (doStepStart s b))) :=
      act_sameTime s (fun s => noteDrained (doStepStart s b)) ha
    rw [he, doStepStart_head hp hr hd]
    refine ⟨fun hst => ?stale, fun hst hc => ?other, fun e hst hc hf => ?free, fun hst hc ha hf => ?busy,
      fun hst hc ha => ?out⟩
    case stale => rw [startHead, if_pos hst]
    case other => simp only [startHead, hst, hc, Bool.false_eq_true, if_false]
    case free =>
      simp only [startHead, hst, hc, anyEngine_of_freeEngine hf, hf, Bool.not_true, Bool.false_eq_true, if_false, if_true]
    case busy => simp only [startHead, hst, hc, ha, hf, Bool.not_true, Bool.false_eq_true, if_false, if_true]
    case out => simp only [startHead, hst, hc, ha, Bool.not_false, Bool.false_eq_true, if_false, if_true]
  case finish =>
    intro s b r ha hr hd hroom
    rw [← doStepEnd_finished hr hd hroom]
    exact act_sameTime s (fun s => doStepEnd s b) ha
  case cut =>
    intro s b r t ha hr ht h
    rw [← doStepCut_old hr ht h]
    exact act_sameTime s (fun s => doStepCut s b) ha
  case purge =>
    intro s b q e ha
    have he : exec (.queuePurge b q e) s = .next (sameTime s (doPurge s b q e)) := act_sameTime s (fun s => doPurge s b q e) ha
    refine ⟨fun h => ?_, fun h => ?_⟩
    · rw [he, doPurge_current b h]
    · rw [he, doPurge_other b h, sameTime_self]

end Sys2Proof.Machine
end

section
/-!
Stealing (O30): what a request of an idle bench finds, the arrival of a stolen record, the counts of the clusters and the start of
stealing across them (R183 to R186, R189).
-/

-- In order: each declaration that waits for another in a thread of its own adds to the memory of the whole compile.
set_option Elab.async false

namespace Sys2Proof.Machine

-- ===== a steal request (R183, R184, R186) =====

/-- Bench `b` may ask for a step: the device is presented, the bench is idle, and no record is on its way to it (R183). -/
def mayAsk (s : State) (b : Bench) : Prop := presented s = true ∧ idleBench s b = true ∧ (benchOf s b).incoming = []

/-- Where a request looks, in order: the thief's own cluster, then the others if its cluster may steal there. -/
def stealLook (s : State) (b : Bench) : State :=
  match longest s (b.toNat / 16) with
  | some v => noteDrained (stealFrom s b v false)
  | none =>
    match (if s.job.stealing.contains (b.toNat / 16) then stealFar s b 16 else (s, false)) with
    | (t, true) => noteDrained t
    | (t, false) => modBench t b (fun v => { v with retryAt := some (t.now + 50) })

theorem doSteal_asks {s : State} {b : Bench} (h : mayAsk s b) : doSteal s b = stealLook s b := by
  obtain ⟨hp, hi, hin⟩ := h
  simp only [doSteal, hp, hi, hin, List.isEmpty_nil, Bool.not_true, Bool.or_self, Bool.false_eq_true, if_false]
  rfl

theorem doSteal_near {s : State} {b v : Bench} (h : mayAsk s b) (hl : longest s (b.toNat / 16) = some v) :
    doSteal s b = noteDrained (stealFrom s b v false) := by
  simp only [doSteal_asks h, stealLook, hl]

theorem doSteal_far {s : State} {b v : Bench} (h : mayAsk s b) (hl : longest s (b.toNat / 16) = none)
    (hc : s.job.stealing.contains (b.toNat / 16) = true)
    (hv : (sourceOrder s (b.toNat / 16) 16).findSome? (longest s) = some v) :
    doSteal s b = noteDrained (stealFrom s b v true) := by
  simp only [doSteal_asks h, stealLook, hl, hc, stealFar, hv, if_true]

theorem doSteal_nothing {s : State} {b : Bench} (h : mayAsk s b) (hl : longest s (b.toNat / 16) = none)
    (hn : s.job.stealing.contains (b.toNat / 16) = false ∨
      (sourceOrder s (b.toNat / 16) 16).findSome? (longest s) = none) :
    doSteal s b = setBench s b { benchOf s b with retryAt := some (s.now + 50) } := by
  have hfar : (if s.job.stealing.contains (b.toNat / 16) then stealFar s b 16 else (s, false)) = (s, false) := by
    obtain hc | hv := hn
    · simp only [hc, Bool.false_eq_true, if_false]
    · simp only [stealFar, hv, ite_self]
  simp only [doSteal_asks h, stealLook, hl, hfar, modBench]

theorem doStealRetry_due {s : State} {b : Bench} {t : Time} (h : (benchOf s b).retryAt = some t) (ht : t ≤ s.now) :
    doStealRetry s b = doSteal (setBench s b { benchOf s b with retryAt := none }) b := by
  simp only [doStealRetry, h, BitVec.not_lt.mpr ht, if_false, modBench]

-- ===== the arrival of a stolen record (R178, R184, R189) =====

theorem doStealArrive_stale {s : State} {b : Bench} {t : StepRec} {far : Bool} {rest : List (StepRec × Bool)}
    (h : (benchOf s b).incoming = (t, far) :: rest) (hst : stale s t = true) :
    doStealArrive s b =
      setLive (setBench s b { benchOf s b with incoming := rest }) t (fun x => { x with open_ := x.open_ - 1 }) := by
  simp only [doStealArrive, h, hst, if_true, modBench]

theorem doStealArrive_queued {s : State} {b : Bench} {t : StepRec} {far : Bool} {rest : List (StepRec × Bool)}
    (h : (benchOf s b).incoming = (t, far) :: rest) (hst : stale s t = false) (hroom : hasRoom s b t.kind = true) :
    doStealArrive s b = noteDrained (pushStep
      (modBench (creditK (setBench s b { benchOf s b with incoming := rest }) b (-(t.estimate.toNat : Int))) b (fun v =>
        if far then { v with stolenX := v.stolenX + 1 } else { v with stolen := v.stolen + 1 })) b t false) := by
  simp only [doStealArrive, h, hst, hroom, Bool.not_true, Bool.false_eq_true, if_false]
  rfl

-- ===== published counts, and stealing across clusters (R185, R186) =====

theorem doPublish_eq {s : State} {p : Tab Nat}
    (hp : p = (List.range 16).foldl (fun t c => tput 0 t c (clusterCount s c)) []) :
    doPublish s = noteDrained { s with job := { s.job with
      published := p
      loadedSince := if p.any (fun e => s.cache.loadThreshold.toNat ≤ e.2) then some (s.job.loadedSince.getD s.now)
        else none } } := by
  simp only [doPublish, ← hp]
  cases s.job.loadedSince <;> rfl

/-- Every idle bench of cluster `n` to which no record is on its way steals once from a loaded cluster (R186). -/
def clusterSteals (s : State) (n : Nat) : State :=
  (List.range 16).foldl (fun s i =>
    if idleBench s (BitVec.ofNat 8 (n * 16 + i)) && (benchOf s (BitVec.ofNat 8 (n * 16 + i))).incoming.isEmpty
    then (stealFar s (BitVec.ofNat 8 (n * 16 + i)) s.cache.loadThreshold.toNat).1 else s) s

theorem doMature_matured {s : State} {c : Cluster} {t : Time} (hp : presented s = true) (hl : s.job.loadedSince = some t)
    (hs : s.job.stealing.contains c.toNat = false) (hd : tget 0 s.job.drainedSince c.toNat ≠ BitVec.allOnes 64)
    (hdt : s.cache.imbalance.toNat ≤ since s (tget 0 s.job.drainedSince c.toNat)) (hlt : s.cache.imbalance.toNat ≤ since s t) :
    doMature s c = noteDrained
      (clusterSteals { s with job := { s.job with stealing := s.job.stealing ++ [c.toNat] } } c.toNat) := by
  simp only [doMature, hp, hl, hs, beq_eq_false_iff_ne.mpr hd, Nat.not_lt.mpr hdt, Nat.not_lt.mpr hlt, decide_false,
    Bool.not_true, Bool.or_self, Bool.false_eq_true, if_false]
  rfl

/-- Settles O30, by where a request finds a step, and by what an arrival, a publication and a matured cluster do. -/
theorem stealingCompletes : Obligations.StealingCompletes := by
  unfold Obligations.StealingCompletes
  refine ⟨?request, ?retry, ?arrival, ?publish, ?mature⟩
  case request =>
    intro s b ha hp hi hin
    have hask : mayAsk s b := ⟨hp, hi, hin⟩
    have he : exec (.stealRequest b) s = .next (sameTime s (doSteal s b)) := act_sameTime s (fun s => doSteal s b) ha
    rw [he]
    refine ⟨fun v hl => ?_, fun v hl hc hv => ?_, fun hl hn => ?_⟩
    · rw [doSteal_near hask hl]
    · rw [doSteal_far hask hl hc hv]
    · rw [doSteal_nothing hask hl hn]; rfl
  case retry =>
    intro s b t ha h ht
    rw [← doStealRetry_due h ht]
    exact act_sameTime s (fun s => doStealRetry s b) ha
  case arrival =>
    intro s u b t far rest ha h hu
    have he : exec (.stealRecordArrival b) s = .next (sameTime s (doStealArrive s b)) :=
      act_sameTime s (fun s => doStealArrive s b) ha
    rw [he, hu]
    refine ⟨fun hst => ?_, fun hst hroom => ?_⟩
    · rw [doStealArrive_stale h hst]
    · rw [doStealArrive_queued h hst hroom]
  case publish =>
    intro s p ha hp
    rw [← doPublish_eq hp]
    exact act_sameTime s doPublish ha
  case mature =>
    intro s c t ha hp hl hs hd hdt hlt
    exact (act_sameTime s (fun s => doMature s c) ha).trans (by rw [doMature_matured hp hl hs hd hdt hlt]; rfl)

end Sys2Proof.Machine
end

section
/-!
Queues and doorbells (O32): the rules of a queue that the commands of this family share, the creation of a queue, the writes of its
limits, and what each write of a doorbell finds (R193, R194, R196 to R198, R227).
-/

-- In order: each declaration that waits for another in a thread of its own adds to the memory of the whole compile.
set_option Elab.async false

namespace Sys2Proof.Machine

-- ===== what entering leaves alone =====

@[simp] theorem queueOf_entered (s : State) (acc : Accessor) (q : QueueId) : queueOf (entered s acc) q = queueOf s q := by
  simp only [queueOf, entered_job]

@[simp] theorem freeQueue_entered (s : State) (acc : Accessor) : freeQueue (entered s acc) = freeQueue s := by
  simp only [freeQueue, queueOf_entered]

@[simp] theorem portUp_entered (s : State) (acc : Accessor) (p : Nat) : portUp (entered s acc) p = portUp s p := by
  simp only [portUp, linkOf, entered_port]

@[simp] theorem standalone_entered (s : State) (acc : Accessor) : standalone (entered s acc) = standalone s := by
  simp only [standalone, entered_dev]

@[simp] theorem leadsOf_entered (s : State) (acc : Accessor) (r : Role) (n : Nat) :
    leadsOf (entered s acc) r n = leadsOf s r n := by
  simp only [leadsOf, allSlots, entered_port, standalone_entered]

@[simp] theorem hostUp_entered (s : State) (acc : Accessor) (l : HLink) : hostUp (entered s acc) l = hostUp s l := by
  simp only [hostUp, hlinkOf, entered_port, leadsOf_entered, funext (portUp_entered s acc)]

-- ===== the comparison of the pointers (R227) =====

/-- Copies that agree leave the queue as it is. -/
theorem ptrCheck_agree {s : State} {q : QueueId} (h : ptrsOk (queueOf s q) = true) : ptrCheck s q = (s, true) := by
  simp only [ptrCheck, h, if_true]

-- ===== creation and limits (R193, R196) =====

theorem queueCreateOp_invalid {s : State} {r : QueueRec} (sup : Bool) (h : ctxOk r = false ∨ hostUp s r.link = false) :
    queueCreateOp s sup r = (s, .range, 0) := by
  obtain h | h := h <;> simp only [queueCreateOp, h, Bool.not_false, if_true, ite_self]

theorem queueCreateOp_forbidden {s : State} {r : QueueRec} (hc : ctxOk r = true) (hu : hostUp s r.link = true)
    (hp : r.priv = true) : queueCreateOp s false r = (s, .access, 0) := by
  simp only [queueCreateOp, hc, hu, hp, Bool.not_true, Bool.not_false, Bool.and_self, Bool.false_eq_true, if_false, if_true]

theorem queueCreateOp_full {s : State} {r : QueueRec} {sup : Bool} (hc : ctxOk r = true) (hu : hostUp s r.link = true)
    (hp : (r.priv && !sup) = false) (hf : freeQueue s = none) : queueCreateOp s sup r = (s, .full, 0) := by
  simp only [queueCreateOp, hc, hu, hp, hf, Bool.not_true, Bool.false_eq_true, if_false]

theorem queueCreateOp_creates {s : State} {r : QueueRec} {sup : Bool} {n : Nat} (hc : ctxOk r = true)
    (hu : hostUp s r.link = true) (hp : (r.priv && !sup) = false) (hf : freeQueue s = some n) :
    queueCreateOp s sup r = (setQueue s (BitVec.ofNat 13 n) { QueueS.init with
      ctx := r, state := .active, epoch := (queueOf s (BitVec.ofNat 13 n)).epoch
      done := (queueOf s (BitVec.ofNat 13 n)).done }, .ok, n) := by
  simp only [queueCreateOp, hc, hu, hp, hf, Bool.not_true, Bool.false_eq_true, if_false]

/-- A supervisor record needs an accessor of class S (R447). -/
theorem supClass_permits {acc : Accessor} {r : QueueRec} (h : r.priv = true → classOfAcc acc = .s) :
    (r.priv && !execQueueCreate.supClass acc) = false := by
  cases hp : r.priv with
  | false => rfl
  | true => rw [execQueueCreate.supClass, h hp]; rfl

theorem queueLimitOp_range {s : State} {q : QueueId} {value : BitVec 32}
    (h : value.toNat < 1 ∨ 64 < value.toNat ∨ (queueOf s q).state = .free) : queueLimitOp s q false value = (s, .range, 0) := by
  by_cases hf : (queueOf s q).state = .free
  · simp only [queueLimitOp, hf, beq_self_eq_true, if_true]
  · have hv : ¬(1 ≤ value.toNat ∧ value.toNat ≤ 64) := by
      obtain h | h | h := h
      · omega
      · omega
      · exact absurd h hf
    simp only [queueLimitOp, beq_eq_false_iff_ne.mpr hf, hv, Bool.false_eq_true, if_false]

theorem queueLimitOp_tlimit {s : State} {q : QueueId} (value : BitVec 32) (hf : (queueOf s q).state ≠ .free) :
    queueLimitOp s q true value =
      (setQueue s q { queueOf s q with ctx := { (queueOf s q).ctx with tlimit := value } }, .ok, 0) := by
  simp only [queueLimitOp, beq_eq_false_iff_ne.mpr hf, Bool.false_eq_true, if_false, if_true]

theorem queueLimitOp_maxJobs {s : State} {q : QueueId} {value : BitVec 32} (hf : (queueOf s q).state ≠ .free)
    (h1 : 1 ≤ value.toNat) (h64 : value.toNat ≤ 64) : queueLimitOp s q false value =
      (setQueue s q { queueOf s q with ctx := { (queueOf s q).ctx with maxJobs := value.setWidth 7 } }, .ok, 0) := by
  simp only [queueLimitOp, beq_eq_false_iff_ne.mpr hf, h1, h64, and_self, Bool.false_eq_true, if_false, if_true]

-- ===== doorbells (R194, R197, R198) =====

/-- A doorbell of the queue's own link may move a pointer: the queue is active and its pointers agree. -/
def rings (s : State) (l : HLink) (q : QueueId) : Prop :=
  (queueOf s q).state = .active ∧ (queueOf s q).ctx.link = l ∧ ptrsOk (queueOf s q) = true

/-- What a write of SQ_TAIL does to a queue that it rings (R198). -/
def sqTailMoves (s : State) (q : QueueId) (value : BitVec 32) : State :=
  if sqSize (queueOf s q) ≤ value.toNat % 65536 ||
      sqAvail (queueOf s q) (value.toNat % 65536) < sqAvail (queueOf s q) (queueOf s q).sqTail.toNat then
    badBell s q 0 value.toNat
  else setQueue s q (setSqTail (queueOf s q) (value.toNat % 65536))

/-- What a write of CQ_HEAD does to a queue that it rings (R198). -/
def cqHeadMoves (s : State) (q : QueueId) (value : BitVec 32) : State :=
  if cqSize (queueOf s q) ≤ value.toNat % 65536 || cqUsed (queueOf s q) (queueOf s q).cqHead.toNat <
      (value.toNat % 65536 + cqSize (queueOf s q) - (queueOf s q).cqHead.toNat % cqSize (queueOf s q)) % cqSize (queueOf s q) then
    badBell s q 4 value.toNat
  else setQueue s q (setCqHead (queueOf s q) (value.toNat % 65536))

theorem inertPage_ownLink {s : State} {l : HLink} {q : QueueId} (h : (queueOf s q).ctx.link = l) : inertPage s l q = false := by
  simp only [inertPage, h, bne_self_eq_false, Bool.and_false]

theorem doSqTail_rings {s : State} {l : HLink} {q : QueueId} (value : BitVec 32) (h : rings s l q) :
    doSqTail s l q value = sqTailMoves s q value := by
  obtain ⟨hact, hlink, hptr⟩ := h
  simp only [doSqTail, inertPage_ownLink hlink, hact, ptrCheck_agree hptr, bne_self_eq_false, Bool.false_eq_true, if_false]
  rfl

theorem doCqHead_rings {s : State} {l : HLink} {q : QueueId} (value : BitVec 32) (h : rings s l q) :
    doCqHead s l q value = cqHeadMoves s q value := by
  obtain ⟨hact, hlink, hptr⟩ := h
  simp only [doCqHead, inertPage_ownLink hlink, hact, ptrCheck_agree hptr, bne_self_eq_false, Bool.false_eq_true, if_false]
  rfl

/-- A doorbell of a queue that is not active is ignored and counted; on another link's page it only counts there. -/
theorem doorbell_unrung {s : State} {l : HLink} {q : QueueId} {value : BitVec 32} {i : Instr} (ha : alive s = true)
    (hi : i = .sqTailWrite l q value ∨ i = .cqHeadWrite l q value) :
    (inertPage s l q = true → exec i s = .next (inertBell s)) ∧
    (inertPage s l q = false → (queueOf s q).state ≠ .active → exec i s = .next (ignoreBell s)) := by
  obtain rfl | rfl := hi
  · have he : exec (.sqTailWrite l q value) s = .next (sameTime s (doSqTail s l q value)) :=
      act_sameTime s (fun s => doSqTail s l q value) ha
    refine ⟨fun h => ?_, fun h hs => ?_⟩
    · rw [he, doSqTail, if_pos h]; rfl
    · simp only [he, doSqTail, h, bne_iff_ne.mpr hs, Bool.false_eq_true, if_false, if_true]; rfl
  · have he : exec (.cqHeadWrite l q value) s = .next (sameTime s (doCqHead s l q value)) :=
      act_sameTime s (fun s => doCqHead s l q value) ha
    refine ⟨fun h => ?_, fun h hs => ?_⟩
    · rw [he, doCqHead, if_pos h]; rfl
    · simp only [he, doCqHead, h, bne_iff_ne.mpr hs, Bool.false_eq_true, if_false, if_true]; rfl

/-- Settles O32, by the checks of each write and by what a doorbell finds at its queue. -/
theorem queuesAreCreatedAndRung : Obligations.QueuesAreCreatedAndRung := by
  unfold Obligations.QueuesAreCreatedAndRung
  refine ⟨?create, ?limits, ?doorbells, ?notActive, ?inert⟩
  case create =>
    intro s acc r ha hp
    rw [← hostUp_entered s acc, ← freeQueue_entered s acc]
    simp only [← queueOf_entered s acc]
    refine ⟨fun n hc hu hs hf => ?_, fun hc hu hs hf => ?_, fun hc hu hpriv hs => ?_, fun h => ?_⟩
    · exact act_front ha hp (queueCreateOp_creates hc hu (supClass_permits hs) hf)
    · exact act_front ha hp (queueCreateOp_full hc hu (supClass_permits hs) hf)
    · have hsup : execQueueCreate.supClass acc = false := beq_eq_false_iff_ne.mpr hs
      exact act_front ha hp (hsup ▸ queueCreateOp_forbidden hc hu hpriv)
    · exact act_front ha hp (queueCreateOp_invalid _ h)
  case limits =>
    intro s acc q value ha hp
    rw [← queueOf_entered s acc]
    exact ⟨fun hf => ⟨act_front ha hp (queueLimitOp_tlimit value hf),
      fun h1 h64 => act_front ha hp (queueLimitOp_maxJobs hf h1 h64)⟩, fun h => act_front ha hp (queueLimitOp_range h)⟩
  case doorbells =>
    intro s l q value v ha hv hact hlink hptr
    subst hv
    have hr : rings s l q := ⟨hact, hlink, hptr⟩
    have hsq : exec (.sqTailWrite l q value) s = .next (sameTime s (sqTailMoves s q value)) :=
      (act_sameTime s (fun s => doSqTail s l q value) ha).trans (by rw [doSqTail_rings value hr])
    have hcq : exec (.cqHeadWrite l q value) s = .next (sameTime s (cqHeadMoves s q value)) :=
      (act_sameTime s (fun s => doCqHead s l q value) ha).trans (by rw [doCqHead_rings value hr])
    rw [hsq, hcq, sqTailMoves, cqHeadMoves]
    simp only [Bool.or_eq_true, decide_eq_true_eq]
    refine ⟨fun hin hfwd => ?_, fun hbad => ?_, fun hin hfew => ?_, fun hbad => ?_⟩
    · rw [if_neg (not_or.mpr ⟨Nat.not_le.mpr hin, Nat.not_lt.mpr hfwd⟩)]; rfl
    · rw [if_pos hbad]
    · rw [if_neg (not_or.mpr ⟨Nat.not_le.mpr hin, Nat.not_lt.mpr hfew⟩)]; rfl
    · rw [if_pos hbad]
  case notActive =>
    intro s l q value ha hpage hs i hi
    exact (doorbell_unrung ha hi).2 hpage hs
  case inert =>
    intro s l q value ha hpage
    refine ⟨?_, fun i hi => (doorbell_unrung ha hi).1 hpage⟩
    exact (act_sameTime s (fun s => if inertPage s l q then inertBell s else s) ha).trans (by rw [if_pos hpage]; rfl)

end Sys2Proof.Machine
end

section
/-!
Jobs (O33): the fetch of a descriptor and its return, jobs without accesses, the release of an orphan's line, and the completion,
the time limit and the abort of a job (R199 to R202, R204, R205, R213, R214, R216, R226, R227).
-/

-- In order: each declaration that waits for another in a thread of its own adds to the memory of the whole compile.
set_option Elab.async false

namespace Sys2Proof.Machine

@[simp] theorem jobOf_entered (s : State) (acc : Accessor) (q : QueueId) (j : JobSeq) :
    jobOf (entered s acc) q j = jobOf s q j := by
  simp only [jobOf, entered_job]

-- ===== fetches (R199 to R202, R204) =====

/-- The queue whose turn it is to fetch, once the pointers have been compared. -/
def nextFetch (s : State) : Option QueueId :=
  (queueOrder (checkPointers s) (checkPointers s).job.rr.toNat).find? (mayFetch (checkPointers s))

theorem doFetch_found {s : State} {q : QueueId} (hp : presented s = true) (hq : nextFetch s = some q) :
    doFetch s = fetchFor { checkPointers s with job := { (checkPointers s).job with rr := q + 1 } } q := by
  rw [nextFetch] at hq
  simp only [doFetch, hp, hq, Bool.not_true, Bool.false_eq_true, if_false]

theorem doFetch_none {s : State} (hp : presented s = true) (hn : nextFetch s = none) : doFetch s = checkPointers s := by
  rw [nextFetch] at hn
  simp only [doFetch, hp, hn, Bool.not_true, Bool.false_eq_true, if_false]

/-- A fetch for queue `q` has come back with `g`: the queue is active, its pointers agree; `chained` and `n` say what was
fetched (R201). -/
structure FetchBack (s : State) (q : QueueId) (chained : Bool) (n : Nat) (g : Got) : Prop where
  ptrs : ptrsOk (queueOf s q) = true
  active : (queueOf s q).state = .active
  asked : ∃ a, (queueOf s q).fetching = some (a, chained, n)
  got : (queueOf s q).fetched = some g

/-- A queue whose fetch has come back: the head moves unless the descriptor was chained. -/
def fetchTaken (v : QueueS) (chained : Bool) : QueueS :=
  if chained then { v with fetching := none, fetched := none }
  else setSqHead { v with fetching := none, fetched := none } ((v.sqHead.toNat + 1) % sqSize v)

@[simp] theorem setSqHead_state (v : QueueS) (n : Nat) : (setSqHead v n).state = v.state := rfl

/-- A good or a bad descriptor enters as a job; the next one of a good one is noted. -/
def enterDesc (t : State) (q : QueueId) (chained : Bool) (n : Nat) (l : Line) : State :=
  if (descOf l).flags.getLsbD 2 && !badDesc (descOf l) l then
    modQueue (addJob t (mkJob t q (descOf l) chained (badDesc (descOf l) l))) q
      (fun v => { v with chain := some ((descOf l).next, if chained then n + 1 else 1) })
  else addJob t (mkJob t q (descOf l) chained (badDesc (descOf l) l))

/-- The job of a fetch that failed with `e`: a failed part and nothing else (R202). -/
def failedFetch (t : State) (q : QueueId) (chained : Bool) (e : JStatus) : Job :=
  { mkJob t q Desc.zero chained false with finished := true, failed := [(0, 0, e)] }

/-- A line of poison is a failed part of its job; a refused fetch has its record written and stops the queue (R202). -/
def enterFailed (t : State) (q : QueueId) (chained : Bool) (e : JStatus) : State :=
  if e = .poisoned then addJob t (failedFetch t q chained e)
  else raise (modQueue (writeRecord (addJob t (failedFetch t q chained e)) (failedFetch t q chained e)
    (jobStatus (failedFetch t q chained e)) true) q (fun v => { v with state := .stopped, why := 3 })) 0x282 167 [(2, q.toNat)]

/-- What a fetch that has come back brings into its queue. -/
def enterGot (t : State) (q : QueueId) (chained : Bool) (n : Nat) (g : Got) : State :=
  match g.bad with
  | some e => enterFailed t q chained e
  | none => enterDesc t q chained n g.data

theorem doFetchReturn_enters {s : State} {q : QueueId} {chained : Bool} {n : Nat} {g : Got} (h : FetchBack s q chained n g) :
    doFetchReturn s q = enterGot (setQueue s q (fetchTaken (queueOf s q) chained)) q chained n g := by
  obtain ⟨hptr, hact, ⟨a, hask⟩, hgot⟩ := h
  have hrun : ((queueOf s q).state != .active) = false := by rw [hact, bne_self_eq_false]
  cases chained
  all_goals
    simp only [doFetchReturn, ptrCheck_agree hptr, hask, hgot, setSqHead_state, hrun, Bool.not_true, Bool.false_eq_true,
      if_false, if_true]
    rfl

theorem enterGot_unchained {g : Got} (t : State) (q : QueueId) (chained : Bool) (n : Nat) (hg : g.bad = none)
    (h : (descOf g.data).flags.getLsbD 2 = false ∨ badDesc (descOf g.data) g.data = true) :
    enterGot t q chained n g = addJob t (mkJob t q (descOf g.data) chained (badDesc (descOf g.data) g.data)) := by
  have hc : ((descOf g.data).flags.getLsbD 2 && !badDesc (descOf g.data) g.data) = false := by
    obtain h | h := h <;> simp only [h, Bool.false_and, Bool.not_true, Bool.and_false]
  simp only [enterGot, hg, enterDesc, hc, Bool.false_eq_true, if_false]

theorem enterGot_chained {g : Got} (t : State) (q : QueueId) (chained : Bool) (n : Nat) (hg : g.bad = none)
    (hf : (descOf g.data).flags.getLsbD 2 = true) (hb : badDesc (descOf g.data) g.data = false) :
    enterGot t q chained n g = modQueue (addJob t (mkJob t q (descOf g.data) chained false)) q
      (fun v => { v with chain := some ((descOf g.data).next, if chained then n + 1 else 1) }) := by
  simp only [enterGot, hg, enterDesc, hf, hb, Bool.not_false, Bool.and_self, if_true]

theorem enterGot_poisoned {g : Got} (t : State) (q : QueueId) (chained : Bool) (n : Nat) (hg : g.bad = some .poisoned) :
    enterGot t q chained n g = addJob t (failedFetch t q chained .poisoned) := by
  simp only [enterGot, hg, enterFailed, if_true]

theorem enterGot_refused {g : Got} {e : JStatus} (t : State) (q : QueueId) (chained : Bool) (n : Nat) (hg : g.bad = some e)
    (he : e ≠ .poisoned) : enterGot t q chained n g =
      raise (modQueue (writeRecord (addJob t (failedFetch t q chained e)) (failedFetch t q chained e)
        (jobStatus (failedFetch t q chained e)) true) q (fun v => { v with state := .stopped, why := 3 })) 0x282 167
        [(2, q.toNat)] := by
  simp only [enterGot, hg, enterFailed, he, if_false]

-- ===== jobs without accesses, and the release of an orphan's line (R205, R216, R226) =====

theorem doFenceComplete_holds {s : State} {q : QueueId} {j : JobSeq} {x : Job} (hx : jobOf s q j = some x)
    (hop : x.d.opcode = opFence) (hc : x.cut = 1) (hf : fenceHolds s x = true) :
    doFenceComplete s q j = modJob s q j (fun x => { x with finished := true }) := by
  simp only [doFenceComplete, hx, hop, hc, hf, beq_self_eq_true, Bool.and_self, if_true]

theorem doMigrateRelease_orphan {s : State} {sa : SA} {dla : DLA} {w : Nat} (hh : homeOf s sa = some (devId s, dla))
    (hw : wayOfDla s dla = some w) (ho : (tagAt s (tagKey (benchOfDla dla) (lsOfDla dla) w)).state = .orphan) :
    doMigrateRelease s sa =
      doMigrateRelease.freeOrphanSector s (tagKey (benchOfDla dla) (lsOfDla dla) w) (secOfDla dla) := by
  simp only [doMigrateRelease, hh, hw, ho, bne_self_eq_false, Bool.false_eq_true, if_false]

-- ===== completion, time limits and aborts (R207, R213, R214) =====

theorem doJobComplete_over {s : State} {q : QueueId} {j : JobSeq} {x : Job} (hx : jobOf s q j = some x)
    (ho : jobOver s x = true) : doJobComplete s q j = completeJob s x := by
  simp only [doJobComplete, hx, ho, if_true]

/-- A job that runs past its limit. -/
structure PastLimit (s : State) (x : Job) (n : Nat) : Prop where
  limit : x.limit = some n
  late : n * 1000000 ≤ since s x.tstart
  recording : x.recording = false
  timedOut : x.timedOut = false
  reset : x.reset = false
  unfinished : jobOver s x = false

theorem doJobTimeout_late {s : State} {q : QueueId} {j : JobSeq} {x : Job} {n : Nat} (hx : jobOf s q j = some x)
    (h : PastLimit s x n) : doJobTimeout s q j =
      noteDrained (purgeAll (modJob s q j (fun x => { x with timedOut := true })) (mineStep q j)) := by
  obtain ⟨hn, ht, hrec, hto, hres, hov⟩ := h
  simp only [doJobTimeout, hx, hn, Nat.not_lt.mpr ht, hrec, hto, hres, hov, decide_false, Bool.or_self, Bool.false_eq_true,
    if_false]

theorem jobAbortOp_aborts {s : State} {q : QueueId} {j : JobSeq} {x : Job} (hx : jobOf s q j = some x)
    (hr : x.recording = false) : jobAbortOp s q j =
      (noteDrained (purgeAll (modJob s q j (fun x => { x with aborted := true })) (mineStep q j)), .ok, 0) := by
  simp only [jobAbortOp, hx, hr, Bool.false_eq_true, if_false]

theorem jobAbortOp_range {s : State} {q : QueueId} {j : JobSeq}
    (h : jobOf s q j = none ∨ ∃ x, jobOf s q j = some x ∧ x.recording = true) : jobAbortOp s q j = (s, .range, 0) := by
  obtain h | ⟨x, hx, hr⟩ := h
  · simp only [jobAbortOp, h]
  · simp only [jobAbortOp, hx, hr, if_true]

/-- Settles O33, by what a returned fetch brings and by what each command finds of its job. -/
theorem jobsAreFetchedAndComplete : Obligations.JobsAreFetchedAndComplete := by
  unfold Obligations.JobsAreFetchedAndComplete
  refine ⟨?fetch, ?back, ?short, ?fence, ?release, ?complete, ?timeout, ?abort⟩
  case fetch =>
    intro s ha hp
    have he : exec .descriptorFetch s = .next (sameTime s (doFetch s)) := act_sameTime s doFetch ha
    exact ⟨fun q hq => by rw [he, doFetch_found hp hq], fun hn => by rw [he, doFetch_none hp hn]⟩
  case back =>
    intro s t q a chained g n v ha hptr hact hask hgot hv ht
    have htaken : t = setQueue s q (fetchTaken (queueOf s q) chained) := by rw [ht, hv]; rfl
    have he : exec (.descriptorFetchReturn q) s = .next (sameTime s (enterGot t q chained n g)) :=
      (act_sameTime s (fun s => doFetchReturn s q) ha).trans
        (by rw [doFetchReturn_enters ⟨hptr, hact, ⟨a, hask⟩, hgot⟩, htaken])
    rw [he]
    refine ⟨fun hg h => ?_, fun hg hf hb => ?_, fun hg => ?_, fun e x hg hne hx => ?_⟩
    · rw [enterGot_unchained t q chained n hg h]
    · rw [enterGot_chained t q chained n hg hf hb]
    · rw [enterGot_poisoned t q chained n hg]; rfl
    · rw [enterGot_refused t q chained n hg hne, hx]; rfl
  case short =>
    intro s q j ha
    exact ⟨act_sameTime s (fun s => doNop s q j) ha, act_sameTime s (fun s => doFence s q j) ha⟩
  case fence =>
    intro s q j x ha hx hop hc hf
    exact (act_sameTime s (fun s => doFenceComplete s q j) ha).trans (by rw [doFenceComplete_holds hx hop hc hf]; rfl)
  case release =>
    intro s sa dla w ha hh hw ho
    rw [← doMigrateRelease_orphan hh hw ho]
    exact act_sameTime s (fun s => doMigrateRelease s sa) ha
  case complete =>
    intro s q j x ha hx ho
    rw [← doJobComplete_over hx ho]
    exact act_sameTime s (fun s => doJobComplete s q j) ha
  case timeout =>
    intro s q j x n ha hx hn ht hrec hto hres hov
    rw [← doJobTimeout_late hx ⟨hn, ht, hrec, hto, hres, hov⟩]
    exact act_sameTime s (fun s => doJobTimeout s q j) ha
  case abort =>
    intro s acc q j ha hp
    rw [← jobOf_entered s acc]
    exact ⟨fun x hx hr => act_front ha hp (jobAbortOp_aborts hx hr), fun h => act_front ha hp (jobAbortOp_range h)⟩

end Sys2Proof.Machine
end

section
/-!
Resets of queues and check-value engines (O34): the start and the end of a queue's reset, its restart and its destruction, and the
faults of an engine and its return to service (R202, R227 to R229, R243, R244).
-/

-- In order: each declaration that waits for another in a thread of its own adds to the memory of the whole compile.
set_option Elab.async false

namespace Sys2Proof.Machine

@[simp] theorem engineOf_entered (s : State) (acc : Accessor) (e : Nat) : engineOf (entered s acc) e = engineOf s e := by
  simp only [engineOf, entered_job]

-- ===== reset and destruction (R228, R229) =====

/-- A queue of the part: its state and a reset that runs decide. -/
theorem queueResetOp_eq (s : State) (q : QueueId) (destroy : Bool) : queueResetOp s q.toNat destroy =
    if (queueOf s q).state == .free then (s, .range, 0)
    else if (queueOf s q).resetting then (s, .quiesceRequired, 0)
    else (startReset s q 1 destroy, .ok, 0) := by
  simp only [queueResetOp, Nat.not_le.mpr q.isLt, BitVec.ofNat_toNat, BitVec.setWidth_eq, if_false]

theorem queueResetOp_starts {s : State} {q : QueueId} (destroy : Bool) (hf : (queueOf s q).state ≠ .free)
    (hr : (queueOf s q).resetting = false) : queueResetOp s q.toNat destroy = (startReset s q 1 destroy, .ok, 0) := by
  simp only [queueResetOp_eq, beq_eq_false_iff_ne.mpr hf, hr, Bool.false_eq_true, if_false]

theorem queueResetOp_free {s : State} {q : QueueId} (destroy : Bool) (hf : (queueOf s q).state = .free) :
    queueResetOp s q.toNat destroy = (s, .range, 0) := by
  simp only [queueResetOp_eq, hf, beq_self_eq_true, if_true]

theorem queueResetOp_running {s : State} {q : QueueId} (destroy : Bool) (hf : (queueOf s q).state ≠ .free)
    (hr : (queueOf s q).resetting = true) : queueResetOp s q.toNat destroy = (s, .quiesceRequired, 0) := by
  simp only [queueResetOp_eq, beq_eq_false_iff_ne.mpr hf, hr, Bool.false_eq_true, if_false, if_true]

/-- A queue whose reset is ready, without a job left, is zeroed or freed. -/
theorem doResetComplete_noJobs {s : State} {q : QueueId} (hr : resetReady s q = true) (hj : ∀ x ∈ s.job.jobs, x.q ≠ q) :
    doResetComplete s q = if (queueOf s q).destroying then
        setQueue (loseQueueResv s q) q { QueueS.init with epoch := (queueOf s q).epoch + 1, done := (queueOf s q).done }
      else raise (setQueue (loseQueueResv s q) q (zeroQueue (queueOf s q))) 0x280 167
        [(2, q.toNat), (1, (queueOf s q).why.toNat), (2, (queueOf s q).lost)] := by
  have hleft : s.job.jobs.filter (fun x => x.q == q && !x.recording) = [] :=
    List.filter_eq_nil_iff.mpr fun x hx h => hj x hx (beq_iff_eq.mp (Bool.and_eq_true_iff.mp h).1)
  have hany : s.job.jobs.any (fun x => x.q == q) = false :=
    List.any_eq_false.mpr fun x hx h => hj x hx (beq_iff_eq.mp h)
  simp only [doResetComplete, hr, hleft, hany, List.foldl_nil, Bool.not_true, Bool.false_eq_true, if_false]

-- ===== restart (R202, R228) =====

/-- A write of 1: the state of the queue decides, then what forbids a restart. -/
theorem queueRestartOp_one (s : State) (q : QueueId) : queueRestartOp s q 1 =
    if (queueOf s q).state == .active then (s, .ok, 0)
    else if (queueOf s q).state == .free then (s, .range, 0)
    else if (queueOf s q).resetting || (queueOf s q).why == 3 || (queueOf s q).why == 4 then (s, .quiesceRequired, 0)
    else (setQueue s q { queueOf s q with state := .active, why := 0 }, .ok, 0) := rfl

theorem queueRestartOp_active {s : State} {q : QueueId} (h : (queueOf s q).state = .active) :
    queueRestartOp s q 1 = (s, .ok, 0) := by
  rw [queueRestartOp_one, h]; rfl

theorem queueRestartOp_free {s : State} {q : QueueId} (h : (queueOf s q).state = .free) :
    queueRestartOp s q 1 = (s, .range, 0) := by
  rw [queueRestartOp_one, h]; rfl

theorem queueRestartOp_mustReset {s : State} {q : QueueId} (h : (queueOf s q).state = .stopped)
    (hr : (queueOf s q).resetting = true ∨ (queueOf s q).why = 3 ∨ (queueOf s q).why = 4) :
    queueRestartOp s q 1 = (s, .quiesceRequired, 0) := by
  have hheld : ((queueOf s q).resetting || (queueOf s q).why == 3 || (queueOf s q).why == 4) = true := by
    obtain h | h | h := hr <;> simp only [h, beq_self_eq_true, Bool.true_or, Bool.or_true]
  rw [queueRestartOp_one, h, hheld]; rfl

theorem queueRestartOp_restarts {s : State} {q : QueueId} (h : (queueOf s q).state = .stopped)
    (hr : (queueOf s q).resetting = false) (h3 : (queueOf s q).why ≠ 3) (h4 : (queueOf s q).why ≠ 4) :
    queueRestartOp s q 1 = (setQueue s q { queueOf s q with state := .active, why := 0 }, .ok, 0) := by
  have hmay : ((queueOf s q).resetting || (queueOf s q).why == 3 || (queueOf s q).why == 4) = false := by
    simp only [hr, beq_eq_false_iff_ne.mpr h3, beq_eq_false_iff_ne.mpr h4, Bool.or_self]
  simp only [queueRestartOp_one, beq_eq_false_iff_ne.mpr (h ▸ nofun : (queueOf s q).state ≠ .active),
    beq_eq_false_iff_ne.mpr (h ▸ nofun : (queueOf s q).state ≠ .free), hmay, Bool.false_eq_true, if_false]

-- ===== check-value engines (R243, R244) =====

theorem doParity_idle {s : State} {e : BitVec 5} (hs : (engineOf s e.toNat).service = true)
    (hb : (engineOf s e.toNat).busy = none) : doParity s e = engineOut s e.toNat 0 0 := by
  simp only [doParity, hs, hb, Bool.not_true, Bool.false_eq_true, if_false]

theorem doParity_busy {s : State} {e : BitVec 5} {b : Bench} {q : QueueId} {j : JobSeq}
    (hs : (engineOf s e.toNat).service = true) (hb : (engineOf s e.toNat).busy = some (b, q, j)) :
    doParity s e = doStepEnd (modRun s b (fun r => { r with stop := true, parity := true })) b := by
  simp only [doParity, hs, hb, Bool.not_true, Bool.false_eq_true, if_false]

/-- Of the job front end, an engine that leaves service changes the engine and the count of parity faults. -/
theorem engineOut_job (s : State) (e : Nat) (q : QueueId) (j : JobSeq) : (engineOut s e q j).job =
    { (setEngine s e { engineOf s e with service := false, busy := none }).job with ckParity := s.job.ckParity + 1 } := by
  rw [engineOut]
  split <;> rfl

/-- The value written is never the table's default, which is in service. -/
theorem engineOf_engineOut (s : State) (e : Nat) (q : QueueId) (j : JobSeq) :
    engineOf (engineOut s e q j) e = { engineOf s e with service := false, busy := none } := by
  rw [engineOf, engineOut_job]
  exact tget_tput_new EngineS.init s.job.engines e _ fun h => Bool.false_ne_true (congrArg EngineS.service h)

/-- Settles O34, by the state of the queue or the engine that each command finds. -/
theorem queuesAreResetAndEnginesServe : Obligations.QueuesAreResetAndEnginesServe := by
  unfold Obligations.QueuesAreResetAndEnginesServe
  refine ⟨?reset, ?complete, ?zeroed, ?restart, ?parity, ?out, ?back⟩
  case reset =>
    intro s acc q ha hp
    rw [← queueOf_entered s acc]
    refine ⟨fun hf hr => ?starts, ?refused⟩
    case starts => exact ⟨act_front ha hp (queueResetOp_starts false hf hr), act_front ha hp (queueResetOp_starts true hf hr)⟩
    case refused =>
      rintro i (rfl | rfl)
      · exact ⟨fun hf => act_front ha hp (queueResetOp_free false hf),
          fun hf hr => act_front ha hp (queueResetOp_running false hf hr)⟩
      · exact ⟨fun hf => act_front ha hp (queueResetOp_free true hf),
          fun hf hr => act_front ha hp (queueResetOp_running true hf hr)⟩
  case complete =>
    intro s q ha hr hj
    have he : exec (.queueResetComplete q) s = .next (sameTime s (doResetComplete s q)) :=
      act_sameTime s (fun s => doResetComplete s q) ha
    rw [he, doResetComplete_noJobs hr hj]
    refine ⟨fun hd => ?_, fun hd => ?_⟩
    · rw [hd]; rfl
    · rw [hd]; rfl
  case zeroed => exact fun v => ⟨rfl, rfl, rfl, rfl, rfl, rfl, rfl, rfl, rfl, rfl, rfl, rfl⟩
  case restart =>
    intro s acc q ha hp
    rw [← queueOf_entered s acc]
    exact ⟨fun h hr h3 h4 => act_front ha hp (queueRestartOp_restarts h hr h3 h4),
      fun h hr => act_front ha hp (queueRestartOp_mustReset h hr), fun h => act_front ha hp (queueRestartOp_active h),
      fun h => act_front ha hp (queueRestartOp_free h)⟩
  case parity =>
    intro s e ha hs
    have he : exec (.engineParityFault e) s = .next (sameTime s (doParity s e)) := act_sameTime s (fun s => doParity s e) ha
    rw [he]
    refine ⟨fun hb => ?_, fun b q j hb => ?_⟩
    · rw [doParity_idle hs hb]
    · rw [doParity_busy hs hb]
  case out => exact fun s e q j => ⟨engineOf_engineOut s e q j, congrArg JobS.ckParity (engineOut_job s e q j)⟩
  case back =>
    intro s acc e ha hp
    rw [← engineOf_entered s acc]
    exact act_front ha hp rfl

end Sys2Proof.Machine
end
